-- ==== Sys2Proof/Word.lean ====
section
/-! DEFINITION. The words of the machine: bytes, 32-bit code words and 64-bit registers. -/

namespace Sys2Proof

/-- One byte of memory (R10). -/
abbrev Byte := BitVec 8

/-- A 64-bit register value (R108) and a control register (R42). -/
abbrev Word := BitVec 64

/-- A 32-bit code word (R89). -/
abbrev Word32 := BitVec 32

/-- The two layers' stacks, 0 and 1 (R2). -/
abbrev StackId := Fin 2

/-- The four masters of control space (R41). -/
abbrev Master := Fin 4

end Sys2Proof
end

