-- ==== Sys2Proof/Machine/Bits.lean ====
section
/-! DEFINITION. Bit fields, sign extension and byte order, said once (R8, R10, R179). -/

namespace Sys2Proof.Bits

/-- Bits [hi:lo] of a natural number (R8). -/
def field (hi lo x : Nat) : Nat := (x >>> lo) % 2 ^ (hi + 1 - lo)

/-- One bit of a natural number. -/
def bit (i x : Nat) : Bool := x.testBit i

/-- The value of `x` read as a two's-complement number of `w` bits. -/
def toSigned (w x : Nat) : Int :=
  let y := x % 2 ^ w
  if w = 0 then 0 else if y < 2 ^ (w - 1) then (y : Int) else (y : Int) - (2 ^ w : Nat)

/-- The pattern of `w` bits that stands for an integer modulo 2^w. -/
def wrap (w : Nat) (x : Int) : Nat := (x % ((2 ^ w : Nat) : Int)).toNat

/-- Sign extension of a `w`-bit pattern to 64 bits. -/
def sext (w x : Nat) : Word := BitVec.ofInt 64 (toSigned w x)

/-- Replaces bits [lo + w - 1 : lo] of `x` by the low `w` bits of `y`. -/
def insert (lo w x y : Nat) : Nat :=
  x - (field (lo + w - 1) lo x) * 2 ^ lo + (y % 2 ^ w) * 2 ^ lo

/-- The low `n` bytes of a number, lowest address first (R10). -/
def toBytes : Nat → Nat → List Byte
  | 0, _ => []
  | n + 1, x => BitVec.ofNat 8 x :: toBytes n (x >>> 8)

/-- The little-endian value of a list of bytes (R10). -/
def ofBytes : List Byte → Nat
  | [] => 0
  | b :: bs => b.toNat + 256 * ofBytes bs

/-- The number of one bits among the low `w` bits. -/
def popcount : Nat → Nat → Nat
  | 0, _ => 0
  | w + 1, x => (x % 2) + popcount w (x / 2)

/-- The indices below `w` at which a number has a one bit, rising. -/
def onesBelow (w x : Nat) : List Nat := (List.range w).filter (fun i => x.testBit i)

/-- The pattern with a one bit at each index of a list. -/
def maskOf (is : List Nat) : Nat := is.foldl (fun m i => m ||| 2 ^ i) 0

/-- The low `w` bits in reverse order. -/
def reverse (w x : Nat) : Nat := maskOf ((List.range w).filter (fun i => x.testBit (w - 1 - i)))

/-- Zero bits above the highest one bit, of `w` bits. -/
def clz (w x : Nat) : Nat :=
  let y := x % 2 ^ w
  if y = 0 then w else w - 1 - Nat.log2 y

/-- Zero bits below the lowest one bit, of `w` bits. -/
def ctz (w x : Nat) : Nat := ((List.range w).find? (fun i => x.testBit i)).getD w

/-- The exact quotient rounded up. -/
def ceilDiv (a b : Nat) : Nat := (a + b - 1) / b

end Sys2Proof.Bits
end

