-- ==== Sys2Proof/Config.lean ====
section
/-! DEFINITION. What an implementation of the manual fixes, and the free values: constants with no body, of which no proof can learn a value. -/

namespace Sys2Proof.Config

/-- GDDR 7 bytes that a pass moves, by its frame's serial number and its index: what the caches save the manual leaves open (R57, R413). Log 3. -/
opaque passBytes : Nat → Nat → Nat

/-- When a pass has moved more GDDR 7 bytes than it promised, ns, by serial number and index (R57). Log 3. -/
opaque overAt : Nat → Nat → Nat

/-- GDDR 7 bytes that a pass has moved in a quantum on a stack, by serial number, index, stack, quantum and time, ns (R59). Log 3. -/
opaque movedBytes : Nat → Nat → Nat → Nat → Nat → Nat

/-- Which of the translations that TLBs hold of an address an access uses, by time and address (R244). Log 16. -/
opaque tlbPick : Nat → Nat → Nat

/-- Whether a load finds an 8-byte word of a held RO line as it was before it changed, by operation count, time and word (R247). Log 73. -/
opaque staleWord : Nat → Nat → Nat → Bool

/-- Whether a fetch finds a code word as it was before it changed, by core, time and address (R92). Log 73. -/
opaque staleCode : Nat → Nat → Nat → Bool

/-- Ways of a core's L1, less one, and the set of a line in a carve (R366). Log 74. -/
opaque l1WaysM1 : Nat
opaque l1SetOf : Nat → Nat → Nat

/-- The line that a full set of an L1 gives up, by time and the line that comes in (R68). Log 74. -/
opaque l1Victim : Nat → Nat → Nat

/-- The way of a core's L1 that holds a line (R262). Log 74. -/
opaque l1WayOf : Nat → Nat → Nat

/-- The bank of its home slice in which a GDDR 7 line is cached (R250, R262). Log 74. -/
opaque cacheBank : Nat → Nat

/-- Whether a dirty GDDR 7 line has been written back, by line, time of the write and time, ps (R252, R262). Log 74. -/
opaque writtenBack : Nat → Nat → Nat → Bool

/-- Steps of a running macro-operation that a save finds done, by the operation (R328). Log 3. -/
opaque stepsDone : Nat → Nat

/-- The tile that owns a triangle with a NaN vertex, by the record's bits (R358): the manual orders no NaN. Log 3. -/
opaque nanOwner : Nat → Nat

/-- A perspective barycentric half whose 1/w is not finite or sums to zero, by the record's bits and the pixel (R350). Log 3. -/
opaque openBary : Nat → Nat → Nat

/-- The depth a blender compares with where it has a depth mode and no depth target, by the pixel (R345, R351). Log 3. -/
opaque openDepth : Nat → Nat

/-- The variable latency, in picoseconds, of the n-th variable-latency operation (R106, R338, R354): the manual gives bounds only. Log 4. -/
opaque latency : Nat → Nat

/-- The root public key in the boot ROM (R426). Log 5. -/
opaque rootKey : List Byte

/-- The on-die physically unclonable response (R429). Log 5. -/
opaque dieResponse : List Byte

/-- The digest of the image of a kind that the device booted from (R430, R437). Log 5. -/
opaque measurement : Nat → List Byte

/-- The CRC-64 of a flit's bytes 0 to 247; the manual names no polynomial (R419). Log 5. -/
opaque crc64 : List Byte → List Byte

/-- What the peer box contributes to a cross-box collective, from the one buffer of its participants: frame serial and pass of this box,
tile, element (R416, R418). Log 12. -/
opaque peerElement : Nat → Nat → Nat → Nat → Word

/-- The stacks that the peer names in its matching cross-box pass, as two bits, by frame serial and pass (R416). Log 12. -/
opaque peerSpan : Nat → Nat → Nat

/-- What a collective contribution's payload says of the peer's pass: COP, CRED, CTYPE, CCOUNT and the grid (R417, R419); the manual gives
the payload no layout. Log 12. -/
opaque offered : List Byte → List Nat

/-- Which of the peer's passes, in the acceptance order of its frames, a collective contribution belongs to (R417, R419). Log 12. -/
opaque offeredPass : List Byte → Nat

/-- The calibrated period of a class at the n-th recalibration, as ps above the nominal one (R130, R438). Log 7. -/
opaque drift : Nat → Nat → Nat

/-- DEVID.revision: the manual gives no number (R432). Log 13. -/
opaque revision : Nat

/-- What a read of a write-only register returns, by offset (R42, R243, R276, R433). Log 13. -/
opaque writeOnly : Nat → Word

/-- The value of GLANE in an 8-bit float type that cannot hold it (R98). Log 14. -/
opaque specialOperand : Nat → Word

/-- The working precision, in bits, at which the correctly rounded functions of R221 and R335 give up looking for a decision. Log 10. -/
def transcendentalFuel : Nat := 12

/-- Cores in service of a stack (R4, R66). -/
def coresPerStack : Nat := 96

/-- Couch engines of a stack, one a cluster (R4). -/
def enginesPerStack : Nat := 12

/-- Bytes of the GDDR 7 range fitted (R238). -/
def gddrBytes : Nat := 0x2000000000

/-- Nominal class periods in picoseconds (R130). -/
def nominalPeriod : Fin 4 → Nat
  | 0 => 400
  | 1 => 550
  | 2 => 667
  | 3 => 800

end Sys2Proof.Config
end

