-- ==== Sys2Proof/Machine/Crypto.lean ====
section
/-! DEFINITION. SHA-512 and Ed25519, which R426, R429, R430 and R437 name by their standards, and the identity key (log 5). -/

namespace Sys2Proof.Crypto

open Sys2Proof.Bits

/-! ## SHA-512 (FIPS 180-4) -/

/-- The first 80 primes. -/
def primes : List Nat :=
  [2, 3, 5, 7, 11, 13, 17, 19, 23, 29, 31, 37, 41, 43, 47, 53, 59, 61, 67, 71, 73, 79, 83, 89, 97, 101, 103, 107, 109, 113]
    ++ [127, 131, 137, 139, 149, 151, 157, 163, 167, 173, 179, 181, 191, 193, 197, 199, 211, 223, 227, 229, 233, 239, 241, 251]
    ++ [257, 263, 269, 271, 277, 281, 283, 293, 307, 311, 313, 317, 331, 337, 347, 349, 353, 359, 367, 373, 379, 383, 389, 397, 401, 409]

/-- The greatest r below r0 + 2^n with r^k at most x, bit by bit from the top. -/
def root (k x : Nat) : Nat → Nat → Nat
  | 0, r => r
  | n + 1, r => root k x n (if (r + 2 ^ n) ^ k ≤ x then r + 2 ^ n else r)

/-- The first 64 bits of the fraction of the k-th root of a prime. -/
def rootFraction (k p : Nat) : Nat := root k (p * 2 ^ (64 * k)) 70 0 % 2 ^ 64

/-- The round constants. -/
def roundConstants : List Nat := primes.map (rootFraction 3)

/-- The eight words that a digest starts from. -/
def initial : List Nat := (primes.take 8).map (rootFraction 2)

/-- A 64-bit word rotated right. -/
def rotr (n x : Nat) : Nat := x >>> n ||| (x <<< (64 - n)) % 2 ^ 64

/-- One more word of the message schedule. -/
def nextWord (w : List Nat) : List Nat :=
  let t := w.length
  let x := w.getD (t - 15) 0
  let y := w.getD (t - 2) 0
  let s0 := rotr 1 x ^^^ rotr 8 x ^^^ x >>> 7
  let s1 := rotr 19 y ^^^ rotr 61 y ^^^ y >>> 6
  w ++ [(w.getD (t - 16) 0 + s0 + w.getD (t - 7) 0 + s1) % 2 ^ 64]

/-- The message schedule of a block of sixteen words. -/
def schedule (block : List Nat) : List Nat := (List.range 64).foldl (fun w _ => nextWord w) block

/-- One round on the eight working words, with the round's constant and message word. -/
def round (v : List Nat) (kw : Nat × Nat) : List Nat :=
  match v with
  | [a, b, c, d, e, f, g, h] =>
    let t1 := h + (rotr 14 e ^^^ rotr 18 e ^^^ rotr 41 e) + ((e &&& f) ^^^ ((2 ^ 64 - 1 - e) &&& g)) + kw.1 + kw.2
    let t2 := (rotr 28 a ^^^ rotr 34 a ^^^ rotr 39 a) + ((a &&& b) ^^^ (a &&& c) ^^^ (b &&& c))
    [(t1 + t2) % 2 ^ 64, a, b, c, (d + t1) % 2 ^ 64, e, f, g]
  | _ => v

/-- The digest so far after one more block. -/
def compress (ks : List Nat) (h block : List Nat) : List Nat :=
  ((h.zip ((ks.zip (schedule block)).foldl round h)).map fun x => (x.1 + x.2) % 2 ^ 64)

/-- A message with its padding: a one bit, zeros, and its length in bits as 16 bytes, to a multiple of 128 bytes. -/
def padded (m : List Byte) : List Byte :=
  m ++ [0x80#8] ++ List.replicate ((239 - m.length % 128) % 128) 0 ++ (toBytes 16 (8 * m.length)).reverse

/-- The big-endian word in 8 bytes of a message. -/
def wordAt (m : List Byte) (i : Nat) : Nat := ofBytes ((m.drop (8 * i)).take 8).reverse

/-- The SHA-512 digest of a message, 64 bytes. -/
def sha512 (m : List Byte) : List Byte :=
  let p := padded m
  let blocks := (List.range (p.length / 128)).map fun b => (List.range 16).map fun i => wordAt (p.drop (128 * b)) i
  (blocks.foldl (compress roundConstants) initial).flatMap fun w => (toBytes 8 w).reverse

/-! ## Ed25519 (RFC 8032) -/

/-- The field's prime and the order of the base point. -/
def prime : Nat := 2 ^ 255 - 19
def order : Nat := 2 ^ 252 + 27742317777372353535851937790883648493

/-- b^e modulo the prime, over the low n bits of e. -/
def power (b e : Nat) : Nat → Nat → Nat
  | 0, a => a
  | n + 1, a => power b e n (if e.testBit n then a * a % prime * b % prime else a * a % prime)

def fpow (b e : Nat) : Nat := power (b % prime) e 255 1
def inverse (x : Nat) : Nat := fpow x (prime - 2)

/-- x − y modulo the prime. -/
def minus (x y : Nat) : Nat := (x + prime - y % prime) % prime

/-- The curve's constant d = −121665/121666. -/
def curveD : Nat := minus 0 (121665 * inverse 121666 % prime)

/-- A point in extended coordinates. -/
structure Point where
  x : Nat
  y : Nat
  z : Nat
  t : Nat
  deriving DecidableEq, Repr

/-- The neutral point. -/
def Point.zero : Point := ⟨0, 1, 1, 0⟩

/-- Addition, complete on the curve. -/
def Point.add (d : Nat) (p q : Point) : Point :=
  let a := minus p.y p.x * minus q.y q.x % prime
  let b := (p.y + p.x) * (q.y + q.x) % prime
  let c := p.t * 2 * d % prime * q.t % prime
  let e := p.z * 2 * q.z % prime
  let f := minus b a
  let g := minus e c
  let h := (e + c) % prime
  let i := (b + a) % prime
  ⟨f * g % prime, h * i % prime, g * h % prime, f * i % prime⟩

/-- A multiple of a point, over the low n bits of k. -/
def Point.times (d k : Nat) (p : Point) : Nat → Point → Point
  | 0, q => q
  | n + 1, q =>
    let r := q.add d q
    Point.times d k p n (if k.testBit n then r.add d p else r)

def Point.mul (k : Nat) (p : Point) : Point := Point.times curveD k p 256 .zero

/-- Whether two points are the same. -/
def Point.same (p q : Point) : Bool :=
  p.x * q.z % prime == q.x * p.z % prime && p.y * q.z % prime == q.y * p.z % prime

/-- A point as 32 bytes: y, and the low bit of x in the top bit. -/
def Point.encode (p : Point) : List Byte :=
  let i := inverse p.z
  toBytes 32 (p.y * i % prime + p.x * i % prime % 2 * 2 ^ 255)

/-- The square root of u/v, where there is one. -/
def rootOfRatio (u v : Nat) : Option Nat :=
  let x := u * fpow v 3 % prime * fpow (u * fpow v 7) ((prime - 5) / 8) % prime
  let w := v * x % prime * x % prime
  if w = u % prime then some x
  else if w = minus 0 u then some (x * fpow 2 ((prime - 1) / 4) % prime)
  else none

/-- The point that 32 bytes encode, if they encode one. -/
def Point.decode (b : List Byte) : Option Point :=
  let n := ofBytes b
  let y := n % 2 ^ 255
  let sign := n / 2 ^ 255 % 2
  if b.length != 32 || prime ≤ y then none
  else
    (rootOfRatio (minus (y * y) 1) (curveD * (y * y % prime) + 1)).bind fun x =>
      if x = 0 && sign = 1 then none
      else
        let z := if x % 2 = sign then x else prime - x
        some ⟨z, y, 1, z * y % prime⟩

/-- The base point. -/
def base : Point := (Point.decode (toBytes 32 (4 * inverse 5 % prime))).getD .zero

/-- The number of which a signature is made: a digest modulo the order. -/
def scalar (m : List Byte) : Nat := ofBytes (sha512 m) % order

/-- Whether a signature verifies under a public key: [8][S]B = [8]R + [8][k]A. -/
def verify (key msg sig : List Byte) : Bool :=
  let s := ofBytes (sig.drop 32)
  match Point.decode key, Point.decode (sig.take 32) with
  | some a, some r =>
    sig.length == 64 && decide (s < order)
      && (base.mul (8 * s % order)).same ((r.mul 8).add curveD ((a.mul (scalar (sig.take 32 ++ key ++ msg))).mul 8))
  | _, _ => false

/-- The secret scalar of a seed. -/
def secret (seed : List Byte) : Nat :=
  let n := ofBytes ((sha512 seed).take 32)
  n % 2 ^ 254 - n % 8 + 2 ^ 254

/-- The public key of a seed. -/
def publicKey (seed : List Byte) : List Byte := (base.mul (secret seed)).encode

/-- The signature of a message under a seed. -/
def sign (seed msg : List Byte) : List Byte :=
  let r := scalar ((sha512 seed).drop 32 ++ msg)
  let a := (base.mul r).encode
  a ++ toBytes 32 ((r + scalar (a ++ publicKey seed ++ msg) * secret seed) % order)

/-! ## The identity key (R429) -/

/-- The private seed: the first 32 bytes of the digest of the on-die response. -/
def identitySeed : List Byte := (sha512 Config.dieResponse).take 32

/-- The identity public key. -/
def identityKey : List Byte := publicKey identitySeed

end Sys2Proof.Crypto
end

