-- ==== Sys2Proof/Syntax.lean ====
section
/-! DEFINITION. The syntax of the machine's steps: one constructor of Instr for every row of spec/opcode_table.json, with the operand fields the spec's encodings give it. -/

namespace Sys2Proof

/-- A scalar register s0 to s63 (R108). -/
abbrev SReg := Fin 64

/-- A condition bit c0 to c3 (R108). -/
abbrev CBit := Fin 4

/-- A predicate p0 to p15 (R108). -/
abbrev PReg := Fin 16

/-- A token t0 to t15 (R137). -/
abbrev Tok := Fin 16

/-- The conditions of SCMP, coded 0 to 7 (R152). -/
inductive SCond where
  | eq | ne | lt | le | ltn | len | bit | nbit
  deriving DecidableEq, Repr

/-- The special registers SRD and SWR name by number (R109). -/
inductive Special where
  | gangid | groupid | tilex | tiley | passid | gangw | lmask | helper | fmt | satf | fltmask
  | trappc | trapcause | errsum | ckrb | cycles | clscyc (k : Fin 4) | nstime | batch | budget | vcnt
  deriving DecidableEq, Repr

/-- The type codes of the ty field (R101); codes 22 to 31 are kept as codes that name no type. -/
inductive TyCode where
  | i8 | i16 | i32 | i64 | n8 | n16 | n32 | n64 | f16 | bf16 | f32 | f64 | e4m3 | e5m2
  | mxf8 | mxf6a | mxf6b | mxf4 | kx4 | b64 | fa | fb
  | bad (k : Fin 10)
  deriving DecidableEq, Repr

/-- A 9-bit operand code of a lane instruction (R97). -/
inductive Operand where
  /-- v0 to v319 -/
  | v (n : Fin 320)
  /-- inline constant, code 320 + k (R99) -/
  | const (k : Fin 64)
  /-- s0 to s63, broadcast -/
  | s (n : Fin 64)
  /-- p0 to p15 -/
  | p (n : Fin 16)
  /-- a0 to a7 -/
  | acc (n : Fin 8)
  | laneId | quadId | glane | helper
  /-- reserved codes 476 to 511 -/
  | bad (k : Fin 36)
  deriving DecidableEq, Repr

/-- The fields of a lane instruction below its opcode (R96). -/
structure Lane where
  d : Operand
  a : Operand
  b : Operand
  c : Operand
  pg : Fin 16
  pn : Bool
  ty : TyCode
  mod : BitVec 4
  cls : Fin 4
  st : Fin 16
  set : Fin 8
  wo : Fin 8
  x24 : BitVec 24
  deriving DecidableEq, Repr

/-- The lane opcodes of R114, by name. -/
inductive LOp where
  | vadd
  | vsub
  | vmul
  | vmulh
  | vmad
  | vmadw
  | vabs
  | vneg
  | vmin
  | vmax
  | vabsd
  | vsad
  | vand
  | vor
  | vxor
  | vnot
  | vshl
  | vshr
  | vsra
  | vrot
  | vbfe
  | vbfi
  | vpopc
  | vclz
  | vctz
  | vbrev
  | vbswp
  | vcmp
  | vsel
  | vmov
  | vpack
  | vunpk
  | vfadd
  | vfsub
  | vfmul
  | vfma
  | vfmin
  | vfmax
  | vfcmp
  | vfclass
  | vfrnd
  | vfrcp
  | vfrsq
  | vfsqrt
  | vfdiv
  | vfexp2
  | vflog2
  | vfsin
  | vfcos
  | vdot
  | vcvt
  | vcvtx
  | vscale
  | vxln
  | vqswz
  | vqdx
  | vqdy
  | vmatch
  | vballot
  | vvote
  | vscan
  | vred
  | vbcast
  | vld
  | vst
  | vlds
  | vsts
  | vpref
  | vatom
  | vcas
  | vfar
  | emit
  | mma
  | mmaS
  | mmaCsr
  | mzero
  | mlda
  | msta
  | vrcq
  | vtrace
  | vsamp
  | vsampl
  | vcov
  deriving DecidableEq, Repr

/-- An array the device may power-gate (R262): a vat bank, an L1 way, a 4 KiB scratchpad range of a core. -/
inductive GatedArray where
  | vatBank (st : StackId) (slice : Fin 64) (bank : Fin 16)
  | l1Way (core way : Nat)
  | scratch (core range : Nat)
  deriving DecidableEq, Repr

/-- What the on-package flash holds at a reset: the images of kinds 0 to 4 and the configuration record, as bytes (R426, R427). -/
structure Flash where
  images : List (List Byte)
  config : List Byte
  deriving DecidableEq, Repr

/-- The steps of the machine: the instruction words, the illegal-instruction step and the device's own steps, one constructor for each row of the opcode table. -/
inductive Instr where
  /-- SADD (R151): Register form: writes the sum of two s registers, modulo 2^64, to sd. -/
  | sadd (d a b : SReg)
  /-- SSUB (R151): Register form: writes the difference of two s registers to sd. -/
  | ssub (d a b : SReg)
  /-- SMUL (R151): Register form: writes the low 64 bits of the product to sd. -/
  | smul (d a b : SReg)
  /-- SMULH (R151): Writes the high 64 bits of the 128-bit product, signed or, with .N, unsigned. -/
  | smulh (d a b : SReg) (unsigned : Bool)
  /-- SAND (R151): Register form: writes the bitwise AND to sd. -/
  | sand (d a b : SReg)
  /-- SOR (R151): Register form: writes the bitwise OR to sd. -/
  | sor (d a b : SReg)
  /-- SXOR (R151): Register form: writes the bitwise XOR to sd. -/
  | sxor (d a b : SReg)
  /-- SSHL (R151): Register form: shifts sa left by s[sb][5:0]. -/
  | sshl (d a b : SReg)
  /-- SSHR (R151): Register form: shifts sa right logically by s[sb][5:0]. -/
  | sshr (d a b : SReg)
  /-- SSRA (R151): Register form: shifts sa right arithmetically by s[sb][5:0]. -/
  | ssra (d a b : SReg)
  /-- SMIN (R151): Register form: writes the signed minimum to sd. -/
  | smin (d a b : SReg)
  /-- SMAX (R151): Register form: writes the signed maximum to sd. -/
  | smax (d a b : SReg)
  /-- SMINN (R151): Register form: writes the unsigned minimum to sd. -/
  | sminn (d a b : SReg)
  /-- SMAXN (R151): Register form: writes the unsigned maximum to sd. -/
  | smaxn (d a b : SReg)
  /-- SCMP (R152): Register form: sets a c bit to the outcome of a signed, unsigned or bit-test comparison. -/
  | scmp (cc : SCond) (k : CBit) (a b : SReg)
  /-- SSEL (R153): Writes sa to sd if the named c bit is 1, and sb otherwise. -/
  | ssel (d a b : SReg) (k : CBit)
  /-- SMOV (R151): Copies sa to sd. -/
  | smov (d a : SReg)
  /-- SPOPC (R151): Writes the number of one bits of sa to sd. -/
  | spopc (d a : SReg)
  /-- SCLZ (R151): Writes the number of leading zero bits of sa to sd. -/
  | sclz (d a : SReg)
  /-- FMTSET (R169): Writes s[sa] into the issuing fragment's FMTF. -/
  | fmtset (a : SReg)
  /-- FMTGET (R169): Writes the fragment's FMTF, zero-extended, to sd. -/
  | fmtget (d : SReg)
  /-- BRX (R159): Branches the fragment to the address in s[sa]; may end handler mode. -/
  | brx (a : SReg)
  /-- PARK (R166): Compares a 32- or 64-bit word in memory with a value, and parks the fragment until a write makes it match. -/
  | park (a b : SReg) (dbl ne : Bool)
  /-- LAUNCH (R176): Reads a kernel descriptor and takes a pending-launch entry for child groups; it parks, or with .NW clears c, when the store is full. -/
  | launch (a b : SReg) (nw : Bool) (k : CBit)
  /-- BATON_TAKE (R306): Takes the core's matrix baton, or blocks in the baton queue. -/
  | batonTake
  /-- BATON_PASS (R306): Passes the baton to a named gang of the group. -/
  | batonPass (b : SReg)
  /-- BATON_PASS_ANY (R306): Passes the baton to the head of the baton queue, or frees it. -/
  | batonPassAny
  /-- LEASE (R277): Pins a range of GDDR 7 lines in the vat cache for a duration, or sets REFD when refused. -/
  | lease (a b : SReg)
  /-- UNLEASE (R278): Ends every lease keyed by the given line address. -/
  | unlease (a : SReg)
  /-- FINIT (R376): Empties a future and zeroes its value. -/
  | finit (a : SReg)
  /-- FFILL (R376): Fills an empty future, or sets SYNE if it is full, and wakes its waiting FTAKEs. -/
  | ffill (a b : SReg)
  /-- FTAKE (R376): Returns a future's value, and parks until the future is full. -/
  | ftake (d a : SReg)
  /-- FPEEK (R376): Returns a future's value and its full state without parking. -/
  | fpeek (d a : SReg) (k : CBit)
  /-- QINIT (R377): Initialises a quire's phase and expected arrivals, and clears ARR and BYTES. -/
  | qinit (a b : SReg)
  /-- QARR (R377): Records one arrival at a quire, and may complete its phase. -/
  | qarr (a : SReg)
  /-- QBYT (R377): Adds a signed byte delta to a quire, and may complete its phase. -/
  | qbyt (a b : SReg)
  /-- QWAIT (R377): Continues once a named quire phase has passed, and parks until then. -/
  | qwait (a b : SReg)
  /-- SADD_IMM (R151): Immediate form of SADD. -/
  | saddImm (d a : SReg) (i : BitVec 12)
  /-- SSUB_IMM (R151): Immediate form of SSUB. -/
  | ssubImm (d a : SReg) (i : BitVec 12)
  /-- SMUL_IMM (R151): Immediate form of SMUL. -/
  | smulImm (d a : SReg) (i : BitVec 12)
  /-- SAND_IMM (R151): Immediate form of SAND. -/
  | sandImm (d a : SReg) (i : BitVec 12)
  /-- SOR_IMM (R151): Immediate form of SOR. -/
  | sorImm (d a : SReg) (i : BitVec 12)
  /-- SXOR_IMM (R151): Immediate form of SXOR. -/
  | sxorImm (d a : SReg) (i : BitVec 12)
  /-- SSHL_IMM (R151): Immediate form of SSHL, with a 6-bit amount. -/
  | sshlImm (d a : SReg) (i : BitVec 6)
  /-- SSHR_IMM (R151): Immediate form of SSHR. -/
  | sshrImm (d a : SReg) (i : BitVec 6)
  /-- SSRA_IMM (R151): Immediate form of SSRA. -/
  | ssraImm (d a : SReg) (i : BitVec 6)
  /-- SMIN_IMM (R151): Immediate form of SMIN. -/
  | sminImm (d a : SReg) (i : BitVec 12)
  /-- SMAX_IMM (R151): Immediate form of SMAX. -/
  | smaxImm (d a : SReg) (i : BitVec 12)
  /-- SMINN_IMM (R151): Immediate form of SMINN, with the operand sign-extended and then compared unsigned. -/
  | sminnImm (d a : SReg) (i : BitVec 12)
  /-- SMAXN_IMM (R151): Immediate form of SMAXN. -/
  | smaxnImm (d a : SReg) (i : BitVec 12)
  /-- SCMP_IMM (R152): Immediate form of SCMP. -/
  | scmpImm (cc : SCond) (k : CBit) (a : SReg) (i : BitVec 12)
  /-- SLI (R154): Loads a sign-extended 12-bit immediate into sd. -/
  | sli (d : SReg) (i : BitVec 12)
  /-- SLIH (R154): Replaces bits [63:52] of sa with a 12-bit immediate and writes the result to sd. -/
  | slih (d a : SReg) (i : BitVec 12)
  /-- SLIW (R154): Two-word literal load: sd := (sa[31:0] << 32) OR lit32. -/
  | sliw (d a : SReg) (lit : BitVec 32)
  /-- SBFE (R155): Extracts a zero-extended bit field of sa into sd. -/
  | sbfe (d a : SReg) (len pos : BitVec 6)
  /-- SBFI (R155): Inserts the low bits of sa into a field of sd. -/
  | sbfi (d a : SReg) (len pos : BitVec 6)
  /-- SLD (R156): Loads 8 bytes from a global virtual address, or from the control aperture, into sd. -/
  | sld (d a : SReg) (i : BitVec 12)
  /-- SST (R156): Stores 8 bytes from an s register to a global virtual address. -/
  | sst (v a : SReg) (i : BitVec 12)
  /-- COPY (R288): An SST of a copy word to the copy aperture, which hands a template copy to channel N of the cluster's couch engine. -/
  | copy (v a : SReg) (ch : Fin 16)
  /-- SLDS (R156): Loads 8 bytes from the group's scratchpad window into sd. -/
  | slds (d a : SReg) (i : BitVec 12)
  /-- SSTS (R156): Stores 8 bytes to the group's scratchpad window. -/
  | ssts (v a : SReg) (i : BitVec 12)
  /-- SRD (R170): Reads a numbered special register into sd. -/
  | srd (d : SReg) (n : Special)
  /-- SWR (R170): Writes a numbered special register under the rules for RW and W1C registers. -/
  | swr (n : Special) (a : SReg)
  /-- GIVE (R173): Moves n registers per lane of the gang to the group's spare pool and lowers VCOUNTg. -/
  | give (n : BitVec 12)
  /-- CLAIM (R174): Requests n more registers per lane from the spare or free pool, and blocks the gang in the claim queue until granted. -/
  | claim (n : BitVec 12)
  /-- NOP (R159): Advances the program counter by 4. -/
  | nop
  /-- BRA (R159): Branches the fragment by a signed word offset. -/
  | bra (off : BitVec 21)
  /-- BRC (R159): Branches if a c bit, optionally negated, is 1. -/
  | brc (neg : Bool) (k : CBit) (off : BitVec 21)
  /-- BRV (R138): Divergent branch: splits quads by a predicate, defers lanes on token stacks and opens or extends a join. -/
  | brv (t : Tok) (p : PReg) (neg : Bool) (off : BitVec 16)
  /-- RTOK (R139): Reconverges at a token: records arrivals, resumes pending lanes, or enters fuse-wait and runs fusion. -/
  | rtok (t : Tok)
  /-- LOOP (R160): Decrements a counter s register and branches while it is non-zero. -/
  | loop (n : SReg) (off : BitVec 15)
  /-- CALL (R159): Writes the return address to s63 and branches. -/
  | call (off : BitVec 21)
  /-- RET (R159): Branches to the address in s63; may end handler mode. -/
  | ret
  /-- EXIT (R163): Ends the enabled lanes of the fragment for which the predicate holds. -/
  | exit (p : PReg) (neg : Bool)
  /-- WAIT (R164): Holds the fragment until its wait counter is at most n. -/
  | wait (k : Fin 6) (n : BitVec 6)
  /-- YIELD (R165): Parks the fragment for one cycle. -/
  | yield
  /-- WAITB (R292): Holds the fragment until at most n sealed batches are unfinished, or takes the copy fault. -/
  | waitb (n : Fin 16)
  /-- YIELD_B (R292): Continues at a label once at most n sealed batches are unfinished, and parks until then. -/
  | yieldB (n : Fin 16) (off : BitVec 21)
  /-- SEAL (R291): Seals the gang's current copy batch and advances BATCH. -/
  | seal
  /-- HINT (R168): Offers a pre-emption point with liveness table k when a save is pending. -/
  | hint (k : BitVec 8)
  /-- TRAP (R171): Raises the software trap with a 16-bit code; TRAPPC holds the next word. -/
  | trap (code : BitVec 16)
  /-- BKPT (R172): Raises the breakpoint trap: the group is saved and a fault record is written. -/
  | bkpt (code : BitVec 16)
  /-- VADD (R206): Integer add, wrapping or saturating. -/
  | vadd (f : Lane)
  /-- VSUB (R206): Integer subtract, wrapping or saturating. -/
  | vsub (f : Lane)
  /-- VMUL (R206): Integer multiply, wrapping or saturating. -/
  | vmul (f : Lane)
  /-- VMULH (R206): High half of the exact integer product. -/
  | vmulh (f : Lane)
  /-- VMAD (R206): Integer multiply-add with no intermediate wrap. -/
  | vmad (f : Lane)
  /-- VMADW (R207): Widening integer multiply-add into elements of twice the width. -/
  | vmadw (f : Lane)
  /-- VABS (R206): Integer absolute value. -/
  | vabs (f : Lane)
  /-- VNEG (R206): Integer negation. -/
  | vneg (f : Lane)
  /-- VMIN (R206): Integer minimum. -/
  | vmin (f : Lane)
  /-- VMAX (R206): Integer maximum. -/
  | vmax (f : Lane)
  /-- VABSD (R206): Absolute integer difference. -/
  | vabsd (f : Lane)
  /-- VSAD (R208): Sum of absolute differences into two n32 halves. -/
  | vsad (f : Lane)
  /-- VAND (R209): Bitwise AND of 64 bits. -/
  | vand (f : Lane)
  /-- VOR (R209): Bitwise OR of 64 bits. -/
  | vor (f : Lane)
  /-- VXOR (R209): Bitwise XOR of 64 bits. -/
  | vxor (f : Lane)
  /-- VNOT (R209): Bitwise complement of 64 bits. -/
  | vnot (f : Lane)
  /-- VSHL (R209): Shifts each element left. -/
  | vshl (f : Lane)
  /-- VSHR (R209): Shifts each element right logically. -/
  | vshr (f : Lane)
  /-- VSRA (R209): Shifts each element right arithmetically. -/
  | vsra (f : Lane)
  /-- VROT (R209): Rotates each element left. -/
  | vrot (f : Lane)
  /-- VBFE (R210): Extracts a bit field per element. -/
  | vbfe (f : Lane)
  /-- VBFI (R210): Inserts a bit field per element, merging into d. -/
  | vbfi (f : Lane)
  /-- VPOPC (R209): Counts the one bits per element. -/
  | vpopc (f : Lane)
  /-- VCLZ (R209): Counts the leading zero bits per element. -/
  | vclz (f : Lane)
  /-- VCTZ (R209): Counts the trailing zero bits per element. -/
  | vctz (f : Lane)
  /-- VBREV (R209): Reverses the bits within each element. -/
  | vbrev (f : Lane)
  /-- VBSWP (R209): Reverses the bytes within each element. -/
  | vbswp (f : Lane)
  /-- VCMP (R211): Integer compare into an element mask or a predicate. -/
  | vcmp (f : Lane)
  /-- VSEL (R212): Selects by a predicate or a bit mask. -/
  | vsel (f : Lane)
  /-- VMOV (R213): Moves a register, or one sub-element with .SUB. -/
  | vmov (f : Lane)
  /-- VPACK (R214): Packs the even or odd elements of two registers. -/
  | vpack (f : Lane)
  /-- VUNPK (R214): Interleaves the elements of two registers and takes one half. -/
  | vunpk (f : Lane)
  /-- VFADD (R215): Floating add, rounded once. -/
  | vfadd (f : Lane)
  /-- VFSUB (R215): Floating subtract, rounded once. -/
  | vfsub (f : Lane)
  /-- VFMUL (R215): Floating multiply, rounded once. -/
  | vfmul (f : Lane)
  /-- VFMA (R215): Fused multiply-add with optional negations, rounded once. -/
  | vfma (f : Lane)
  /-- VFMIN (R216): Floating minimum with NaN rules. -/
  | vfmin (f : Lane)
  /-- VFMAX (R216): Floating maximum with NaN rules. -/
  | vfmax (f : Lane)
  /-- VFCMP (R217): Floating compare, including ordered and unordered conditions. -/
  | vfcmp (f : Lane)
  /-- VFCLASS (R218): Classifies each element into a one-hot code. -/
  | vfclass (f : Lane)
  /-- VFRND (R219): Rounds each element to an integral value. -/
  | vfrnd (f : Lane)
  /-- VFRCP (R220): Reciprocal, rounded once. -/
  | vfrcp (f : Lane)
  /-- VFRSQ (R220): Reciprocal square root, rounded once. -/
  | vfrsq (f : Lane)
  /-- VFSQRT (R220): Square root, rounded once. -/
  | vfsqrt (f : Lane)
  /-- VFDIV (R215): Floating divide, rounded once. -/
  | vfdiv (f : Lane)
  /-- VFEXP2 (R221): 2 to the power a, rounded once. -/
  | vfexp2 (f : Lane)
  /-- VFLOG2 (R221): Base-2 logarithm, rounded once. -/
  | vflog2 (f : Lane)
  /-- VFSIN (R221): Sine of an argument in turns, rounded once. -/
  | vfsin (f : Lane)
  /-- VFCOS (R221): Cosine of an argument in turns, rounded once. -/
  | vfcos (f : Lane)
  /-- VDOT (R223): Dot product of register groups into an f32 or i32 accumulator, with one rounding per unit. -/
  | vdot (f : Lane)
  /-- VCVT (R224): Converts between integer, floating and 8-bit float types. -/
  | vcvt (f : Lane)
  /-- VCVTX (R226): Scaled conversion to or from 8-bit float, MX or kx4 blocks, packing or unpacking. -/
  | vcvtx (f : Lane)
  /-- VSCALE (R227): Computes the shared E8M0 scale of a 32-element block into one byte of d. -/
  | vscale (f : Lane)
  /-- VXLN (R228): Reads elements of other active lanes by offset, and sets a predicate. -/
  | vxln (f : Lane)
  /-- VQSWZ (R229): Exchanges whole registers within each quad. -/
  | vqswz (f : Lane)
  /-- VQDX (R230): Screen-space difference in x within each quad. -/
  | vqdx (f : Lane)
  /-- VQDY (R230): Screen-space difference in y within each quad. -/
  | vqdy (f : Lane)
  /-- VMATCH (R231): Writes the mask of active lanes whose element 0 matches. -/
  | vmatch (f : Lane)
  /-- VBALLOT (R232): Forms the mask of active lanes whose predicate is set. -/
  | vballot (f : Lane)
  /-- VVOTE (R233): Combines a predicate over the active lanes. -/
  | vvote (f : Lane)
  /-- VSCAN (R234): Inclusive or exclusive prefix fold over the elements of active lanes. -/
  | vscan (f : Lane)
  /-- VRED (R234): Reduction over the elements of active lanes into a v or s register. -/
  | vred (f : Lane)
  /-- VBCAST (R235): Copies one lane's register to every active lane. -/
  | vbcast (f : Lane)
  /-- VLD (R266): Per-lane load from global virtual memory. -/
  | vld (f : Lane)
  /-- VST (R266): Per-lane store to global virtual memory. -/
  | vst (f : Lane)
  /-- VLDS (R266): Per-lane load from the scratchpad window. -/
  | vlds (f : Lane)
  /-- VSTS (R266): Per-lane store to the scratchpad window. -/
  | vsts (f : Lane)
  /-- VPREF (R270): Prefetches lines into L1 or into the home vat cache, without fault or order. -/
  | vpref (f : Lane)
  /-- VATOM (R271): Per-lane atomic read-modify-write at the home slice. -/
  | vatom (f : Lane)
  /-- VCAS (R272): Per-lane compare-and-swap at the home slice. -/
  | vcas (f : Lane)
  /-- VFAR (R274): Sends a far reduce, compare-exchange, scale-accumulate or ordered reduce to the home slice. -/
  | vfar (f : Lane)
  /-- EMIT (R280): Appends per-lane records to an output queue of the record-pass node. -/
  | emit (f : Lane)
  /-- MMA (R320): Matrix multiply-accumulate of register-group operands into an accumulator tile. -/
  | mma (f : Lane)
  /-- MMA_S (R320): Matrix multiply-accumulate of scratchpad operands over KS steps. -/
  | mmaS (f : Lane)
  /-- MMA_CSR (R321): Matrix multiply-accumulate with B gathered from compressed rows. -/
  | mmaCsr (f : Lane)
  /-- MZERO (R324): Writes +0 to every element of an accumulator tile. -/
  | mzero (f : Lane)
  /-- MLDA (R325): Loads rows of an accumulator tile from registers or scratchpad, converting them. -/
  | mlda (f : Lane)
  /-- MSTA (R326): Reads rows of an accumulator tile out to registers or scratchpad, converting them. -/
  | msta (f : Lane)
  /-- VRCQ (R338): Queries a radiance-cache net per lane, and optionally enqueues training samples. -/
  | vrcq (f : Lane)
  /-- VTRACE (R355): Traces one ray per active lane through a BVH and writes hit records. -/
  | vtrace (f : Lane)
  /-- VSAMP (R356): Samples a texture at a level chosen from quad derivatives. -/
  | vsamp (f : Lane)
  /-- VSAMPL (R356): Samples a texture at an explicit level. -/
  | vsampl (f : Lane)
  /-- VCOV (R357): Writes a pixel lane's barycentrics, or its coverage mask. -/
  | vcov (f : Lane)
  /-- ILLEGAL_INSTRUCTION (R116): An encoding that breaks the rules takes the illegal-instruction trap with a detail code. -/
  | illegalInstruction (detail : BitVec 16)
  /-- OWNCTL_CLAIM (R44): CLAIM command: records a claim during the election window, or takes ownership when the device is unowned. -/
  | ownctlClaim (m : Master)
  /-- OWNCTL_GIVE (R44): GIVE command by the owner: enters GIVING to a target and starts the 1 s give timer. -/
  | ownctlGive (m t : Master)
  /-- OWNCTL_ACCEPT (R44): ACCEPT command by the target of a give: the target becomes owner. -/
  | ownctlAccept (m : Master)
  /-- OWNCTL_CANCEL (R44): CANCEL command by the giving owner: returns to OWNED. -/
  | ownctlCancel (m : Master)
  /-- OWNCTL_FORCE (R44): FORCE from master 2, where the configuration permits it: master 2 becomes owner. -/
  | ownctlForce (m : Master)
  /-- GSUBMIT_WRITE (R47): The owner's write of a graph address is stamped TSUB and queued, or ignored with SQOVF or SBAD. -/
  | gsubmitWrite (m : Master) (val : Word)
  /-- GXREL_WRITE (R37): Drops the extra reader of an exported transient's slots, or sets XMISS. -/
  | gxrelWrite (m : Master) (val : Word)
  /-- GRESUME_RETRY (R393): Makes the saved group ready for restore at TRAPPC, or reruns a killed tile or failed copy. -/
  | gresumeRetry (m : Master) (gh : BitVec 32)
  /-- GRESUME_DELIVER (R393): Restores the group and enters the trapping gang's handler with the saved cause. -/
  | gresumeDeliver (m : Master) (gh : BitVec 32)
  /-- GRESUME_KILL (R393): Kills the group, tile or failed copy named by a handle. -/
  | gresumeKill (m : Master) (gh : BitVec 32)
  /-- TILE_START (R30): A released tile starts when its first group is placed, taking ring slots or overflow entries all together. -/
  | tileStart (st : StackId)
  /-- GROUP_PLACE (R72): Places a ready group whole on the core with the most free registers, choosing the gang width and home partitions. -/
  | groupPlace (st : StackId)
  /-- RECARVE (R69): Recarves an empty core: writes back and invalidates L1, zeroes the scratchpad and takes the new carve. -/
  | recarve (st : StackId)
  /-- RECARVE_DONE (R69): The core takes its new carve within 12 µs and accepts groups again. -/
  | recarveDone (core : Nat)
  /-- CLAIM_GRANT (R83): A queued claim is granted when the spare pool, or at the head the spare and free pools, cover it. -/
  | claimGrant (core : Nat)
  /-- CLAIM_DEADLOCK (R87): After 4,096 cycles with no grantable claim, the blocked gangs take the claim-deadlock trap. -/
  | claimDeadlock (core : Nat)
  /-- CLASS_PHASE_CHANGE (R131): At the end of a cycle, a pair changes its class phase when its age or the ready instructions require it. -/
  | classPhaseChange (core : Nat)
  /-- VAR_RESULT_LAND (R106): A variable-latency result lands or its effect performs, and its wait counter counts down. -/
  | varResultLand (gid gang op : Nat)
  /-- WINDOW_COMMIT (R368): The window commits: its loads and held stores take their places in one step, and tentative launches and emits are released. -/
  | windowCommit (gid gang : Nat)
  /-- SERIAL_MODE_END (R370): Serial mode ends when n accesses have performed. -/
  | serialModeEnd (gid gang : Nat)
  /-- HELD_FAULT_RESOLVE (R371): When earlier accesses have performed, a held fault rolls the gang back and re-executes it in serial mode. -/
  | heldFaultResolve (gid gang : Nat)
  /-- ORDERED_CONTRIBUTION (R275): An ordered far contribution is held, applied in index order, discarded or made to wait at the bank. -/
  | orderedContribution (st : StackId)
  /-- ORDCLR_WRITE (R276): Frees the ordered entries for a 16-byte target, discarding their held contributions. -/
  | ordclrWrite (m : Master) (st : StackId) (val : Word)
  /-- PARK_REREAD (R167): A write to a parked PARK's word wakes it to re-read and compare. -/
  | parkReread (gid gang entry : Nat)
  /-- WAITER_RESEND (R378): A word that found the waiter table full is re-sent every 1,024 core cycles. -/
  | waiterResend (gid gang entry : Nat)
  /-- COPY_ACCEPT (R288): A COPY blocked on a full channel is accepted when a place frees. -/
  | copyAccept (engine ch : Nat)
  /-- COPY_RUN (R288): A channel starts its next copy: reads and checks the template and moves the box. -/
  | copyRun (engine ch : Nat)
  /-- COPY_COMPLETE (R288): A copy completes, its SATF bits are merged, and batches may finish and wake waiters. -/
  | copyComplete (engine ch : Nat)
  /-- LEASE_EXPIRY (R253): A lease expires and its lines are unpinned. -/
  | leaseExpiry (st : StackId)
  /-- MACRO_OP_START (R312): The sequencer starts the next accepted macro-operation. -/
  | macroOpStart (core : Nat)
  /-- MACRO_OP_COMPLETE (R312): A macro-operation finishes, merges its SATF bits, counts down and performs its .POST arrival. -/
  | macroOpComplete (core : Nat)
  /-- SLOT_PAYLOAD_RECEIVE (R299): A vertical-bus payload lands, and is resent on parity failure or poisoned after four failures. -/
  | slotPayloadReceive (core sends : Nat)
  /-- BUS_RETRAIN (R408): A due retraining of a core's vertical bus starts when not deferred, pausing slots for 2 µs. -/
  | busRetrain (core : Nat)
  /-- BUS_RETRAIN_END (R300): The retraining ends and paused transfers resume. -/
  | busRetrainEnd (core : Nat)
  /-- RECALIBRATION (R438): Each core recalibrates its class periods every 1 ms. -/
  | recalibration (core : Nat) (p0 p1 p2 p3 : Nat)
  /-- ARRAY_GATE (R262): The device power-gates an array that holds nothing, dropping clean lines. -/
  | arrayGate (arr : GatedArray)
  /-- ARRAY_WAKE (R263): An access wakes a gated array and stalls until the wake-up ends. -/
  | arrayWake (arr : GatedArray)
  /-- TLBINV_RANGE (R244): Invalidates the translations covering a page range, optionally dropping RO lines. -/
  | tlbinvRange (m : Master) (val : Word)
  /-- TLBINV_ALL (R244): Invalidates every cached translation. -/
  | tlbinvAll (m : Master) (val : Word)
  /-- VATDIR_WRITE (R250): Sets the direct page count, writing back and zeroing the pages taken. -/
  | vatdirWrite (m : Master) (st : StackId) (val : Word)
  /-- GNET_ENABLE (R332): Reads and checks a net descriptor, and enables the net or sets DBAD. -/
  | gnetEnable (m : Master) (n : Fin 4) (val : Word)
  /-- GNET_DISABLE (R332): Disables the net. -/
  | gnetDisable (m : Master) (n : Fin 4) (val : Word)
  /-- TRAINING_STEP (R341): The sizing engine takes a batch of samples and runs one Adam step into the shadow version. -/
  | trainingStep (st : StackId)
  /-- NODE_GROUP_LAUNCH (R347): A shader node launches a group when its queue holds a group's worth of records, or its upstream is idle. -/
  | nodeGroupLaunch (slot pass tile node : Nat)
  /-- RASTERISE (R350): The rasteriser culls or covers a triangle record and emits quad records. -/
  | rasterise (slot pass tile node : Nat)
  /-- TRAVERSE_RAY (R353): A traversal unit resolves a ray against the BVH into a hit record. -/
  | traverseRay (unit : Nat)
  /-- TREELET_LOAD (R354): A traversal unit loads the treelet with the longest queue, evicting the least recently loaded. -/
  | treeletLoad (unit : Nat)
  /-- RAY_WAIT_TIMEOUT (R354): A ray that has waited 20,000 ns forces its treelet in first. -/
  | rayWaitTimeout (unit : Nat)
  /-- BLEND (R351): A blender applies a colour record to its tile buffers under depth and blend modes. -/
  | blend (slot pass tile node : Nat)
  /-- TILE_OVERRUN (R58): A tile's meter passes BUDGET; the tile becomes overrun and its pass's promise lapses. -/
  | tileOverrun (slot pass tile : Nat)
  /-- PREEMPT (R60): The graph unit pre-empts slack or lower-priority groups, making their saves pending or killing record tiles. -/
  | preempt (st : StackId)
  /-- EVICTION (R382): After 4,096 cycles with a saved group blocked by parked work, the earliest-parked group is saved. -/
  | eviction (core : Nat)
  /-- SAVE_TIMEOUT (R396): 20,000 ns after a save becomes pending, unstopped gangs stop at their next boundary. -/
  | saveTimeout (gid : Nat)
  /-- SAVE_CAPTURE (R398): Once every gang is stopped, the save engine writes the save record and releases the group's resources. -/
  | saveCapture (gid : Nat)
  /-- GROUP_RESTORE (R405): Restores a saved group on a core of its carve, re-running copies and queueing macro-operations. -/
  | groupRestore (st : StackId)
  /-- TILE_RETIRE (R410): A tile retires: its meter stops, summaries merge, counters decrement, slots free and consumers are released. -/
  | tileRetire (slot pass tile : Nat)
  /-- DECREMENT_ARRIVAL (R411): Scoreboard decrements from the other stack arrive over UCIe and are applied. -/
  | decrementArrival (st : StackId)
  /-- COPY_PASS_TILE (R290): A copy-pass tile runs its template on the least-loaded couch engine channel. -/
  | copyPassTile (st : StackId)
  /-- COLLECTIVE_CHUNK (R418): A collective tile folds the participants' elements and writes the results. -/
  | collectiveChunk (st : StackId)
  /-- FLIT_RECEIVE (R419): A link flit is received, and is discarded with a replay request on failure. -/
  | flitReceive (flit : List Byte)
  /-- LINK_TRAIN (R419): The link trains and exchanges ranks, and stays down with RKDUP on equal ranks. -/
  | linkTrain (up : Bool) (peerRank : Bool)
  /-- SVCCMD_UPDATE (R435): Quiesces one unit and loads a new signed image into it. -/
  | svccmdUpdate (m : Master) (val : Word)
  /-- SVCCMD_SPARE_CORE (R436): Drains a core and replaces it with a spare. -/
  | svccmdSpareCore (m : Master) (val : Word)
  /-- SVCCMD_REMAP_VAT_BANK (R436): Moves a vat bank's lines into its slice's spare bank. -/
  | svccmdRemapVatBank (m : Master) (val : Word)
  /-- SVCCMD_RETRAIN_CHANNEL (R436): Retrains one GDDR 7 channel. -/
  | svccmdRetrainChannel (m : Master) (val : Word)
  /-- SVCCMD_ATTEST (R437): Writes the measurement digest and an identity-key signature over a nonce. -/
  | svccmdAttest (m : Master) (val : Word)
  /-- DEVICE_RESET (R430): Reset verifies the configuration and images, derives the identity key, trains and zeroes, and opens the election window. -/
  | deviceReset (flash : Flash)
  /-- THERMAL_TRIP (R439): At 110 °C junction temperature every clock stops and the device holds in reset. -/
  | thermalTrip (tj : Nat)
  /-- REGISTER_WRITE (R41): A write to a control register with no row of its own takes effect if from the owner, and otherwise sets NOWR. -/
  | registerWrite (m : Master) (off : Nat) (val : Word)
  /-- ARRAY_WAKE_END (R263): A gated array finishes waking, within 1.5 µs; the stalled access proceeds and the requests that arrived during the wake-up are accepted. -/
  | arrayWakeEnd (arr : GatedArray)
  /-- ELECTION_WINDOW_EXPIRY (R44): At the end of the election window the lowest claimant becomes owner, or the device becomes UNOWNED. -/
  | electionWindowExpiry
  /-- GIVE_TIMER_EXPIRY (R44): The give timer expires and ownership returns to the giver. -/
  | giveTimerExpiry
  /-- ADMISSION (R52): The graph unit decides the oldest queued submission: it reads the graph, runs the checks, allocates time and writes the acceptance record. -/
  | admission
  /-- BANK_REQUEST (R254): A vat bank accepts and performs one request per base-die cycle, in fixed port order. -/
  | bankRequest
  /-- TLBINV_DONE (R244): BUSY clears once no TLB holds the translations and their accesses have performed. -/
  | tlbinvDone
  /-- HIT_DELIVERY_TO_SAVE (R403): A late VTRACE hit or held ordered contribution delivers into the save record. -/
  | hitDeliveryToSave
  /-- FAULT_RECORD_WRITE (R392): Writes a fault record to the fault queue when there is room, and signals the owner. -/
  | faultRecordWrite
  /-- COMPLETION_RECORD_WRITE (R413): Writes a completion record to the event ring when there is room. -/
  | completionRecordWrite
  /-- EVENT_INTERRUPT (R415): Signals the owner when the coalescing count or time is reached. -/
  | eventInterrupt
  /-- COLLECTIVE_LINK_TIMEOUT (R417): After the link is down for 100 ms, the tiles of a cross-box pass retire as killed. -/
  | collectiveLinkTimeout
  /-- SERVICE_COMMAND_DONE (R434): A running service command finishes, writing CODE and setting DONE. -/
  | serviceCommandDone
  /-- LINK_DOWN (R417): The Nararauth link goes down, LINKST reads link down, and the 100 ms timer for the tiles of accepted cross-box collective passes starts. -/
  | linkDown
  /-- SPARE_DRAIN_TIMEOUT (R436): 100 ms after a spare command, each group still resident on the core being spared is saved as an eviction. -/
  | spareDrainTimeout
  deriving DecidableEq, Repr

end Sys2Proof
end

