-- ==== Sys2Proof/Machine/State.lean ====
section
/-! DEFINITION. The state of the machine as plain data, its reset value, and the reasons a step can stop (R4 to R438). -/

namespace Sys2Proof.Machine

/-! ## Tables: sorted lists of (key, value) in one canonical form -/

/-- A sparse table: keys strictly rise and no entry holds the value an unlisted key reads as. -/
abbrev Table (V : Type) := List (Nat × V)

namespace Table

/-- The value at a key; an unlisted key reads as `d`. -/
def get {V : Type} (d : V) : Table V → Nat → V
  | [], _ => d
  | (k', v) :: t, k => if k' = k then v else if k' < k then get d t k else d

/-- Writes a value; writing `d` removes the entry. -/
def set {V : Type} [DecidableEq V] (d : V) : Table V → Nat → V → Table V
  | [], k, v => if v = d then [] else [(k, v)]
  | (k', v') :: t, k, v =>
    if k' < k then (k', v') :: set d t k v
    else if k' = k then (if v = d then t else (k, v) :: t)
    else if v = d then (k', v') :: t else (k, v) :: (k', v') :: t

/-- The canonical form above a bound. -/
def wfFrom {V : Type} [DecidableEq V] (d : V) : Nat → Table V → Bool
  | _, [] => true
  | lo, (k, v) :: t => decide (lo ≤ k) && decide (v ≠ d) && wfFrom d (k + 1) t

/-- The canonical form: keys strictly rise, no entry holds the value of an unlisted key. -/
def wf {V : Type} [DecidableEq V] (d : V) (t : Table V) : Bool := wfFrom d 0 t

end Table

/-- The physical memory of the device: bytes by physical address (R238). Host.Cell is the type of an entry. -/
abbrev Memory := List Host.Cell

/-- What a byte of memory that nothing has written reads as: every array is zeroed at reset (R430). Log 2. -/
def Memory.fill : Byte := 0

/-- The canonical form of memory. -/
def Memory.wf (m : Memory) : Bool := Table.wf Memory.fill m

/-! ## Fragments and gangs -/

/-- STATE of a split-table entry (R135); a free entry is not listed. -/
inductive FragState where
  | runnable | fuseWait | parked | blocked
  deriving DecidableEq, Repr

/-- A word that waits on an object: FTAKE and its destination, or QWAIT and its phase (R376, R377). -/
inductive Waiter where
  | take (d : Nat)
  | phase (p : Nat)
  deriving DecidableEq, Repr

/-- What a fragment that does not go on waits for. The program counter stays at the word that waits (R149). -/
inductive Wait where
  | none
  /-- YIELD: runnable from a core cycle on (R165) -/
  | cycle (n : Nat)
  /-- PARK: a write to one of `size` bytes at a physical address (R167) -/
  | mem (pa size : Nat)
  /-- FTAKE, FPEEK, QWAIT: the bank's answer to the word's request, by its operation (R375) -/
  | bank (op : Nat)
  /-- FTAKE, QWAIT: a write to one of the 16 bytes of an object, in its slice's waiter table (R378) -/
  | obj (pa : Nat) (k : Waiter)
  /-- FTAKE, QWAIT that found its slice's waiter table full: sent again at a core cycle, to a virtual address (R378) -/
  | resend (cycle va : Nat) (k : Waiter)
  /-- WAIT: w(k) at most n (R164) -/
  | counter (k n : Nat)
  /-- WAITB: at most n sealed batches unfinished (R292) -/
  | batches (n : Nat)
  /-- YIELD.B: the same, then on at an address in words (R292) -/
  | batchesTo (n : Nat) (pc : BitVec 54)
  /-- SEAL: fewer than 15 sealed batches unfinished (R291) -/
  | seal
  /-- COPY on a full channel, with its copy word (R286, R288) -/
  | channel (engine ch : Nat) (word : Word)
  /-- LAUNCH without .NW on a full store: the descriptor's address, its 512 bits and s[sb], which the word has read, and the c bit it
  sets (R62, R176) -/
  | launch (va bits y : Nat) (k : CBit)
  /-- CLAIM in the claim queue (R83) -/
  | claim (n : Nat)
  /-- BATON.TAKE (R306) -/
  | baton
  /-- a word that stands at issue until the gang's window closes (R148) -/
  | window
  /-- a word that stands at issue until every earlier access of the gang has performed (R148, R359, R370) -/
  | access
  /-- a load that stands at issue until the gang's own requests on these bytes have performed (R267) -/
  | own (pa size : Nat)
  /-- a word that stands at issue until its L1 set or watch table has room for what it would mark or claim (R366, R367) -/
  | room (lines : List Nat)
  /-- GIVE that stands at issue until the registers it gives up are at rest (R173) -/
  | give
  /-- a matrix instruction that finds the queue or the staging full, and the bytes it stages (R312) -/
  | matrix (bytes : Nat)
  /-- a load whose fault the gang's window holds (R371) -/
  | fault
  deriving DecidableEq, Repr

/-- A word that stands at issue: it has not issued, it took no slot, and it is ready again when its wait ends (R126, R148). -/
def Wait.unissued : Wait → Bool
  | .window | .access | .own _ _ | .room _ | .give | .matrix _ => true
  | _ => false

/-- One entry of the split table (R135), with what the model keeps beside it. -/
structure Fragment where
  entry : Nat
  state : FragState
  qset : BitVec 16
  fmask : BitVec 64
  /-- bits [55:2] of the program counter -/
  pc : BitVec 54
  fmtf : BitVec 24
  ftok : Fin 16
  wait : Wait
  /-- the saturation test of the park point or WAIT at which the fragment stands has been made (R150) -/
  tested : Bool
  /-- earliest core cycle in which the next instruction may issue (R105) -/
  nextCycle : Nat
  /-- the core cycle in which the next instruction became ready (R126) -/
  readyAt : Option Nat
  /-- NSTIME, in ps, at which the fragment parked (R62, R382) -/
  parkedAt : Nat
  /-- table named by the HINT at which it stopped, and the table's 512 bits where it could be read (R394, R396, R397) -/
  hint : Option (Nat × Option Nat)
  /-- what its park has met while a CLAIM of its gang waits, which holds it: the value of an FTAKE, or 0 for another wake-up (R174) -/
  served : Option Word := none
  deriving DecidableEq, Repr

/-- A token-stack entry (R137). -/
structure TokEntry where
  tok : Tok
  addr : BitVec 54
  pend : BitVec 4
  arr : BitVec 4
  fmts : BitVec 24
  deriving DecidableEq, Repr

/-- A join-table entry (R137). -/
structure Join where
  isOpen : Bool
  expect : BitVec 16
  fmtj : BitVec 24
  deriving DecidableEq, Repr

/-- A closed join. -/
def Join.closed : Join := ⟨false, 0, 0⟩

/-- TRAPCAUSE (R384). -/
structure Cause where
  dbl : Bool
  route : Bool
  cause : BitVec 8
  detail : BitVec 16
  deriving DecidableEq, Repr

/-- Register writes an instruction makes: v words by (register, lane), predicates by register with the lanes written and
their values, s words, and SATF bits. -/
structure Writes where
  v : List ((Nat × Nat) × Word)
  p : List (Nat × Word × Word)
  s : List (Nat × Word)
  satf : BitVec 4
  deriving DecidableEq, Repr

/-- No write. -/
def Writes.none : Writes := ⟨[], [], [], 0⟩

/-- The write of a fixed-latency instruction, made at the end of a core cycle (R105). -/
structure FWrite where
  due : Nat
  /-- split-table entry of the fragment that issued it (R200) -/
  entry : Nat
  writes : Writes
  deriving DecidableEq, Repr

/-- What an outstanding variable-latency instruction waits for before it can land (R106). -/
inductive OpWait where
  /-- nothing but time -/
  | time
  /-- bank requests not yet performed -/
  | bank (left : Nat)
  /-- a macro-operation -/
  | macroOp
  /-- rays not yet resolved -/
  | rays (left : Nat)
  /-- an emit whose records have not all entered their queue -/
  | emit
  deriving DecidableEq, Repr

/-- An outstanding variable-latency instruction (R106, R145). -/
structure VOp where
  id : Nat
  /-- set field: 0, or 1 + the counter's number -/
  set : Nat
  /-- QSET of the issuing fragment at issue -/
  quads : BitVec 16
  wait : OpWait
  /-- earliest landing time, ps -/
  due : Nat
  writes : Writes
  /-- destination registers and the lanes written, for the hazards of R107 -/
  dests : List Nat
  lanes : BitVec 64
  /-- issued inside the window now open (R369) -/
  inWindow : Bool
  /-- a VTRACE, whose destination group is always saved (R397) -/
  trace : Bool
  /-- its data cross the vertical bus (R297) -/
  bus : Bool := true
  deriving DecidableEq, Repr

/-- One byte store held by a window: physical memory, or a scratchpad byte of the core (R367). -/
structure HeldByte where
  scratch : Bool
  addr : Nat
  val : Byte
  deriving DecidableEq, Repr

/-- A store in a gang's hold queue (R367). -/
structure Held where
  bytes : List HeldByte
  /-- the VOp that counts down when the store performs; none for a scalar store -/
  op : Option Nat
  deriving DecidableEq, Repr

/-- State of a gang's copy batch (R291). -/
structure Batch where
  number : Nat
  isSealed : Bool
  deriving DecidableEq, Repr

/-- A fault held inside a window: the fragment and the program counter of its instruction, and how many accesses that fragment
issued there before it, since the checkpoint (R371). -/
structure HeldFault where
  entry : Nat
  pc : BitVec 54
  nth : Nat
  deriving DecidableEq, Repr

/-- Serial mode: accesses still to perform (R370), or the instruction up to which it lasts (R371). -/
inductive Serial where
  | count (n : Nat)
  | upTo (f : HeldFault)
  deriving DecidableEq, Repr

/-- The checkpoint of a speculation window (R365). -/
structure Checkpoint where
  s : Table Word
  p : Table Word
  c : BitVec 4
  lmask : BitVec 64
  frags : List Fragment
  tokens : Table (List TokEntry)
  joins : Table Join
  satf : BitVec 4
  v : Table Word
  vcount : Nat
  fpend : List FWrite
  handler : Option (Nat × List Nat)
  /-- the words that were uncorrectable (R407), and the VTRACEs that no wait had gone past (R397) -/
  verr : List Nat := []
  serr : List Nat := []
  perr : List Nat := []
  traced : List (Nat × Nat × List Nat) := []
  deriving DecidableEq, Repr

/-- A speculation window (R365 to R370). -/
structure Window where
  check : Checkpoint
  /-- distinct v registers written in the window, at most 48 -/
  shadow : List Nat
  /-- marked and claimed lines of memory, as line numbers -/
  marks : List Nat
  claims : List Nat
  /-- of these, FAR lines, which hold an entry of the watch table of their home slice; the others are held in the core's L1 (R366, R367) -/
  watched : List Nat
  /-- marked and claimed 8-byte words of the core's scratchpad -/
  smarks : List Nat
  sclaims : List Nat
  held : List Held
  /-- outstanding operations issued before the checkpoint -/
  before : List Nat
  fault : Option HeldFault
  /-- accesses issued since the checkpoint: split-table entry and program counter of each -/
  accesses : List (Nat × BitVec 54)
  /-- an invalidation that waits for the window's accesses began while it was open (R244) -/
  awaited : Bool
  deriving DecidableEq, Repr

/-- How a gang stopped for a save (R401). -/
inductive Stop where
  | hint | full | exited | ownerTrap
  deriving DecidableEq, Repr

/-- A gang (R64, R79, R108, R109). -/
structure Gang where
  id : Nat
  width : Nat
  slot : Nat
  home : Nat
  lmask : BitVec 64
  helper : BitVec 64
  /-- lanes present at the start (R76) -/
  present : BitVec 64
  /-- v registers, key 64 · register + lane -/
  v : Table Word
  s : Table Word
  /-- p1 to p15 as lane masks -/
  p : Table Word
  c : BitVec 4
  satf : BitVec 4
  fltmask : BitVec 64
  trappc : BitVec 54
  trapcause : Cause
  ckrb : Word
  vcount : Nat
  tokens : Table (List TokEntry)
  joins : Table Join
  frags : List Fragment
  /-- handler mode: the handler fragment's entry and the entries held (R387, R388) -/
  handler : Option (Nat × List Nat)
  batch : Nat
  batches : List Batch
  claim : Option Nat
  ops : List VOp
  fpend : List FWrite
  window : Option Window
  /-- rollbacks to one checkpoint without a commit, and serial mode (R370, R371) -/
  rolls : Nat
  rolledAt : List (Nat × BitVec 54)
  serial : Option Serial
  stop : Option Stop
  /-- virtual address of the faulting access, its kind, and NSTIME of the last owner-route fault (R392) -/
  faddr : BitVec 56
  akind : Nat
  faultTime : Nat
  /-- this gang trapped by the owner route and has not resumed (R390) -/
  trapped : Bool
  /-- split-table entry of the fragment whose trap was taken last (R386, R387) -/
  trapEntry : Nat
  /-- registers whose images the save record holds (R397) -/
  saved : List Nat
  /-- records given to lanes or quads of a record-pass group, for VCOV and order keys (R347, R351, R357) -/
  records : Table (List Byte)
  /-- lane slots issued and masked, for the divergence history (R78) -/
  issued : Nat
  masked : Nat
  /-- one more than the core cycle in which its last lane instruction issued; 0 for none (R129, R173) -/
  lastLane : Nat
  /-- the baton was held when the group was saved (R329) -/
  wantsBaton : Bool
  /-- a restored gang that held the baton issues nothing until it holds it again (R329) -/
  awaitBaton : Bool
  /-- uncorrectable v words (key 64 · register + lane), s words, and predicate bits (key 64 · predicate + lane) (R407) -/
  verr : List Nat
  serr : List Nat
  perr : List Nat
  /-- an uncorrectable error in the gang's control state (R404) -/
  ctlErr : Bool := false
  /-- VTRACEs that no wait on their counter has gone past since they finished: operation, set field and destination registers (R397,
  R425) -/
  traced : List (Nat × Nat × List Nat) := []
  deriving DecidableEq, Repr

/-! ## Macro-operations and groups -/

/-- A macro-operation in a core's queue (R312). -/
structure MacroOp where
  gid : Nat
  gang : Nat
  op : Nat
  /-- lane-instruction opcode and fields, the type resolved, and the resolved B type (R318) -/
  lop : LOp
  fields : Lane
  tb : TyCode
  fmtf : BitVec 24
  dscA : Word
  dscB : Word
  /-- operand words read at issue: A data, then B data -/
  dataA : List Byte
  dataB : List Byte
  /-- uncorrectable 8-byte words of the staged operands (R330) -/
  errA : List Nat
  errB : List Nat
  /-- virtual and physical address of the .POST quire (R323) -/
  post : Option (Nat × Nat)
  running : Bool
  due : Nat
  /-- the next step, by its index in the loop of R320, or the next 16-row block (R402) -/
  step : Nat
  /-- operand or readout payloads landed, and those of them that four sends failed to deliver (R299) -/
  payloads : Nat
  poisoned : List Nat
  deriving DecidableEq, Repr

/-- A kernel descriptor (R70). -/
structure Kernel where
  addr : BitVec 56
  ctbase : BitVec 56
  livbase : BitVec 56
  hndlr : BitVec 56
  entry : BitVec 56
  pix : Bool
  scrg : Nat
  wmax : Nat
  wmin : Nat
  gqm1 : Nat
  vc8 : Nat
  deriving DecidableEq, Repr

/-- A tile of a pass of a frame: frame slot, pass index, linear tile index. -/
structure TileRef where
  slot : Nat
  pass : Nat
  tile : Nat
  deriving DecidableEq, Repr

/-- Where a group stands. -/
inductive Place where
  | resident
  /-- saved in a slot of its stack's save area, ready for restore or waiting for the owner -/
  | saved (slot : Nat) (ready : Bool)
  /-- every gang has exited; kept until its tile retires (R409) -/
  | exited
  deriving DecidableEq, Repr

/-- Why a save became pending (R396). -/
inductive SaveWhy where
  | preempt | evict | ownerTrap
  deriving DecidableEq, Repr

/-- A group placed on a core, saved, or exited and not yet retired (R64, R72, R88, R400). -/
structure Group where
  gid : Nat
  place : Place
  /-- package index of the core -/
  core : Nat
  tref : TileRef
  /-- serial number of the frame, unique over the life of the device -/
  frame : Nat
  ftag : Word
  node : Option Nat
  groupId : Nat
  tilex : Nat
  tiley : Nat
  kernel : Kernel
  scr : Nat
  chk : Bool
  /-- scratchpad byte offset of the window on the core -/
  window : Nat
  /-- accumulator tiles of the core that a0 upward name -/
  tiles : List Nat
  spare : Nat
  errsum : BitVec 9
  gangs : List Gang
  savePending : Option (Nat × SaveWhy)
  handle : Option Nat
  /-- resident since this time, ps, for the meter (R58) -/
  since : Nat
  /-- restore enters the handler of each trapping gang (R393) -/
  deliver : Bool
  /-- core time charged before the present residence, ns (R400) -/
  meter : Nat
  /-- macro-operations, and 64-byte chunks of the window, that the save record holds (R397, R402) -/
  macros : List MacroOp
  chunks : List Nat
  deriving DecidableEq, Repr

/-! ## Frames -/

/-- A pass record's fields (R16). -/
structure PassRec where
  kind : Nat
  chk : Bool
  aff : Nat
  gx : Nat
  gy : Nat
  twl : Nat
  thl : Nat
  ngroups : Nat
  scr : Nat
  budget : Nat
  deadline : Nat
  gbytes : Nat
  kaddr : BitVec 56
  argbase : BitVec 56
  fedge : Nat
  nrde : Nat
  accs : Nat
  kparam : Nat
  deriving DecidableEq, Repr

/-- A read edge (R21). -/
structure Edge where
  cons : Nat
  prod : Nat
  res : Nat
  dkind : Nat
  deckle : Nat
  /-- table of the edge: valid producer tiles by consumer tile -/
  table : List (List (Nat × Nat))
  deriving DecidableEq, Repr

/-- A slot or overflow entry of a transient ring (R30, R31). -/
structure RingSlot where
  index : Nat
  isOvf : Bool
  tile : Nat
  readers : Nat
  /-- still holds the extra reader of an exported transient (R37) -/
  extra : Bool
  retired : Bool
  deriving DecidableEq, Repr

/-- A transient's ring (R19, R30). -/
structure Ring where
  frame : Nat
  res : Nat
  prod : Nat
  gx : Nat
  gy : Nat
  stack : Nat
  slots : Nat
  slotp : Nat
  ovfn : Nat
  exported : Bool
  winva : BitVec 56
  /-- vat page numbers of the slots, slot by slot -/
  pages : List Nat
  /-- physical addresses of the overflow pages, entry by entry -/
  ovfpages : List Nat
  held : List RingSlot
  deriving DecidableEq, Repr

/-- Progress of a tile. -/
inductive TileState where
  | waiting | released | started | retired
  deriving DecidableEq, Repr

/-- A tile of a pass (R26 to R30, R58). -/
structure Tile where
  state : TileState
  counter : Nat
  /-- groups of the tile placed so far, NGM1 + 1 in all -/
  placed : Nat
  /-- ns charged by groups that have left, and when engine work began (R58) -/
  meter : Nat
  began : Option Nat
  overrun : Bool
  satf : BitVec 4
  errsum : BitVec 9
  killed : Nat
  retiredAsKilled : Bool
  /-- engine work of kinds 2 to 5 finished (R409) -/
  engineDone : Bool
  deriving DecidableEq, Repr

/-- A pass of a frame in flight. -/
structure Pass where
  rcd : PassRec
  kernel : Option Kernel
  /-- header, then one entry, of a record pass's node table, as numbers of 512 bits; the template of a copy pass -/
  nodes : List Nat
  nodeKernels : List (Option Kernel)
  promised : Bool
  lft : Nat
  /-- the promise lapsed because an ancestor's did, or through a tile of this pass (R57, R413) -/
  lapsed : Bool
  lapsedOwn : Bool
  tiles : List Tile
  /-- edge counters of the pass's whole edges: edge index, stack, count (R26) -/
  edgeCounters : List (Nat × Nat × Nat)
  /-- the committed version of each net when the pass's first tile started (R340) -/
  bound : Option (List Bool)
  complete : Bool
  retired : Nat
  ovrns : Nat
  ovrt : Nat
  errs : BitVec 9
  sats : BitVec 4
  nkill : Nat
  /-- training steps still to run of the tile on the engine (R341) -/
  stepsLeft : Nat
  /-- a cross-box collective pass whose peer has accepted the matching pass (R417) -/
  paired : Bool
  deriving DecidableEq, Repr

/-- A frame in flight (R13 to R57). -/
structure Frame where
  slot : Nat
  serial : Nat
  ftag : Word
  prio : Nat
  tsub : Nat
  tacc : Nat
  passes : List Pass
  edges : List Edge
  deriving DecidableEq, Repr

/-- Core time and bytes reserved for a pass on a stack in a quantum (R56). -/
structure Reservation where
  frame : Nat
  pass : Nat
  stack : Nat
  quantum : Nat
  ns : Nat
  /-- an integer: the rounded shares of R56 can sum to one more than the whole, which the last share gives back -/
  bytes : Int
  /-- core time delivered in the quantum by groups that have left their cores, ns (R59) -/
  spent : Nat
  deriving DecidableEq, Repr

/-- An entry of a pending-launch store (R61). -/
structure LaunchEntry where
  id : Nat
  stack : Nat
  tref : TileRef
  frame : Nat
  kernel : Kernel
  groups : Nat
  placed : Nat
  carg : BitVec 56
  scr : Nat
  accs : Nat
  chk : Bool
  /-- taken inside the open window of this gang: group and gang (R63) -/
  tentative : Option (Nat × Nat)
  deriving DecidableEq, Repr

/-- An owner-route handle that names a killed tile or a failed copy (R390, R441): UNIT, the tile, the copy. -/
structure Handle where
  gh : Nat
  unit : Nat
  tref : TileRef
  copy : Nat
  /-- a control-state error, after which only kill is accepted (R393, R404) -/
  killOnly : Bool := false
  deriving DecidableEq, Repr

/-! ## Cores -/

/-- A word granted in a cycle: its group, gang and split-table entry, and where it stands. -/
structure Grant where
  gid : Nat
  gang : Nat
  entry : Nat
  pc : BitVec 54
  deriving DecidableEq, Repr

/-- What a core settles at the beginning of a cycle: the words granted that have not come to issue yet (R127, R128), and the pair, class and
age of each ready lane instruction that is not granted (R131). -/
structure Turn where
  grants : List Grant
  left : List (Nat × Nat × List Nat)
  deriving DecidableEq, Repr

/-- A core (R66 to R69, R129 to R134, R303 to R312, R408). -/
structure Core where
  scr : Nat
  /-- time at which a recarve ends and the carve it brings (R69) -/
  recarve : Option (Nat × Nat)
  cycle : Nat
  clscyc : List Nat
  periods : List Nat
  /-- time, ps, at which the current cycle began -/
  start : Nat
  /-- cycle and class of lane instructions that issued in the last cycles (R129) -/
  stages : List (Nat × Nat)
  /-- class K and age A of pairs 0/1 and 2/3 (R131) -/
  phase0 : Nat × Nat
  phase1 : Nat × Nat
  /-- periods of a recalibration, from the end of the current cycle on (R438) -/
  recal : Option (List Nat)
  /-- datapath lanes of each partition that half-rate instructions of the cycle before hold in this one (R201) -/
  lanesUsed : List Nat
  /-- lanes that half-rate instructions of this cycle hold in the next one too (R201) -/
  lanesHeld : List Nat
  /-- what is ready and what is granted in this cycle; none before the cycle's first step -/
  turn : Option Turn
  scratch : Table Byte
  /-- serial number plus one of the frame that last held each 4 KiB range; 0 for none (R79) -/
  scratchHolder : Table Nat
  scratchErr : List Nat
  acc : Table Word32
  accHolder : Table Nat
  /-- uncorrectable elements of the tiles (R330) -/
  accErr : List Nat
  claims : List (Nat × Nat × Nat)
  /-- claim-deadlock count: group, cycles, spare and free pools seen (R87) -/
  deadlock : List (Nat × Nat × Nat)
  baton : Option (Nat × Nat)
  batonQ : List (Nat × Nat)
  macros : List MacroOp
  retrainDue : Nat
  retraining : Option Nat
  draining : Bool
  gated : List Nat
  gatedWays : List Nat
  /-- cycles for which R382 has held for some saved group -/
  evictCount : Nat
  /-- the saved group for which the core evicts others until it can take it (R382) -/
  evictFor : Option Nat := none
  deriving DecidableEq, Repr

/-- A core that has left reset: carve 0, nominal periods (R69, R131, R134). The calibrated periods are log 7. -/
def Core.fresh : Core where
  scr := 0
  recarve := none
  cycle := 0
  clscyc := [0, 0, 0, 0]
  periods := [400, 550, 667, 800]
  recal := none
  start := 0
  stages := []
  phase0 := (0, 0)
  phase1 := (0, 0)
  lanesUsed := [0, 0, 0, 0]
  lanesHeld := [0, 0, 0, 0]
  turn := none
  scratch := []
  scratchHolder := []
  scratchErr := []
  acc := []
  accHolder := []
  accErr := []
  claims := []
  deadlock := []
  baton := none
  batonQ := []
  macros := []
  retrainDue := 100000000000
  retraining := none
  draining := false
  gated := []
  gatedWays := []
  evictCount := 0

/-! ## Copies, banks and engines -/

/-- Progress of an accepted copy (R288, R293). -/
inductive CopyState where
  /-- run again, and waiting for a place in its channel -/
  | queued
  | waiting
  /-- its element writes are made; it completes at a time -/
  | running (due : Nat)
  /-- its status, the address that failed, and the kind of that access (R294, R392) -/
  | failed (status : Nat) (addr : Nat) (akind : Nat)
  | done
  deriving DecidableEq, Repr

/-- A copy handed to a couch engine (R286, R288, R290). -/
structure Copy where
  id : Nat
  engine : Nat
  ch : Nat
  state : CopyState
  gid : Nat
  gang : Nat
  batch : Nat
  word : Word
  tref : TileRef
  /-- FMTF of the fragment that issued it (R185) -/
  fmt : BitVec 24
  /-- template address; for a copy pass the template's own bits are in the pass -/
  tplBase : BitVec 56
  tplZero : Bool
  /-- the template of a copy-pass tile, read at admission -/
  tpl : Option Nat
  /-- origin of a copy-pass tile -/
  c0 : Nat
  c1 : Nat
  satf : BitVec 4
  /-- lines of a lease-ending destination: virtual line key and physical lines (R286) -/
  leaseKey : Nat
  leaseLines : List Nat
  leaseUs : Nat
  /-- the gang that issued it has exited (R441), or it belongs to a copy-pass tile -/
  orphan : Bool
  handle : Option Nat
  /-- run again on the restore of its group, whose gangs wait for it (R294, R295) -/
  rerun : Bool
  deriving DecidableEq, Repr

/-- What a synchronisation word asks of its bank, with the operands it read at issue (R376, R377). -/
inductive SyncOp where
  | finit
  | ffill (v : Word)
  | take (d : Nat)
  | peek (d : Nat) (c : CBit)
  | qinit (v : Word)
  | qarr
  | qbyt (v : Word)
  | qwait (p : Nat)
  deriving DecidableEq, Repr

/-- What a bank request does (R254). -/
inductive BankOp where
  | atom (op : Nat) (b : Nat)
  | cas (b c : Nat)
  | far (form : Nat) (b c : Nat)
  | farCas (b c : Nat) (p : Nat)
  | ordered (form : Nat) (b idx count : Nat)
  /-- of the fragment in a split-table entry -/
  | sync (entry : Nat) (w : SyncOp)
  deriving DecidableEq, Repr

/-- A lane's request on its way to a bank (R254, R271 to R275). -/
structure BankReq where
  gid : Nat
  gang : Nat
  op : Nat
  lane : Nat
  va : Nat
  pa : Nat
  ty : TyCode
  what : BankOp
  fmtf : BitVec 24
  /-- register that takes the old value -/
  dest : Option Nat
  due : Nat
  deriving DecidableEq, Repr

/-- An ordered entry of a home slice (R275). -/
structure OrdEntry where
  slice : Nat
  target : Nat
  count : Nat
  next : Nat
  held : List (Nat × BankReq)
  deriving DecidableEq, Repr

/-- A lease (R253, R277). -/
structure Lease where
  key : Nat
  lines : List Nat
  ends : Nat
  deriving DecidableEq, Repr

/-- What a stack's vat block keeps (R250, R275 to R279). -/
structure Vat where
  dp : Nat
  refd : Bool
  leases : List Lease
  ordered : List OrdEntry
  gatedBanks : List Nat
  deriving DecidableEq, Repr

/-- A vat after reset. -/
def Vat.fresh : Vat := ⟨0, false, [], [], []⟩

/-! ## Device blocks -/

/-- OWNSTAT.STATE (R43). -/
inductive OwnState where
  | elect | unowned | owned | giving
  deriving DecidableEq, Repr

/-- Ownership (R43, R44). -/
structure Owner where
  state : OwnState
  owner : Master
  target : Master
  claims : BitVec 4
  nowr : BitVec 4
  windowEnd : Nat
  giveEnd : Nat
  deriving DecidableEq, Repr

/-- An invalidation in progress: its first 64 KiB page, its pages, and the operations issued before it (R244). -/
structure Invalidation where
  first : Nat
  pages : Nat
  before : Nat
  deriving DecidableEq, Repr

/-- The translation block (R243, R244); BUSY is set while an invalidation is in progress. -/
structure Translation where
  root : BitVec 40
  en : Bool
  inv : Option Invalidation
  dropped : Bool
  cbad : Bool
  deriving DecidableEq, Repr

/-- A translation that a TLB holds: whose TLB it is (a core's package index, 192 and a cluster's, or 216 for the walkers), the page it
covers and its leaf, with the leaf's level (R244). -/
structure TlbEntry where
  holder : Nat
  base : Nat
  size : Nat
  level : Nat
  leaf : Nat
  deriving DecidableEq, Repr

/-- A line held in a core's L1, by the attribute of its page: 0 CACHED, 2 RO, 3 PRIVATE (R245). -/
structure L1Line where
  core : Nat
  line : Nat
  attr : Nat
  dirty : Bool
  deriving DecidableEq, Repr

/-- Who holds a CACHED line: up to four cores, or, from the fifth on, clusters of the package (R246). -/
inductive Sharers where
  | exact (cores : List Nat)
  | coarse (clusters : List Nat)
  deriving DecidableEq, Repr

/-- A directory entry of a home slice (R246). -/
structure DirEntry where
  line : Nat
  owned : Bool
  sharers : Sharers
  deriving DecidableEq, Repr

/-- What the caches hold beside the values, which memory holds (R92, R244 to R247, R252). -/
structure Caches where
  l1 : List L1Line
  dir : List DirEntry
  /-- core and line of each instruction cache -/
  icache : List (Nat × Nat)
  /-- 8-byte words, by address / 8, of RO lines and code lines that some core holds, with the value before they changed -/
  old : List (Nat × Word)
  tlb : List TlbEntry
  /-- GDDR 7 lines written since they were last written back, with the time of the write, ps (R252, R262) -/
  dirty : List (Nat × Nat)
  deriving DecidableEq, Repr

/-- Caches that hold nothing. -/
def Caches.empty : Caches := ⟨[], [], [], [], [], []⟩

/-- The configuration record (R428). -/
structure ConfigRecord where
  rootComplex : Bool
  force : Bool
  link : Bool
  electMs : Nat
  rank : Bool
  minVersions : List Nat
  deriving DecidableEq, Repr

/-- The link rank: 0 in a box without a link (R416). -/
def ConfigRecord.linkRank (c : ConfigRecord) : Bool := c.link && c.rank

/-- The defaults of R428. -/
def ConfigRecord.default : ConfigRecord := ⟨false, false, false, 200, false, [0, 0, 0, 0, 0]⟩

/-- A submission: TSUB, the graph's address, and what the graph unit reads at the GSUBMIT write, which fixes the frame (R14): memory
with its error marks, the translation with what TLBs hold, and the rings whose windows it maps. -/
structure Submission where
  tsub : Nat
  va : Nat
  mem : Memory
  memErr : List (Nat × Nat)
  xl : Translation
  rings : List Ring
  tlb : List TlbEntry := []
  /-- its serial number among the device's operations, and the virtual range of its acceptance record (R244) -/
  id : Nat := 0
  record : Nat × Nat := (0, 0)
  deriving DecidableEq, Repr

/-- The graph unit's own registers and queues (R42 to R48). -/
structure GraphUnit where
  sbad : Bool
  sqovf : Bool
  xmiss : Bool
  aflt : Bool
  rsvc : Nat
  rsvb : Nat
  tp0 : Nat
  tp1 : Nat
  /-- queued submissions, oldest first (R47) -/
  queue : List Submission
  /-- base-die cycles whose arrivals the graph units have applied (R28, R254) -/
  cycle : Nat := 0
  deriving DecidableEq, Repr

/-- The fault queue and save slots (R391). -/
structure FaultQueue where
  base : BitVec 40
  logn : Nat
  en : Bool
  head : BitVec 16
  tail : BitVec 16
  rmiss : Bool
  svfull : Bool
  werr : Bool
  waiting : List (List Byte)
  /-- a fault record was written while no master owned the device: its interrupt waits (R415) -/
  waitIrq : Bool
  svbase0 : BitVec 29
  svn0 : BitVec 12
  svbase1 : BitVec 29
  svn1 : BitVec 12
  deriving DecidableEq, Repr

/-- The event ring (R414, R415). -/
structure EventRing where
  base : BitVec 40
  logn : Nat
  en : Bool
  head : BitVec 32
  tail : BitVec 32
  time : Nat
  cntm1 : Nat
  werr : Bool
  irq : Bool
  waiting : List (List Byte)
  /-- count U and time T0, ns (R415) -/
  u : Nat
  t0 : Nat
  deriving DecidableEq, Repr

/-- A running service command: CMD, ARG, KIND and when it finishes (R434). -/
structure ServiceRun where
  cmd : Nat
  arg : Nat
  kind : Nat
  due : Nat
  drained : Bool
  deriving DecidableEq, Repr

/-- The service block (R433). -/
structure Service where
  busy : Bool
  done : Bool
  code : Nat
  addr : BitVec 46
  run : Option ServiceRun
  deriving DecidableEq, Repr

/-- The device description and what stands behind it (R430 to R432). -/
structure Device where
  unitbad : BitVec 9
  idpub : List Byte
  spares0 : Nat
  spares1 : Nat
  linkUp : Bool
  rkdup : Bool
  linkrpl : Word
  linkdrp : Word
  tjmax : Word
  clscal : List Nat
  /-- digests of the images loaded, in kind order (R430) -/
  measurements : List (List Byte)
  /-- held in reset until the rails are cycled (R439) -/
  tripped : Bool
  deriving DecidableEq, Repr

/-- A net (R331). -/
structure Net where
  daddr : BitVec 46
  wign : Bool
  dbad : Bool
  en : Bool
  drops : Nat
  fill : Nat
  tail : Nat
  neww : Bool
  cur : Bool
  /-- the 512-bit descriptor read at the enabling write -/
  desc : Nat
  deriving DecidableEq, Repr

/-- A net after reset. -/
def Net.fresh : Net := ⟨0, false, false, false, 0, 0, 0, false, false, 0⟩

/-- A record in a node queue: its bytes, its order key (R351) and the number of its arrival. -/
structure NodeRec where
  bytes : List Byte
  key : Nat
  arrival : Nat
  deriving DecidableEq, Repr

/-- A record held back by a full queue, or tentative inside a window (R280). -/
structure EmitWait where
  /-- the EMIT's group, gang and operation, which counts down when all has entered; none for a fixed-function node -/
  source : Option (Nat × Nat × Nat)
  /-- the node that emits and the node whose queue takes the records -/
  origin : Nat
  node : Nat
  recs : List NodeRec
  tentative : Bool
  deriving DecidableEq, Repr

/-- A pixel of a blender's buffer: colour and depth (R351). -/
structure Pixel where
  rgba : Word
  z : Word32
  deriving DecidableEq, Repr

/-- A started tile of a record pass (R347 to R351, R358). -/
structure RecTile where
  tref : TileRef
  queues : Table (List NodeRec)
  emits : List EmitWait
  triangles : Table Nat
  arrivals : Nat
  /-- records received by each blender; applied in key order when the tile retires (R351) -/
  blended : Table (List NodeRec)
  /-- the tile's pixels as each blender loaded them at its first record, row by row -/
  loaded : Table (List Pixel)
  stats : List Nat
  launched : Table Nat
  killed : Bool
  deriving DecidableEq, Repr

/-- A ray in a traversal unit (R352 to R355). -/
structure Ray where
  unit : Nat
  /-- 48 bytes as a number -/
  bits : Nat
  entered : Nat
  /-- one more than the address of the treelet of its next node; 0 where it waits for none -/
  treelet : Nat
  /-- the same for the nodes after that, where the treelet changes (R354) -/
  path : List Nat
  forced : Bool
  /-- a VTRACE's FLUSH (R188) -/
  flush : Bool := false
  /-- issuing group, gang, operation, lane and destination; or the record-pass node that takes the hit -/
  lane : Option (Nat × Nat × Nat × Nat × Nat)
  node : Option (TileRef × Nat × Nat)
  deriving DecidableEq, Repr

/-- Treelets held by a traversal unit, most recently loaded first (R354). -/
structure Treelets where
  unit : Nat
  loaded : List Nat
  deriving DecidableEq, Repr

/-- A decrement sent over UCIe: arrival time, target stack, the retired tile (R411). -/
structure Decrement where
  due : Nat
  stack : Nat
  tref : TileRef
  frame : Nat
  deriving DecidableEq, Repr

/-- A collective tile that has started: its elements of this box's buffer as they were then, and the stacks of this box whose participant
has written its part (R416, R418). -/
structure Collective where
  tref : TileRef
  xs : List Nat
  ran : List Nat
  deriving DecidableEq, Repr

/-- The link as the model keeps it: the next sequence number, when it last went down, and its credit (R417, R419). -/
structure Link where
  nextSeq : BitVec 24
  downSince : Option Nat
  peerRank : Bool
  /-- payloads of contributions of the peer's that no pass of this box has been paired with, in order (R417) -/
  offers : List (List Byte)
  /-- passes of the peer of which a contribution has arrived (R417) -/
  known : List Nat
  deriving DecidableEq, Repr

/-- Where an uncorrectable error arises (R330, R404, R407). -/
inductive Flaw where
  /-- a 128-byte line of the vat or GDDR 7, by physical address / 128 -/
  | line (n : Nat)
  /-- an 8-byte scratchpad word of a core, by offset / 8 -/
  | scratch (core word : Nat)
  /-- an element of an accumulator tile of a core (R303) -/
  | tile (core key : Nat)
  /-- a v register word (key 64 · register + lane), an s register, a predicate of a gang -/
  | vreg (gid gang key : Nat)
  | sreg (gid gang n : Nat)
  | preg (gid gang n : Nat)
  /-- an 8-byte word of the operand that a macro-operation of a core staged at issue: of B, or else of A (R330) -/
  | staging (core op : Nat) (ofB : Bool) (word : Nat)
  /-- a gang's control state (R404) -/
  | control (gid gang : Nat)
  deriving DecidableEq, Repr

/-- What the outside world asks of the machine next, or an order the manual leaves open: the model's own list, read by
step before anything else (log 1). -/
inductive Input where
  /-- a command, or a device step chosen out of turn -/
  | command (i : Instr)
  /-- a host store of bytes at a physical address, at its home slice (R363) -/
  | hostStore (pa : Nat) (bytes : List Byte)
  /-- a host load of n bytes at a physical address, at its home slice (R363) -/
  | hostLoad (pa n : Nat)
  /-- an uncorrectable error arises (R404, R407); the manual does not say when one does -/
  | flaw (f : Flaw)
  /-- nothing more until `time` reaches a number of ps -/
  | elapse (ps : Nat)
  deriving DecidableEq, Repr

/-- The fragment whose instruction is issuing: group, gang, split-table entry (log 1). -/
structure FragRef where
  gid : Nat
  gang : Nat
  entry : Nat
  deriving DecidableEq, Repr

/-- An interrupt signalled to an owner: NSTIME in ps, the master, whether for a fault record (R415). -/
structure Irq where
  time : Nat
  master : Master
  fault : Bool
  deriving DecidableEq, Repr

/-- The machine. -/
structure State where
  /-- ps since the device left reset; NSTIME is a thousandth of it (R134) -/
  time : Nat
  own : Owner
  cfg : ConfigRecord
  gu : GraphUnit
  frames : List Frame
  frameCount : Nat
  rings : List Ring
  reserved : List Reservation
  launches : List LaunchEntry
  /-- divergence history: key 256 · stack + index; tag and loss (R77) -/
  history : Table (Option (Nat × Nat))
  groups : List Group
  gidCount : Nat
  handles : List Handle
  handleCount : Nat
  cores : Table Core
  mem : Memory
  /-- lines with an uncorrectable error, with the bytes not yet overwritten (R407) -/
  memErr : List (Nat × Nat)
  caches : Caches
  xl : Translation
  vat0 : Vat
  vat1 : Vat
  bankQ : List BankReq
  copies : List Copy
  idCount : Nat
  nets : List Net
  recTiles : List RecTile
  colls : List Collective
  rays : List Ray
  treelets : List Treelets
  fq : FaultQueue
  ev : EventRing
  svc : Service
  dev : Device
  link : Link
  decrements : List Decrement
  irqs : List Irq
  /-- units loading a new image: kind and index, until a time (R435) -/
  loading : List (Nat × Nat × Nat)
  /-- recalibrations so far: each core in turn has one every 1 ms (R438) -/
  recalCount : Nat
  /-- gated arrays that wake, with the time at which the wake-up ends (R263) -/
  waking : List (GatedArray × Nat)
  cur : Option FragRef
  inputs : List Input
  /-- the model's own counter for free values (log 3) -/
  free : Nat
  deriving DecidableEq, Repr

/-- Why the machine stops with a fault: the requests the manual gives no state for. -/
inductive Fault where
  /-- An instruction word ran with no fragment issuing it. Raised by every instruction meaning; safe: step never does this. -/
  | noFragment
  /-- A device step named a gang, core, copy or tile that is not there, or not in the state the step needs. Raised by device
  steps only; safe: the step the manual describes does not happen then. -/
  | absent
  /-- The device is held in reset until its rails are cycled (R439). Raised by step; safe: nothing runs. -/
  | heldInReset
  deriving DecidableEq, Repr

/-- Why the machine refuses an instruction. -/
inductive Refusal where
  /-- The instruction has no meaning yet. Raised by arms of exec; safe. -/
  | notModelled (mnemonic : String)
  deriving DecidableEq, Repr

/-- The machine right after reset (R430): the election window is open, every register at the value the manual gives; see
the log for those it does not give. -/
def State.reset : State where
  time := 0
  own := ⟨.elect, 0, 0, 0, 0, 200000000000, 0⟩
  cfg := .default
  gu := ⟨false, false, false, false, 224, 192, 2048, 2048, [], 0⟩
  frames := []
  frameCount := 0
  rings := []
  reserved := []
  launches := []
  history := []
  groups := []
  gidCount := 0
  handles := []
  handleCount := 0
  cores := []
  mem := []
  memErr := []
  caches := .empty
  xl := ⟨0, false, none, false, false⟩
  vat0 := .fresh
  vat1 := .fresh
  bankQ := []
  copies := []
  idCount := 0
  nets := [.fresh, .fresh, .fresh, .fresh]
  recTiles := []
  rays := []
  colls := []
  treelets := []
  fq := ⟨0, 0, false, 0, 0, false, false, false, [], false, 0, 0, 0, 0⟩
  ev := ⟨0, 0, false, 0, 0, 0, 0, false, false, [], 0, 0⟩
  svc := ⟨false, false, 0, 0, none⟩
  dev := ⟨0, Crypto.identityKey, 4, 4, false, false, 0, 0, 0, [400, 550, 667, 800],
    (List.range 5).map fun k => (Config.measurement k ++ List.replicate 64 0).take 64, false⟩
  link := ⟨0, none, false, [], []⟩
  decrements := []
  irqs := []
  loading := []
  recalCount := 0
  waking := []
  cur := none
  inputs := []
  free := 0

end Sys2Proof.Machine
end

