-- ==== Sys2Proof/Machine/Ops.lean ====
section
/-! DEFINITION. The named operations over registers, fragments, gangs, groups and cores; rollback; taking an exception and returning from one (R108, R135, R145, R365 to R371, R384 to R390). -/

namespace Sys2Proof.Machine

open Sys2Proof.Bits

/-- The outcome of an instruction or a device step. -/
abbrev Out := Host.Outcome State Fault Refusal

/-! ## Orders by key -/

/-- Lexicographic order of keys. -/
def keyLt : List Nat → List Nat → Bool
  | [], [] => false
  | [], _ => true
  | _, [] => false
  | a :: as, b :: bs => a < b || (a == b && keyLt as bs)

/-- The element of a list with the least key; the first of equals. -/
def leastBy {A : Type} (key : A → List Nat) : List A → Option A
  | [] => none
  | a :: as =>
    match leastBy key as with
    | none => some a
    | some b => if keyLt (key b) (key a) then some b else some a

/-- Inserts into a list sorted by key, after equals. -/
def insertBy {A : Type} (key : A → List Nat) (a : A) : List A → List A
  | [] => [a]
  | b :: bs => if keyLt (key a) (key b) then a :: b :: bs else b :: insertBy key a bs

/-- Sorts by key; equals keep their order. -/
def sortBy {A : Type} (key : A → List Nat) (l : List A) : List A := l.foldl (fun acc a => insertBy key a acc) []

/-! ## Registers of a gang -/

/-- All bits one. -/
def allOnes : Word := 0xFFFFFFFFFFFFFFFF

/-- Reads an s register; s0 reads zero (R98), an uncorrectable word reads all ones (R407). -/
def Gang.readS (h : Gang) (r : Nat) : Word :=
  if r = 0 then 0 else if h.serr.contains r then allOnes else Table.get 0 h.s r

/-- Writes an s register; a write to s0 has no effect (R98). -/
def Gang.writeS (h : Gang) (r : Nat) (v : Word) : Gang :=
  if r = 0 then h else { h with s := Table.set 0 h.s r v, serr := h.serr.filter (fun x => x != r) }

/-- Whether a predicate is uncorrectable in some lane that has not exited (R407). -/
def Gang.badP (h : Gang) (p : Nat) : Bool := p != 0 && h.perr.any (fun k => k / 64 == p && h.lmask.getLsbD (k % 64))

/-- Reads a predicate as a lane mask; p0 reads true (R79), an uncorrectable one reads 0 (R407). -/
def Gang.readP (h : Gang) (p : Nat) : Word :=
  if p = 0 then allOnes
  else Table.get 0 h.p p &&& ~~~(BitVec.ofNat 64 (maskOf ((h.perr.filter (fun k => k / 64 == p)).map (fun k => k % 64))))

/-- Writes a predicate in some lanes, which are then good; a write to p0 has no effect (R98, R407). -/
def Gang.writeP (h : Gang) (p : Nat) (lanes vals : Word) : Gang :=
  if p = 0 then h
  else { h with p := Table.set 0 h.p p ((Table.get 0 h.p p &&& ~~~lanes) ||| (vals &&& lanes)),
                perr := h.perr.filter (fun k => k / 64 != p || !lanes.getLsbD (k % 64)) }

/-- The key of a v word. -/
def vkey (reg lane : Nat) : Nat := 64 * reg + lane

/-- Reads a v register of a lane (R108, R407). -/
def Gang.readV (h : Gang) (reg lane : Nat) : Word :=
  if h.verr.contains (vkey reg lane) then allOnes else Table.get 0 h.v (vkey reg lane)

/-- Writes a v register of a lane. -/
def Gang.writeV (h : Gang) (reg lane : Nat) (v : Word) : Gang :=
  { h with v := Table.set 0 h.v (vkey reg lane) v, verr := h.verr.filter (fun x => x != vkey reg lane) }

/-- A c bit. -/
def Gang.readC (h : Gang) (k : CBit) : Bool := h.c.getLsbD k.val

/-- Writes a c bit. -/
def Gang.writeC (h : Gang) (k : CBit) (b : Bool) : Gang :=
  { h with c := if b then h.c ||| (1#4 <<< k.val) else h.c &&& ~~~(1#4 <<< k.val) }

/-- A c bit as `VOp.dests` numbers it, beside v registers from 0, s registers from 384 and predicates from 448 on. -/
def cnum (k : CBit) : Nat := 512 + k.val

/-- ORs bits into SATF (R192). -/
def Gang.orSatf (h : Gang) (x : BitVec 4) : Gang := { h with satf := h.satf ||| x }

/-- Makes a list of writes; results that land in exited lanes are discarded (R163). -/
def Gang.apply (h : Gang) (w : Writes) : Gang :=
  let h1 := w.v.foldl (fun g x => if g.lmask.getLsbD x.1.2 then g.writeV x.1.1 x.1.2 x.2 else g) h
  let h2 := w.p.foldl (fun g x => g.writeP x.1 (x.2.1 &&& g.lmask) x.2.2) h1
  let h3 := w.s.foldl (fun g x => g.writeS x.1 x.2) h2
  h3.orSatf w.satf

/-- A write joins those not yet made, by cycle and then by split-table entry: of two of one cycle the higher entry's remains (R200). -/
def insertF (w : FWrite) : List FWrite → List FWrite
  | [] => [w]
  | x :: xs => if w.due < x.due || (w.due = x.due && w.entry < x.entry) then w :: x :: xs else x :: insertF w xs

/-- Makes the fixed-latency writes whose cycle has ended before cycle `c` (R105). -/
def Gang.settle (h : Gang) (c : Nat) : Gang :=
  let due := h.fpend.filter (fun w => w.due < c)
  due.foldl (fun g w => g.apply w.writes) { h with fpend := h.fpend.filter (fun w => c ≤ w.due) }

/-! ## Fragments -/

/-- A split-table entry of the gang. -/
def Gang.frag? (h : Gang) (entry : Nat) : Option Fragment := h.frags.find? (fun f => f.entry == entry)

/-- Replaces a fragment by its entry number. -/
def Gang.setFrag (h : Gang) (f : Fragment) : Gang :=
  { h with frags := h.frags.map (fun x => if x.entry = f.entry then f else x) }

/-- Moves the program counter by a signed number of words (R89, R94). -/
def Fragment.advance (f : Fragment) (words : Nat) : Fragment :=
  { f with pc := f.pc + BitVec.ofNat 54 words, wait := .none, state := .runnable, tested := false }

/-- Moves the program counter to a word address. -/
def Fragment.jump (f : Fragment) (pc : BitVec 54) : Fragment := { f with pc := pc, wait := .none, state := .runnable, tested := false }

/-- The byte address of a word address (R94). -/
def byteAddr (pc : BitVec 54) : Nat := 4 * pc.toNat

/-- Holds the fragment at its word, waiting at issue: neither parked nor blocked (R149, R164). -/
def Fragment.hold (f : Fragment) (w : Wait) : Fragment := { f with wait := w, state := .runnable }

/-- Parks the fragment at its word, whose saturation test has been made; one that is parked already has been since before (R150, R165 to
R167, R382). -/
def Fragment.park (f : Fragment) (w : Wait) (time : Nat) : Fragment :=
  { f with wait := w, state := .parked, parkedAt := if f.state = .parked then f.parkedAt else time, tested := true }

/-- Blocks the fragment at its word (R149). -/
def Fragment.block (f : Fragment) (w : Wait) (time : Nat) : Fragment := { f with wait := w, state := .blocked, parkedAt := time }

/-- Wakes the fragment: its word issues again and tests its condition again (R149, R167). -/
def Fragment.wake (f : Fragment) : Fragment := { f with wait := .none, state := .runnable, readyAt := none, served := none }

/-- The quads that hold a lane of a mask. -/
def quadsOf (lanes : BitVec 64) : BitVec 16 :=
  BitVec.ofNat 16 (maskOf ((List.range 16).filter (fun q => (lanes >>> (4 * q)).toNat % 16 != 0)))

/-- The lanes of some quads. -/
def lanesOfQuads (qs : BitVec 16) : BitVec 64 :=
  BitVec.ofNat 64 (maskOf ((List.range 64).filter (fun l => qs.getLsbD (l / 4))))

/-- The four mask bits of a quad. -/
def quadBits (lanes : BitVec 64) (q : Nat) : BitVec 4 := BitVec.ofNat 4 ((lanes >>> (4 * q)).toNat)

/-- Four lane bits of quad q as a lane mask. -/
def quadLanes (q : Nat) (m : BitVec 4) : BitVec 64 := BitVec.ofNat 64 (m.toNat <<< (4 * q))

/-- The enabled lanes of a fragment (R103). -/
def Gang.enabled (h : Gang) (f : Fragment) : BitVec 64 := h.lmask &&& f.fmask

/-- w(j) of a fragment: the incomplete operations counted in j whose issuing quads meet its own (R145). -/
def Gang.wcount (h : Gang) (qs : BitVec 16) (j : Nat) : Nat :=
  (h.ops.filter (fun o => o.set == j + 1 && (o.quads &&& qs) != 0)).length

/-- Sealed batches not yet finished; batches finish in order (R291). -/
def Gang.unfinished (h : Gang) : List Batch := h.batches.filter (fun b => b.isSealed)

/-- An access the gang issued has not performed (R365). -/
def Gang.accessPending (h : Gang) : Bool :=
  h.ops.any (fun o => match o.wait with | .bank n => n != 0 | _ => false)

/-- An access performed: serial mode counts it (R370). -/
def Gang.countDone (h : Gang) : Gang :=
  match h.serial with
  | some (.count n) => { h with serial := some (.count (n - 1)) }
  | _ => h

/-- An instruction has issued: serial mode ends if it was to last up to this one (R371). -/
def Gang.serialPast (h : Gang) (f : Fragment) : Gang :=
  match h.serial with
  | some (.upTo x) =>
    if x.entry = f.entry && x.pc == f.pc then { h with serial := if x.nth = 0 then none else some (.upTo { x with nth := x.nth - 1 }) } else h
  | _ => h


/-- Every lane has exited. -/
def Gang.exited (h : Gang) : Bool := h.lmask == 0

/-- Whether a fragment's word blocks its whole gang: a COPY on a full channel, or a SEAL that waits (R288, R291). -/
def Fragment.blocksGang (f : Fragment) : Bool :=
  match f.wait with
  | .channel _ _ _ | .seal => true
  | _ => false

/-- A gang issues nothing while it is stopped for a save, claims registers, is blocked, or awaits the baton it held (R174, R288,
R291, R329, R396). -/
def Gang.frozen (h : Gang) : Bool := h.stop.isSome || h.claim.isSome || h.awaitBaton || h.frags.any Fragment.blocksGang

/-- A fragment held by handler mode issues nothing (R388). -/
def Gang.isHeld (h : Gang) (entry : Nat) : Bool :=
  match h.handler with
  | some (_, held) => held.contains entry
  | none => false

/-! ## Token stacks, joins and fusion (R137, R140) -/

/-- Whether a stack has an entry of a token. -/
def hasTok (st : List TokEntry) (k : Tok) : Bool := st.any (fun e => e.tok == k)

/-- The topmost entry of a token; stacks are kept top first (R137). -/
def topTok (st : List TokEntry) (k : Tok) : Option TokEntry := st.find? (fun e => e.tok == k)

/-- Changes the topmost entry of a token. -/
def mapTop (k : Tok) (g : TokEntry → TokEntry) : List TokEntry → List TokEntry
  | [] => []
  | e :: es => if e.tok = k then g e :: es else e :: mapTop k g es

/-- Removes the topmost entry of a token; the others keep their order. -/
def dropTop (k : Tok) : List TokEntry → List TokEntry
  | [] => []
  | e :: es => if e.tok = k then es else e :: dropTop k es

/-- The token stack of a quad. -/
def Gang.stack (h : Gang) (q : Nat) : List TokEntry := Table.get [] h.tokens q

/-- The join of a token. -/
def Gang.join (h : Gang) (k : Tok) : Join := Table.get Join.closed h.joins k.val

/-- Replaces a quad's stack. -/
def Gang.setStack (h : Gang) (q : Nat) (st : List TokEntry) : Gang := { h with tokens := Table.set [] h.tokens q st }

/-- Replaces a join. -/
def Gang.setJoin (h : Gang) (k : Tok) (j : Join) : Gang := { h with joins := Table.set Join.closed h.joins k.val j }

/-- Handler mode ends when every fragment not held has been freed (R388). -/
def Gang.handlerCheck (h : Gang) : Gang :=
  match h.handler with
  | some (_, held) => if h.frags.all (fun f => held.contains f.entry) then { h with handler := none } else h
  | none => h

/-- fusion_check of R140; a fusion that takes in a held fragment ends handler mode (R388). -/
def Gang.fusionCheck (h : Gang) (k : Tok) : Gang :=
  let w : List Fragment := h.frags.filter (fun f => f.state == .fuseWait && f.ftok == k)
  let u := w.foldl (fun a f => a ||| f.qset) (0 : BitVec 16)
  let gone := ~~~(quadsOf h.lmask)
  let j := h.join k
  match w.foldl (fun (m : Option Fragment) f => match m with
      | none => some f
      | some x => if f.entry < x.entry then some f else some x) none with
  | none => h
  | some lead =>
    if !j.isOpen || j.expect &&& ~~~(u ||| gone) != 0 || (List.range 6).any (fun c => 63 < h.wcount u c) then h
    else
      let one := { lead.advance 1 with
        qset := u,
        fmask := w.foldl (fun (a : BitVec 64) (f : Fragment) => a ||| f.fmask) 0, fmtf := j.fmtj, readyAt := none }
      let takesHeld := w.any (fun f => h.isHeld f.entry)
      let rest : List Fragment := h.frags.filter (fun f => !(f.state == .fuseWait && f.ftok == k) || f.entry == lead.entry)
      let h1 := { h with
        frags := rest.map (fun (f : Fragment) => if f.entry = lead.entry then one else f),
        handler := if takesHeld then none else h.handler }
      (h1.setJoin k { j with isOpen := false }).handlerCheck

/-- fusion_check for every open token (R140, R142, R144). -/
def Gang.fusionAll (h : Gang) : Gang :=
  (List.range 16).foldl (fun g k => if (g.join (Fin.ofNat 16 k)).isOpen then g.fusionCheck (Fin.ofNat 16 k) else g) h

/-! ## Groups and cores in the state -/

/-- The core of a package index; one never touched since reset is fresh. -/
def State.core (s : State) (i : Nat) : Core := Table.get Core.fresh s.cores i

/-- Replaces a core. -/
def State.setCore (s : State) (i : Nat) (c : Core) : State := { s with cores := Table.set Core.fresh s.cores i c }

/-- Changes a core. -/
def State.updCore (s : State) (i : Nat) (f : Core → Core) : State := s.setCore i (f (s.core i))

/-- The group of an identity. -/
def State.group? (s : State) (gid : Nat) : Option Group := s.groups.find? (fun g => g.gid == gid)

/-- Replaces a group by its identity. -/
def State.setGroup (s : State) (g : Group) : State :=
  { s with groups := s.groups.map (fun x => if x.gid = g.gid then g else x) }

/-- The gang of a number. -/
def Group.gang? (g : Group) (id : Nat) : Option Gang := g.gangs.find? (fun h => h.id == id)

/-- Replaces a gang by its number. -/
def Group.setGang (g : Group) (h : Gang) : Group :=
  { g with gangs := g.gangs.map (fun x => if x.id = h.id then h else x) }

/-- A change of one gang, where it is. -/
def State.updGang (s : State) (gid gang : Nat) (f : Gang → Gang) : State :=
  { s with groups := s.groups.map fun g =>
      if g.gid = gid then { g with gangs := g.gangs.map fun h => if h.id = gang then f h else h } else g }

/-- Groups resident on a core. -/
def State.residents (s : State) (core : Nat) : List Group :=
  s.groups.filter (fun g => g.core == core && g.place == .resident)

/-- The issuing group, gang and fragment. -/
structure Ctx where
  g : Group
  h : Gang
  f : Fragment
  deriving DecidableEq, Repr

/-- The fragment that issues, where there is one. -/
def State.ctx? (s : State) : Option Ctx := do
  let r ← s.cur
  let g ← s.group? r.gid
  let h ← g.gang? r.gang
  let f ← h.frag? r.entry
  return ⟨g, h, f⟩

/-- Puts a changed gang and fragment of the issuing group back. -/
def State.put (s : State) (g : Group) (h : Gang) (f : Fragment) : State := s.setGroup (g.setGang (h.setFrag f))

/-- Runs a meaning at the issuing fragment. -/
def withCur (s : State) (k : Ctx → Out) : Out :=
  match s.ctx? with
  | some c => k c
  | none => .fault .noFragment

/-- NSTIME (R134). -/
def State.nstime (s : State) : Nat := s.time / 1000

/-- KiB of the register region of a carve (R68). -/
def regionKiB (scr : Nat) : Nat := min 2560 (3328 - scr * 64)

/-- Sets bits of a group's ERRSUM (R406). -/
def Group.orErr (g : Group) (x : BitVec 9) : Group := { g with errsum := g.errsum ||| x }

/-- ERRSUM bits (R406). -/
def POIS : BitVec 9 := 0x001
def FMTE : BitVec 9 := 0x002
def ORDE : BitVec 9 := 0x004
def CSRE : BitVec 9 := 0x008
def SYNE : BitVec 9 := 0x010
def TEXE : BitVec 9 := 0x020
def SCRE : BitVec 9 := 0x040
def REGE : BitVec 9 := 0x080
def MEME : BitVec 9 := 0x100

/-- REGE, when a scalar word reads an uncorrectable s register (R407). -/
def Gang.sourceErr (h : Gang) (srcs : List SReg) : BitVec 9 :=
  if srcs.any (fun r => r.val != 0 && h.serr.contains r.val) then REGE else 0

/-- A scalar word with register effects only: sources, effect on the gang, words to go on by (R147). -/
def scalarWord (s : State) (srcs : List SReg) (words : Nat) (upd : Gang → Gang) : Out :=
  withCur s fun c => .next (s.put (c.g.orErr (c.h.sourceErr srcs)) (upd c.h) (c.f.advance words))

/-- A scalar branch: sources, effect on the gang, and where the fragment goes from its state. -/
def branchWord (s : State) (srcs : List SReg) (upd : Gang → Gang) (dest : Gang → Fragment → BitVec 54) : Out :=
  withCur s fun c => .next (s.put (c.g.orErr (c.h.sourceErr srcs)) (upd c.h) (c.f.jump (dest c.h c.f)))

/-! ## Speculation: rollback (R369, R370) -/

/-- The gang restored to its checkpoint, each fragment with the state it had there; a fusion that only waited for counters may now be
complete (R140, R144, R369). A register that comes back is as it was at the checkpoint, uncorrectable where it was so then; another keeps what
it holds (R407). A split-table entry that the window freed stays its own: `State.entriesUsed` counts the checkpoint's. -/
def Gang.restored (h : Gang) (w : Window) : Gang :=
  let k := w.check
  let n := h.rolls + 1
  let pcs := k.frags.map (fun f => (f.entry, f.pc))
  ({ h with
    s := k.s, p := k.p, c := k.c, lmask := k.lmask, frags := k.frags, tokens := k.tokens, joins := k.joins,
    satf := k.satf, v := k.v, vcount := k.vcount, fpend := k.fpend, handler := k.handler, ckrb := h.ckrb + 1,
    verr := k.verr.filter (fun x => w.shadow.contains (x / 64)) ++ h.verr.filter (fun x => !w.shadow.contains (x / 64)),
    serr := k.serr, perr := k.perr, traced := k.traced.filter fun x => x.2.1 != 0 || h.ops.any fun o => o.id == x.1,
    ops := h.ops.filter (fun o => !o.inWindow), window := none,
    rolls := if n = 3 then 0 else n, rolledAt := pcs,
    serial := if n = 3 then some (.count w.accesses.length) else h.serial }).fusionAll

/-! ## The pending-launch store (R61 to R63, R176) -/

/-- A kernel descriptor's fields (R70). -/
def Kernel.ofBits (addr n : Nat) : Kernel where
  addr := BitVec.ofNat 56 addr
  ctbase := BitVec.ofNat 56 (field 503 448 n)
  livbase := BitVec.ofNat 56 (field 439 384 n)
  hndlr := BitVec.ofNat 56 (field 375 320 n)
  entry := BitVec.ofNat 56 (field 311 256 n)
  pix := n.testBit 34
  scrg := field 32 24 n
  wmax := field 19 18 n
  wmin := field 17 16 n
  gqm1 := field 15 8 n
  vc8 := field 5 0 n

/-- Entries of a stack's pending-launch store in use (R61). -/
def State.launchesOf (s : State) (stack : Nat) : List LaunchEntry := s.launches.filter (fun e => e.stack == stack)

/-- An entry of the store taken for a group's LAUNCH of the descriptor `bits` at `va`, with s[sb] (R61, R175, R177). -/
def State.takeEntry (s : State) (g : Group) (va bits y : Nat) (tentative : Option (Nat × Nat)) : State :=
  { s with
    launches := s.launches ++ [{
      id := s.idCount, stack := g.core / 96, tref := g.tref, frame := g.frame, kernel := Kernel.ofBits va bits,
      groups := y / 2 ^ 56 + 1, placed := 0, carg := BitVec.ofNat 56 y, scr := g.scr, accs := g.tiles.length, chk := g.chk,
      tentative := tentative }],
    idCount := s.idCount + 1 }

/-- A change of one fragment made by something outside its gang, which a rollback of the gang does not undo: made in the
checkpoint too where the fragment stands there in the same wait (R369). -/
def Gang.outside (h : Gang) (p : Fragment → Bool) (upd : Fragment → Fragment) (reg : Option (Nat × Word)) (cb : Option (CBit × Bool)) :
    Gang :=
  let put := fun (fs : List Fragment) => fs.map fun f => if p f then upd f else f
  let set := fun (g : Gang) =>
    let g1 := match reg with | some (r, x) => g.writeS r x | none => g
    match cb with | some (k, b) => g1.writeC k b | none => g1
  let h1 := if h.frags.any p then set { h with frags := put h.frags } else h
  { h1 with window := h.window.map fun w =>
      if w.check.frags.any p then
        let g := set { h with s := w.check.s, c := w.check.c }
        { w with check := { w.check with frags := put w.check.frags, s := g.s, c := g.c, serr := w.check.serr.filter fun r => reg.all fun x => x.1 != r } }
      else w }

/-- The launcher that parked first on a stack's full store takes the entry that has become free, and goes on (R62, R176); one that a waiting
CLAIM of its gang holds stays parked, and takes an entry once the claim is granted, if there is one (R174, log 107). Of two that parked at
the same time the order is that of group, gang and split-table entry (log 100). -/
def State.wakeLauncher (s : State) (st : Nat) : State :=
  let all := (s.groups.filter fun g => g.core / 96 == st && g.place == .resident).flatMap fun g =>
    (g.gangs.filter fun h => h.claim.isNone).flatMap fun h =>
      h.frags.filterMap fun f => match f.wait with
        | .launch va bits y k => some (g, h, f, va, bits, y, k)
        | _ => none
  match leastBy (fun x => [x.2.2.1.parkedAt, x.1.gid, x.2.1.id, x.2.2.1.entry]) all with
  | none => s
  | some (g, h, f, va, bits, y, k) =>
    if 4096 ≤ (s.launchesOf st).length then s
    else (s.setGroup (g.setGang (h.outside (fun x => x.entry == f.entry && x.wait == f.wait) (fun x => x.advance 1) none (some (k, true))))).takeEntry
      g va bits y none

/-- Entries of the store freed, each of which wakes one parked launcher (R62). -/
def State.freeLaunches (s : State) (gone : LaunchEntry → Bool) : State :=
  let freed := s.launches.filter gone
  freed.foldl (fun t e => t.wakeLauncher e.stack) { s with launches := s.launches.filter fun e => !gone e }

/-- Cancels the tentative launches and emits of a gang (R63, R369). -/
def State.cancelTentative (s : State) (gid gang : Nat) : State :=
  { s.freeLaunches (fun e => e.tentative == some (gid, gang)) with
    recTiles := s.recTiles.map (fun t =>
      { t with emits := t.emits.filter (fun e => !(e.tentative && e.source.any fun x => x.1 == gid && x.2.1 == gang)) }) }

/-- A rollback of one gang (R369). -/
def State.rollback (s : State) (gid gang : Nat) : State :=
  match s.group? gid with
  | none => s
  | some g =>
    match g.gang? gang with
    | none => s
    | some h =>
      match h.window with
      | none => s
      | some w => (s.setGroup (g.setGang (h.restored w))).cancelTentative gid gang

/-- Whether an access to lines conflicts with a gang's window (R369). -/
def Window.conflicts (w : Window) (lines : List Nat) (write : Bool) : Bool :=
  lines.any (fun l => w.claims.contains l || (write && w.marks.contains l))

/-- The same for scratchpad words of its core. -/
def Window.sconflicts (w : Window) (words : List Nat) (write : Bool) : Bool :=
  words.any (fun l => w.sclaims.contains l || (write && w.smarks.contains l))

/-- Rolls back every gang, other than the agent's own, whose window a condition meets. -/
def State.rollbackWhere (s : State) (agent : Option (Nat × Nat)) (bad : Group → Window → Bool) : State :=
  s.groups.foldl (fun t g =>
    g.gangs.foldl (fun u h =>
      match h.window with
      | none => u
      | some w => if bad g w && agent != some (g.gid, h.id) then u.rollback g.gid h.id else u) t) s

/-- The lines of 128 bytes that a range touches (R246). -/
def linesOf (pa n : Nat) : List Nat :=
  if n = 0 then [] else (List.range ((pa + n - 1) / 128 - pa / 128 + 1)).map (fun i => pa / 128 + i)

/-- The 8-byte words that a range touches. -/
def wordsOf (a n : Nat) : List Nat :=
  if n = 0 then [] else (List.range ((a + n - 1) / 8 - a / 8 + 1)).map (fun i => a / 8 + i)

/-- An agent's access to physical bytes: rolls back windows it conflicts with (R369). -/
def State.conflict (s : State) (agent : Option (Nat × Nat)) (pa n : Nat) (write : Bool) : State :=
  s.rollbackWhere agent (fun _ w => w.conflicts (linesOf pa n) write)

/-- An agent's access to scratchpad bytes of a core (R369). -/
def State.sconflict (s : State) (agent : Option (Nat × Nat)) (core a n : Nat) (write : Bool) : State :=
  s.rollbackWhere agent (fun g w => g.core == core && g.place == .resident && w.sconflicts (wordsOf a n) write)

/-! ## Waking (R167, R378) -/

/-- Whether a fragment waits for a write to bytes that a write touches. -/
def Fragment.waitsOn (f : Fragment) (pa n : Nat) : Bool :=
  match f.wait with
  | .mem q m => decide (q < pa + n) && decide (pa < q + m)
  | .obj q _ => decide (q < pa + n) && decide (pa < q + 16)
  | _ => false

/-- Whether it is a PARK, whose word any write wakes; a synchronisation word wakes the waiters of its object itself (R167, R376, R377). -/
def Fragment.isPark (f : Fragment) : Bool :=
  match f.wait with
  | .mem _ _ => true
  | _ => false

/-- A gang wakes every fragment whose condition holds of it, in the checkpoint of an open window as well (R369); while a CLAIM of the gang
waits they stay parked, and the grant wakes them (R174). -/
def Gang.wakeWhere (h : Gang) (p : Fragment → Bool) : Gang :=
  if h.claim.isNone then h.outside p Fragment.wake none none
  else { h with frags := h.frags.map fun f => if p f && f.served.isNone then { f with served := some 0 } else f }

/-- What the wait of a CLAIM kept from a parked fragment comes about: an FTAKE takes its value, another word issues again (R174). -/
def Gang.serve (h : Gang) (f : Fragment) : Gang :=
  match f.served, f.wait with
  | some v, .obj _ (.take d) => (h.setFrag { f.advance 1 with served := none }).writeS d v
  | some _, _ => h.setFrag f.wake
  | none, _ => h

/-- No CLAIM of the gang waits any more (R174). -/
def Gang.unclaimed (h : Gang) : Gang := h.frags.foldl Gang.serve { h with claim := none }

/-- Wakes every fragment of a resident group whose condition holds of it; those of a saved group test their conditions again at its restore
(R149, R378). -/
def State.wakeWhere (s : State) (p : Fragment → Bool) : State :=
  { s with groups := s.groups.map (fun g => if g.place = .resident then { g with gangs := g.gangs.map (fun h => h.wakeWhere p) } else g) }

/-- A write to physical bytes wakes the fragments parked on them. -/
def State.wakeMem (s : State) (pa n : Nat) : State := s.wakeWhere (fun f => f.waitsOn pa n)

/-! ## Physical bytes -/

/-- The bytes at a physical address, an unlisted one reading as the fill (R238). -/
def Memory.read (m : Memory) (pa : Nat) : Byte := Table.get Memory.fill m pa

/-- Writes one byte. -/
def Memory.write (m : Memory) (pa : Nat) (b : Byte) : Memory := Table.set Memory.fill m pa b

/-- The little-endian number in n bytes (R10). -/
def Memory.readN (m : Memory) : Nat → Nat → Nat
  | _, 0 => 0
  | pa, n + 1 => (m.read pa).toNat + 256 * m.readN (pa + 1) n

/-- Writes a list of bytes from an address on. -/
def Memory.writeL (m : Memory) (pa : Nat) : List Byte → Memory
  | [] => m
  | b :: bs => (m.write pa b).writeL (pa + 1) bs

/-- Whether a byte lies in a line with an uncorrectable error (R407). -/
def State.memBad (s : State) (pa : Nat) : Bool := s.memErr.any (fun e => e.1 == pa / 128)

/-- The byte a load or copy read delivers (R407). -/
def State.byte (s : State) (pa : Nat) : Byte := if s.memBad pa then 0xFF else s.mem.read pa

/-- The number in n bytes as a load delivers them. -/
def State.bytesN (s : State) : Nat → Nat → Nat
  | _, 0 => 0
  | pa, n + 1 => (s.byte pa).toNat + 256 * s.bytesN (pa + 1) n

/-- A line stays uncorrectable until every byte of it has been overwritten (R407). -/
def clearErr (errs : List (Nat × Nat)) (pa : Nat) : List (Nat × Nat) :=
  (errs.map (fun e => if e.1 = pa / 128 then (e.1, e.2 &&& (2 ^ 128 - 1 - 2 ^ (pa % 128))) else e)).filter (fun e => e.2 != 0)

/-- Whether some core holds a line that it need not see change: an RO line of its L1, or a line of its instruction cache (R92, R247). -/
def Caches.fixed (c : Caches) (line : Nat) : Bool :=
  c.l1.any (fun x => x.line == line && x.attr == 2) || c.icache.any (fun x => x.2 == line)

/-- What the caches keep when bytes of memory are about to change: the words as they were, of lines that a core may still read as they
were, and the GDDR 7 lines that are dirty (R92, R247, R252). -/
def State.cachesAt (s : State) (pa n : Nat) : Caches :=
  { s.caches with
    old := (wordsOf pa n).foldl (fun o w =>
      if s.caches.fixed (w / 16) && !(o.any fun x => x.1 == w) then o ++ [(w, BitVec.ofNat 64 (s.mem.readN (8 * w) 8))] else o) s.caches.old,
    dirty := if pa < Config.gddrBytes then
        (linesOf pa n).map (fun l => (l, s.time)) ++ s.caches.dirty.filter (fun x => !((linesOf pa n).contains x.1))
      else s.caches.dirty }

/-- Writes bytes to physical memory: the bytes, the error marks, what the caches keep. -/
def State.setBytes (s : State) (pa : Nat) (bs : List Byte) : State :=
  { s with
    mem := s.mem.writeL pa bs,
    memErr := if s.memErr = [] then [] else (List.range bs.length).foldl (fun e i => clearErr e (pa + i)) s.memErr,
    caches := s.cachesAt pa bs.length }

/-- Writes bytes to physical memory, and wakes who waits for them; conflicts are the caller's. -/
def State.pokes (s : State) (pa : Nat) (bs : List Byte) : State := (s.setBytes pa bs).wakeMem pa bs.length

/-- An agent's write of bytes to physical memory (R359, R369). -/
def State.poke (s : State) (agent : Option (Nat × Nat)) (pa : Nat) (bs : List Byte) : State :=
  (s.conflict agent pa bs.length true).pokes pa bs

/-! ## Scratchpad bytes of a core (R260) -/

/-- The byte a lane, scalar or copy read delivers (R407). -/
def Core.scratchByte (c : Core) (a : Nat) : Byte :=
  if c.scratchErr.contains (a / 8) then 0xFF else Table.get 0 c.scratch a

/-- The number in n bytes of the scratchpad. -/
def Core.scratchN (c : Core) : Nat → Nat → Nat
  | _, 0 => 0
  | a, n + 1 => (c.scratchByte a).toNat + 256 * c.scratchN (a + 1) n

/-- Writes bytes of the scratchpad; a word written whole loses its error mark. -/
def Core.scratchWrite (c : Core) (a : Nat) : List Byte → Core
  | [] => c
  | b :: bs =>
    let c1 := { c with scratch := Table.set 0 c.scratch a b }
    let c2 := if a % 8 = 0 && 8 ≤ bs.length + 1 then { c1 with scratchErr := c1.scratchErr.filter (fun w => w != a / 8) } else c1
    c2.scratchWrite (a + 1) bs

/-- An agent's write of scratchpad bytes (R261, R369). -/
def State.spoke (s : State) (agent : Option (Nat × Nat)) (core a : Nat) (bs : List Byte) : State :=
  (s.sconflict agent core a bs.length true).updCore core (fun c => c.scratchWrite a bs)

/-! ## The baton and the claim queue as exits and saves leave them (R84, R307) -/

/-- The baton passes as .ANY: the head of the queue becomes holder, or the baton is free (R306). -/
def State.passAny (s : State) (core : Nat) : State :=
  let c := s.core core
  match c.batonQ with
  | [] => s.setCore core { c with baton := none }
  | (gid, gang) :: q =>
    let s1 := s.setCore core { c with baton := some (gid, gang), batonQ := q }
    { s1 with groups := s1.groups.map (fun g =>
        if g.gid = gid then
          { g with gangs := g.gangs.map (fun h =>
              if h.id = gang then
                ({ h with awaitBaton := false } : Gang).outside (fun (f : Fragment) => f.wait == Wait.baton) (fun f => f.advance 1) none none
              else h) }
        else g) }

/-- A gang leaves its core: the baton and the queues forget it (R307). -/
def State.leaveBaton (s : State) (core gid gang : Nat) : State :=
  let s1 := s.updCore core (fun c => { c with batonQ := c.batonQ.filter (fun q => q != (gid, gang)) })
  if (s1.core core).baton = some (gid, gang) then s1.passAny core else s1

/-- A group leaves its core: claims, baton, scratchpad and tile holders, and, unless it exits, its macro-operations (R79, R88, R304, R307). -/
def State.releaseCore (s : State) (g : Group) (keepMacros : Bool) : State :=
  let s1 := g.gangs.foldl (fun t h => t.leaveBaton g.core g.gid h.id) s
  s1.updCore g.core (fun c =>
    { c with
      claims := c.claims.filter (fun q => q.1 != g.gid),
      deadlock := c.deadlock.filter (fun q => q.1 != g.gid),
      macros := if keepMacros then c.macros else c.macros.filter (fun m => m.gid != g.gid),
      scratchHolder := (List.range g.kernel.scrg).foldl (fun t i => Table.set 0 t (g.window / 4096 + i) (g.frame + 1)) c.scratchHolder,
      accHolder := g.tiles.foldl (fun t i => Table.set 0 t i (g.frame + 1)) c.accHolder })

/-! ## Meters, promises, units that load an image (R56 to R59, R435) -/

/-- A unit kind is out of service (R431). -/
def State.unitOut (s : State) (kind : Nat) : Bool := s.dev.unitbad.getLsbD kind

/-- Whether a unit does not run: it is loading a new image, or its kind is out of service; its kind, and stack · 64 + its index on the stack
(R431, R433, R435). -/
def State.loads (s : State) (kind arg : Nat) : Bool := s.unitOut kind || s.loading.any fun x => x.1 == kind && x.2.1 == arg

/-- ARG of a couch engine or traversal unit, of which a stack has twelve, by its package index (R4, R433). -/
def unitArg (i : Nat) : Nat := 64 * (i / 12) + i % 12

/-- A change of one tile of a frame in flight. -/
def State.updTile (s : State) (t : TileRef) (upd : Tile → Tile) : State :=
  { s with frames := s.frames.map (fun f =>
      if f.slot = t.slot then { f with passes := f.passes.modify t.pass (fun p => { p with tiles := p.tiles.modify t.tile upd }) }
      else f) }

/-- Core time that a group has been resident in the current quantum, ns (R56, R59). -/
def State.quantumTime (s : State) (g : Group) : Nat := s.nstime - max (g.since / 1000) (s.nstime / 50000 * 50000)

/-- A group that leaves its core is charged to its tile's meter and to its pass's reservation of the quantum (R58, R59). -/
def State.charge (s : State) (g : Group) : State :=
  { s.updTile g.tref (fun t => { t with meter := t.meter + (s.time - g.since) / 1000 }) with
    groups := s.groups.map fun x => if x.gid = g.gid then { x with meter := x.meter + (s.time - g.since) / 1000 } else x,
    reserved := s.reserved.map fun r =>
      if r.frame = g.frame && r.pass = g.tref.pass && r.stack = g.core / 96 && r.quantum = s.nstime / 50000 then
        { r with spent := r.spent + s.quantumTime g }
      else r }

/-- A change of the frame in a slot. -/
def State.updFrame (s : State) (slot : Nat) (f : Frame → Frame) : State :=
  { s with frames := s.frames.map fun x => if x.slot = slot then f x else x }

/-- The passes that edges lead to from a pass or from passes found already, in one sweep through the passes in rising order. -/
def Frame.sweep (f : Frame) (pass : Nat) (found : List Nat) : List Nat :=
  (List.range f.passes.length).foldl (fun ds p =>
    if !ds.contains p && f.edges.any fun e => e.cons == p && (e.prod == pass || ds.contains e.prod) then ds ++ [p] else ds) found

/-- Sweeps until one finds nothing more; fuel counts sweeps. -/
def Frame.sweeps (f : Frame) (pass : Nat) : Nat → List Nat → List Nat
  | 0, ds => ds
  | n + 1, ds => if (f.sweep pass ds).length = ds.length then ds else f.sweeps pass n (f.sweep pass ds)

/-- The passes that descend from a pass through edges (R55, R57). Of a frame that was admitted one sweep finds them, for PROD is less than
CONS; a graph that breaks that rule may need more (R24). -/
def Frame.descendants (f : Frame) (pass : Nat) : List Nat := f.sweeps pass f.passes.length []

/-- A promise lapses through a tile of a pass, and those of its descendants with it (R57). -/
def State.lapse (s : State) (slot pass : Nat) : State :=
  s.updFrame slot fun f =>
    let ds := f.descendants pass
    { f with passes := ((List.range f.passes.length).zip f.passes).map fun ip =>
        if ip.1 = pass then { ip.2 with lapsedOwn := ip.2.lapsedOwn || ip.2.promised }
        else if ds.contains ip.1 then { ip.2 with lapsed := ip.2.lapsed || ip.2.promised }
        else ip.2 }

/-! ## Taking an exception (R384 to R390) -/

/-- Bits [31:0] of TRAPCAUSE (R384). -/
def Cause.toNat (c : Cause) : Nat :=
  c.detail.toNat + c.cause.toNat * 2 ^ 16 + c.route.toNat * 2 ^ 24 + c.dbl.toNat * 2 ^ 25

/-- A fault record of 64 bytes (R392). -/
def faultRecord (g : Group) (h : Gang) (gh unit time : Nat) : List Byte :=
  toBytes 64 (
    1 + h.akind * 2 ^ 48 + unit * 2 ^ 52 + g.core * 2 ^ 56 + g.groupId * 2 ^ 71 + h.id * 2 ^ 80 + g.tref.slot * 2 ^ 85
    + g.tref.pass * 2 ^ 88 + g.tilex * 2 ^ 98 + g.tiley * 2 ^ 110 + h.trapcause.toNat * 2 ^ 128 + gh * 2 ^ 160
    + time * 2 ^ 192 + h.fltmask.toNat * 2 ^ 256 + byteAddr h.trappc * 2 ^ 320 + h.faddr.toNat * 2 ^ 384
    + g.ftag.toNat * 2 ^ 448)

/-- The serial number of the frame in a slot. -/
def State.frameSerial (s : State) (slot : Nat) : Nat := ((s.frames.find? (fun f => f.slot == slot)).map (fun f => f.serial)).getD 0

/-- A handle for a group, tile or copy that waits for the owner: not zero, of 32 bits, and unique among those not yet resumed; the next
one in turn (R390). -/
def State.newHandle (s : State) : Nat :=
  ((List.range (s.handles.length + 1)).map (fun i => (s.handleCount + i) % (2 ^ 32 - 1) + 1)).find?
    (fun gh => !(s.handles.any fun x => x.gh == gh)) |>.getD 1

/-- The fault record of a failed copy that no gang can meet: a copy-pass tile's, or an exited gang's (R290, R392, R441). A copy-pass tile has no core
and no group, and CORE and GROUP are 0 (DESIGN CHOICE, log 122). -/
def State.copyRecord (s : State) (c : Copy) (gh status addr akind : Nat) : List Byte :=
  let fr := s.frames.find? (fun f => f.slot == c.tref.slot)
  let gx := ((fr.bind fun f => f.passes[c.tref.pass]?).map fun p => p.rcd.gx).getD 0
  let g := if c.tpl.isSome then none else s.groups.find? (fun g => g.gid == c.gid)
  toBytes 64 (
    1 + akind * 2 ^ 48 + (if c.tpl.isSome then 2 else 3) * 2 ^ 52 + ((g.map fun g => g.core).getD 0) * 2 ^ 56
    + ((g.map fun g => g.groupId).getD 0) * 2 ^ 71 + (if c.tpl.isSome then 0 else c.gang) * 2 ^ 80 + c.tref.slot * 2 ^ 85
    + c.tref.pass * 2 ^ 88 + (c.tref.tile % gx) * 2 ^ 98 + (c.tref.tile / gx) * 2 ^ 110
    + (status + 0x08 * 2 ^ 16 + 2 ^ 24) * 2 ^ 128 + gh * 2 ^ 160 + (s.time / 1000) * 2 ^ 192
    + addr % 2 ^ 56 * 2 ^ 384 + ((fr.map fun f => f.ftag.toNat).getD 0) * 2 ^ 448)

/-- A failed copy whose gang has exited, or of a copy-pass tile, takes the owner route with a handle of its own (R290, R441). -/
def State.orphanFault (s : State) (c : Copy) : State :=
  match c.state, c.handle, c.orphan with
  | .failed status addr akind, none, true =>
    let gh := s.newHandle
    { s.lapse c.tref.slot c.tref.pass with
      handleCount := gh,
      handles := s.handles ++ [⟨gh, if c.tpl.isSome then 2 else 3, c.tref, c.id, false⟩],
      copies := s.copies.map (fun x => if x.id = c.id then { x with handle := some gh } else x),
      fq := { s.fq with waiting := s.fq.waiting ++ [s.copyRecord c gh status addr akind] } }
  | _, _, _ => s

/-- A tile with the summaries of some of its groups (R406, R409). -/
def Tile.summed (x : Tile) (gs : List Group) : Tile :=
  gs.foldl (fun (a : Tile) (g : Group) =>
    { a with satf := g.gangs.foldl (fun b h => b ||| h.satf) a.satf, errsum := a.errsum ||| g.errsum }) x

/-- The contributions of some groups that a vat's ordered entries hold are dropped: they have no further effect (R275, R362, R393). Log 106. -/
def Vat.without (v : Vat) (gone : Nat → Bool) : Vat :=
  { v with ordered := v.ordered.map fun e => { e with held := e.held.filter fun x => !gone x.2.gid } }

/-- A record-pass tile is killed: its groups, queues, buffers, rays and launches are discarded, and it waits to run again (R348, R393).
The summaries of its groups that have exited stay in the tile's (R406, R413). -/
def State.killRecTile (s : State) (t : TileRef) : State :=
  let mine := s.groups.filter (fun g => g.tref == t)
  let s0 := mine.foldl (fun u g => if g.place = .resident then (u.releaseCore g false).charge g else u) s
  let s2 := s0.updTile t (fun x => x.summed (mine.filter (fun g => g.place == .exited)))
  let s1 := State.freeLaunches { s2 with groups := s2.groups.filter (fun g => g.tref != t) } (fun e => e.tref == t)
  { s1 with
    handles := s1.handles.filter (fun x => !(x.unit == 3 && x.tref == t)),
    copies := s1.copies.filter (fun c => c.tref != t),
    bankQ := s1.bankQ.filter (fun b => !(mine.any (fun g => g.gid == b.gid))),
    vat0 := s1.vat0.without fun gid => mine.any fun g => g.gid == gid,
    vat1 := s1.vat1.without fun gid => mine.any fun g => g.gid == gid,
    rays := s1.rays.filter (fun r =>
      (match r.node with | some (u, _, _) => u != t | none => true) &&
      (match r.lane with | some (gid, _) => !(mine.any (fun g => g.gid == gid)) | none => true)),
    recTiles := s1.recTiles.map (fun r =>
      if r.tref = t then
        { r with queues := [], emits := [], triangles := [], arrivals := 0, blended := [], loaded := [], stats := [0, 0, 0, 0, 0, 0, 0, 0],
                 launched := [], killed := true }
      else r) }

/-- A trap by the owner route: the gang stops at TRAPPC and a save of its group becomes pending; a record-pass tile is killed; the promise lapses
(R57, R390). -/
def State.ownerRoute (s : State) (g : Group) (h : Gang) : State :=
  let h1 := { h with stop := some .ownerTrap, trapped := true, faultTime := s.nstime }
  let g1 := { g.setGang h1 with
    savePending := match g.savePending with | some p => some p | none => some (s.time, .ownerTrap) }
  let s0 := (s.setGroup g1).lapse g.tref.slot g.tref.pass
  if !(s.recTiles.any fun r => r.tref == g.tref) then s0
  else
    let gh := s.newHandle
    let s1 := s0.killRecTile g.tref
    { s1 with handleCount := gh, handles := s1.handles ++ [⟨gh, 1, g.tref, 0, h.trapcause.cause == 0x2C⟩],
              fq := { s1.fq with waiting := s1.fq.waiting ++ [faultRecord g1 h1 gh 1 s.nstime] } }

/-- What a trap is: cause, detail, lanes, whether its own route is the owner's, faulting address and access kind (R385, R392). -/
structure Trap where
  cause : Nat
  detail : Nat
  lanes : BitVec 64
  owner : Bool
  addr : Nat
  akind : Nat
  deriving DecidableEq, Repr

/-- An in-gang trap of R385. -/
def Trap.inGang (cause detail : Nat) (lanes : BitVec 64) : Trap := ⟨cause, detail, lanes, false, 0, 7⟩

/-- TAKING AN EXCEPTION: what the manual describes in R387, R389 and R390, for the trap of a fragment at a word whose TRAPPC is given. -/
def State.takeTrap (s : State) (g : Group) (h : Gang) (f : Fragment) (trappc : BitVec 54) (t : Trap) : State :=
  let nested := h.handler.isSome
  let byOwner := t.owner || nested || g.kernel.hndlr == 0
  let h1 := { h with
    trappc := trappc,
    trapEntry := f.entry,
    trapcause := ⟨nested, byOwner, BitVec.ofNat 8 t.cause, BitVec.ofNat 16 t.detail⟩,
    fltmask := t.lanes,
    faddr := BitVec.ofNat 56 t.addr,
    akind := t.akind }
  if byOwner then s.ownerRoute g (h1.setFrag { f with pc := trappc, wait := .none, state := .runnable, tested := false })
  else
    let f1 := f.jump (BitVec.ofNat 54 (g.kernel.hndlr.toNat / 4))
    let others := (h.frags.filter (fun x => x.entry != f.entry)).map (fun x => x.entry)
    s.setGroup (g.setGang { h1.setFrag f1 with handler := some (f.entry, others) })

/-- A trap of the issuing fragment at its own word; inside a window it waits for the window to close and is tested again (R118, R386).
The word has not issued then. -/
def State.trap (s : State) (c : Ctx) (t : Trap) : Out :=
  if c.h.window.isSome then .next (s.put c.g c.h (c.f.hold .window))
  else .next (s.takeTrap c.g c.h c.f c.f.pc t)

/-- THE RETURN FROM AN EXCEPTION: handler mode ends at the first BRX or RET of a fragment not held, after the word's effect (R388). -/
def Gang.endHandler (h : Gang) (entry : Nat) : Gang :=
  match h.handler with
  | some (_, held) => if held.contains entry then h else { h with handler := none }
  | none => h

/-- Whether an access may not issue now because serial mode orders it after an unperformed one (R370). -/
def Gang.serialBlocked (h : Gang) : Bool := h.serial.isSome && h.accessPending

/-- A word that does not issue inside a window, nor in serial mode before the access before it has performed (R148, R372). -/
def deferred (s : State) (k : Ctx → Out) : Out :=
  withCur s fun c =>
    if c.h.window.isSome then .next (s.put c.g c.h (c.f.hold .window))
    else if c.h.serialBlocked then .next (s.put c.g c.h (c.f.hold .access))
    else k c

/-- A word that does not issue inside a window, and whose accesses come after every earlier access of the gang: it issues once they
have performed (R359, R361, R365, R372). -/
def irrevocable (s : State) (k : Ctx → Out) : Out :=
  deferred s fun c => if c.h.accessPending then .next (s.put c.g c.h (c.f.hold .access)) else k c

/-- The saturation test of a park point, a WAIT or an RTOK: TARM set, SATF not zero, and no handler mode (R143, R150, R388). -/
def Ctx.saturated (c : Ctx) : Bool :=
  c.f.fmtf.getLsbD 19 && c.h.satf != 0 && c.h.handler.isNone

/-- The saturation trap (R385 cause 0x04). -/
def Ctx.satTrap (c : Ctx) : Trap := Trap.inGang 0x04 c.h.satf.toNat (c.h.enabled c.f)

/-- A park point or WAIT: the saturation test, made once, then the word (R150). -/
def parkPoint (s : State) (k : Ctx → Out) : Out :=
  withCur s fun c => if !c.f.tested && c.saturated then s.trap c c.satTrap else k c

end Sys2Proof.Machine
end

