-- ==== Sys2Proof/Machine/Fragments.lean ====
section
/-! DEFINITION. Fragments: divergent branches, reconvergence, fusion, lane exit, and what follows when a gang or a group has exited (R78, R80, R84, R138 to R142, R163, R388). -/

namespace Sys2Proof.Machine

open Sys2Proof.Bits

/-- A gang whose program has waited until a count is 0 or low enough, by the set field that counts there: VTRACEs counted there that have
finished are no longer outstanding for a save (R397, log 93). -/
def Gang.waited (h : Gang) (set : Nat) : Gang :=
  if set = 0 then h else { h with traced := h.traced.filter fun x => x.2.1 != set || h.ops.any fun o => o.id == x.1 }

/-- The quads of a set, rising. -/
def quadList (qs : BitVec 16) : List Nat := onesBelow 16 qs.toNat

/-- A set of quads. -/
def quadSet (l : List Nat) : BitVec 16 := BitVec.ofNat 16 (maskOf l)

/-- Split-table entries of a core in use (R135): those of fragments, and those that the checkpoint of an open window would restore.
Log 75. -/
def State.entriesUsed (s : State) (core : Nat) : List Nat :=
  ((s.residents core).flatMap (fun g => g.gangs.flatMap (fun h =>
    h.frags.map (fun f => f.entry) ++ (match h.window with | some w => w.check.frags.map (fun f => f.entry) | none => [])))).eraseDups

/-- The lowest free split-table entry, if any of the 128 is free (R135). -/
def State.freeEntry (s : State) (core : Nat) : Option Nat :=
  (List.range 128).find? (fun e => !((s.entriesUsed core).contains e))

/-- defer of R138: lanes of a quad wait as PEND of token k. -/
def Gang.defer (h : Gang) (f : Fragment) (q : Nat) (k : Tok) (addr : BitVec 54) (lanes : BitVec 4) : Gang :=
  let st := h.stack q
  match topTok st k with
  | some e =>
    if e.pend = 0 then h.setStack q (mapTop k (fun x => { x with pend := lanes, addr := addr, fmts := f.fmtf }) st)
    else h.setStack q (⟨k, addr, lanes, 0, f.fmtf⟩ :: st)
  | none => h.setStack q (⟨k, addr, lanes, 0, f.fmtf⟩ :: st)

/-- Whether defer would push (R138). -/
def Gang.needsPush (h : Gang) (q : Nat) (k : Tok) : Bool :=
  match topTok (h.stack q) k with
  | some e => e.pend != 0
  | none => true

/-- What a divergent branch does (R138): the gang afterwards, or the lanes of the quads that would overflow their stacks. -/
def Gang.brv (h : Gang) (f : Fragment) (free : Option Nat) (k : Tok) (pred : Word) (target : BitVec 54) : Except (BitVec 64) Gang :=
  let fall := f.pc + 1
  let lanes := h.enabled f
  let qs := quadList f.qset
  let tk := fun q => quadBits lanes q &&& quadBits pred q
  let nt := fun q => quadBits lanes q &&& ~~~(quadBits pred q)
  let inT := fun q => nt q == 0 || tk q != 0
  let tq := qs.filter inT
  let fq := qs.filter (fun q => !inT q)
  let split := !tq.isEmpty && !fq.isEmpty && free.isSome
  let dq := tq.filter (fun q => tk q != 0 && nt q != 0) ++ (if !tq.isEmpty && !split then fq else [])
  let past := dq.filter (fun q => h.needsPush q k && 16 ≤ (h.stack q).length)
  if !past.isEmpty then .error (h.lmask &&& lanesOfQuads (quadSet past))
  else
    let j := h.join k
    let h1 := h.setJoin k (if j.isOpen then { j with expect := j.expect ||| f.qset } else ⟨true, f.qset, f.fmtf⟩)
    let h2 := dq.foldl (fun g q => g.defer f q k fall (nt q)) h1
    let gone := dq.foldl (fun m q => m ||| quadLanes q (nt q)) (0 : BitVec 64)
    let kept := f.fmask &&& ~~~gone
    let dest := if tq.isEmpty then fall else target
    match split, free with
    | true, some e =>
      let fl := lanesOfQuads (quadSet fq)
      let f1 := { f.jump dest with qset := f.qset &&& ~~~(quadSet fq), fmask := kept &&& ~~~fl }
      let g1 := { f.jump fall with entry := e, qset := quadSet fq, fmask := kept &&& fl, readyAt := none }
      .ok { h2.setFrag f1 with frags := (h2.setFrag f1).frags ++ [g1] }
    | _, _ => .ok (h2.setFrag { f.jump dest with fmask := kept })

/-- What RTOK does, at a time (R139). -/
def Gang.rtok (h : Gang) (f : Fragment) (k : Tok) (time : Nat) : Gang :=
  let qs := (quadList f.qset).filter (fun q => hasTok (h.stack q) k)
  let lanes := h.enabled f
  let h1 := qs.foldl (fun g q => g.setStack q (mapTop k (fun e => { e with arr := e.arr ||| quadBits lanes q }) (g.stack q))) h
  let masked := f.fmask &&& ~~~(lanesOfQuads (quadSet qs))
  let entryOf := fun q => (topTok (h1.stack q) k).getD ⟨k, 0, 0, 0, 0⟩
  let rs := qs.filter (fun q => (entryOf q).pend != 0)
  match rs with
  | r :: more =>
    let a := more.foldl (fun m q => if (entryOf q).addr.ult m then (entryOf q).addr else m) (entryOf r).addr
    let go := rs.filter (fun q => (entryOf q).addr == a)
    let mask := go.foldl (fun m q => m ||| quadLanes q (entryOf q).pend) masked
    let fm := match go with | q :: _ => (entryOf q).fmts | [] => f.fmtf
    let h2 := go.foldl (fun g q => g.setStack q (mapTop k (fun e => { e with pend := 0 }) (g.stack q))) h1
    h2.setFrag { f.jump a with fmask := mask, fmtf := fm }
  | [] =>
    let mask := qs.foldl (fun m q => m ||| quadLanes q (entryOf q).arr) masked
    let h2 := qs.foldl (fun g q => g.setStack q (dropTop k (g.stack q))) h1
    if (h2.join k).isOpen then
      (h2.setFrag { f with fmask := mask, state := .fuseWait, ftok := k, wait := .none, parkedAt := time }).fusionCheck k
    else h2.setFrag { f.advance 1 with fmask := mask }

/-- Lanes that leave with `x`: helper lanes go when every other lane of their quad has gone (R80). A quad that has helper lanes alone from the start
goes with the next lane that exits (DESIGN CHOICE, log 119). -/
def Gang.withHelpers (h : Gang) (x : BitVec 64) : BitVec 64 :=
  let left := h.lmask &&& ~~~x
  let qs := (List.range 16).filter (fun q => quadBits (left &&& ~~~h.helper) q == 0)
  x ||| (left &&& lanesOfQuads (quadSet qs))

/-- Lanes exit (R142): masks, token entries, quads, fragments, fusion. -/
def Gang.exitLanes (h : Gang) (x0 : BitVec 64) : Gang :=
  let x := h.withHelpers x0
  let lm := h.lmask &&& ~~~x
  let goneQ := ~~~(quadsOf lm)
  let h1 := (List.range 16).foldl (fun g q =>
    if goneQ.getLsbD q then g.setStack q []
    else g.setStack q ((g.stack q).map (fun e =>
      { e with pend := e.pend &&& ~~~(quadBits x q), arr := e.arr &&& ~~~(quadBits x q) }))) { h with lmask := lm }
  let frags := (h1.frags.map (fun f => { f with fmask := f.fmask &&& ~~~x, qset := f.qset &&& ~~~goneQ })).filter
    (fun f => f.qset != 0)
  ({ h1 with frags := frags }.fusionAll).handlerCheck

/-- Quads present at a gang's start (R76). -/
def Gang.presentQuads (h : Gang) : Nat := popcount 16 (quadsOf h.present).toNat

/-- Bytes of the gang allocation (R81). -/
def Gang.alloc (h : Gang) : Nat := 4 * h.presentQuads * h.vcount * 8

/-- Bytes of a group's allocations that gangs still hold (R81). -/
def Group.alloc (g : Group) : Nat := (g.gangs.filter (fun h => !h.exited)).foldl (fun a h => a + h.alloc) 0

/-- Bytes of the core free pool (R81). -/
def State.freePool (s : State) (core : Nat) : Nat :=
  regionKiB (s.core core).scr * 1024 - (s.residents core).foldl (fun a g => a + g.alloc + g.spare) 0

/-- Index into the divergence table, and the tag, of an ENTRY (R77). -/
def historyIndex (entry : Nat) : Nat := (field 9 2 entry) ^^^ (field 17 10 entry)
def historyTag (entry : Nat) : Nat := field 55 18 entry

/-- The history update of a group that exits (R78). The ratio is kept as a number, also where it reaches 256 because every lane slot was
masked, which the 8 bits of L cannot hold: log 76. -/
def State.historyUpdate (s : State) (g : Group) : State :=
  let issued := g.gangs.foldl (fun a h => a + h.issued) 0
  let masked := g.gangs.foldl (fun a h => a + h.masked) 0
  if issued = 0 then s
  else
    let new := 256 * masked / issued
    let e := g.kernel.entry.toNat
    let key := 256 * (g.core / 96) + historyIndex e
    let l := match Table.get none s.history key with
      | some (tag, l) => if tag = historyTag e then (3 * l + new) / 4 else new
      | none => new
    { s with history := Table.set none s.history key (some (historyTag e, l)) }

/-- A group whose every gang has exited leaves its core: pools, baton and queues, meter, summaries, history (R58, R84, R406). -/
def State.groupExit (s : State) (g : Group) : State :=
  let s1 := s.releaseCore g true
  let s2 := s1.charge g
  (match s2.group? g.gid with
    | some g1 => s2.setGroup { g1 with place := .exited, spare := 0, savePending := none }
    | none => s2).historyUpdate g

/-- Puts a gang back after lanes have exited: a gang with no lane left gives its allocation to the spare pool and passes the
baton, and a group with no gang left exits (R84, R163, R307). -/
def State.afterExit (s : State) (g : Group) (h : Gang) : State :=
  if !h.exited then s.setGroup (g.setGang h)
  else
    let h1 := { h with frags := [], tokens := [], joins := [], claim := none, handler := none,
                       stop := if g.savePending.isSome then some .exited else none }
    let g1 := { g.setGang h1 with spare := g.spare + h.alloc }
    let s1 := (s.setGroup g1).leaveBaton g.core g.gid h.id
    let s3 : State := { s1 with copies := s1.copies.map (fun (c : Copy) =>
      if c.gid = g.gid && c.gang = h.id then { c with orphan := true } else c) }
    let s2 := s3.copies.foldl (fun (t : State) (c : Copy) => if c.gid = g.gid && c.gang = h.id then t.orphanFault c else t) s3
    if g1.gangs.all (fun x => x.exited) then s2.groupExit g1 else s2

end Sys2Proof.Machine
end

