-- ==== Sys2Proof/Machine/Flow.lean ====
section
/-! DEFINITION. Branches, divergence, exit, waits, software traps and the trade of registers (R138 to R143, R159 to R165, R171 to R174, R82, R83). -/

namespace Sys2Proof.Machine

open Sys2Proof.Bits

/-- The target of a branch word with a signed word offset (R94). -/
def Fragment.target {n : Nat} (f : Fragment) (off : BitVec n) : BitVec 54 := f.pc + off.signExtend 54

/-- Bits [55:2] of a register (R159). -/
def regTarget (x : Word) : BitVec 54 := BitVec.ofNat 54 (x.toNat / 4)

/-- NOP (R159). -/
def execNop (s : State) : Out := scalarWord s [] 1 id

/-- BRA (R159). -/
def execBra (off : BitVec 21) (s : State) : Out := branchWord s [] id fun _ f => f.target off

/-- BRC (R159). -/
def execBrc (neg : Bool) (k : CBit) (off : BitVec 21) (s : State) : Out :=
  branchWord s [] id fun h f => if h.readC k != neg then f.target off else f.pc + 1

/-- CALL: the return address goes to s63 (R159). -/
def execCall (off : BitVec 21) (s : State) : Out :=
  withCur s fun c =>
    .next (s.put c.g (c.h.writeS 63 (BitVec.ofNat 64 (byteAddr (c.f.pc + 1)))) (c.f.jump (c.f.target off)))

/-- A branch to an address in a register, after which handler mode ends (R159, R388). -/
def branchReg (s : State) (a : SReg) : Out :=
  withCur s fun c =>
    .next (s.put (c.g.orErr (c.h.sourceErr [a])) (c.h.endHandler c.f.entry) (c.f.jump (regTarget (c.h.readS a.val))))

/-- RET (R159). -/
def execRet (s : State) : Out := branchReg s 63

/-- BRX (R159). -/
def execBrx (a : SReg) (s : State) : Out := branchReg s a

/-- LOOP (R160). -/
def execLoop (n : SReg) (off : BitVec 15) (s : State) : Out :=
  withCur s fun c =>
    let new := c.h.readS n.val - 1
    .next (s.put (c.g.orErr (c.h.sourceErr [n])) (c.h.writeS n.val new)
      (c.f.jump (if new != 0 then c.f.target off else c.f.pc + 1)))

/-- REGE, when a word reads an uncorrectable predicate (R407). -/
def Gang.predErr (h : Gang) (p : PReg) : BitVec 9 := if h.badP p.val then REGE else 0

/-- Lanes in which a write to a predicate is pending at a cycle: an F write issued in one of the four cycles before it, or a V write that has
not landed (R146). -/
def Gang.pendingP (h : Gang) (cyc p : Nat) : BitVec 64 :=
  if p = 0 then 0
  else
    (h.fpend.filter fun w => w.due < cyc + 4).foldl (fun m w => w.writes.p.foldl (fun m x => if x.1 = p then m ||| x.2.1 else m) m)
      (h.ops.foldl (fun m o => if o.dests.contains (448 + p) then m ||| o.lanes else m) (0 : BitVec 64))

/-- A word that reads a predicate: under CHK an early read in an enabled lane takes the stall-check trap (R105, R146). -/
def checkedPred (s : State) (p : PReg) (k : Ctx → Out) : Out :=
  withCur s fun c =>
    let early := c.h.pendingP (s.core c.g.core).cycle p.val &&& c.h.enabled c.f
    if c.g.chk && early != 0 then s.trap c (Trap.inGang 0x02 0 early) else k c

/-- BRV (R138, R161). -/
def execBrv (t : Tok) (p : PReg) (neg : Bool) (off : BitVec 16) (s : State) : Out :=
  checkedPred s p fun c =>
    let pred := if neg then ~~~(c.h.readP p.val) else c.h.readP p.val
    match c.h.brv c.f (s.freeEntry c.g.core) t pred (c.f.target off) with
    | .ok h => .next (s.setGroup ((c.g.orErr (c.h.predErr p)).setGang h))
    | .error lanes => s.trap c (Trap.inGang 0x03 0 lanes)

/-- RTOK, after the saturation test (R139, R143, R162). -/
def execRtok (t : Tok) (s : State) : Out :=
  withCur s fun c =>
    if c.saturated then s.trap c c.satTrap
    else .next (s.setGroup (c.g.setGang (c.h.rtok c.f t s.time)))

/-- EXIT (R142, R163). -/
def execExit (p : PReg) (neg : Bool) (s : State) : Out :=
  deferred s fun _ => checkedPred s p fun c =>
    let pred := if neg then ~~~(c.h.readP p.val) else c.h.readP p.val
    let gone := c.h.enabled c.f &&& pred
    let h1 := c.h.setFrag (c.f.advance 1)
    .next (s.afterExit (c.g.orErr (c.h.predErr p)) (h1.exitLanes gone))


/-- WAIT (R150, R164). -/
def execWait (k : Fin 6) (n : BitVec 6) (s : State) : Out :=
  parkPoint s fun c =>
    if c.h.wcount c.f.qset k.val ≤ n.toNat then .next (s.put c.g (c.h.waited (k.val + 1)) (c.f.advance 1))
    else .next (s.put c.g c.h { c.f.hold (.counter k.val n.toNat) with tested := true })

/-- YIELD: the fragment is parked until the next cycle, at the word after it (R165). -/
def execYield (s : State) : Out :=
  parkPoint s fun c =>
    .next (s.put c.g c.h { (c.f.advance 1).park (.cycle ((s.core c.g.core).cycle + 1)) s.time with tested := false })

/-- TRAP: TRAPPC holds the next word (R171). -/
def execTrap (code : BitVec 16) (s : State) : Out :=
  deferred s fun c =>
    .next (s.takeTrap c.g c.h c.f (c.f.pc + 1) (Trap.inGang 0x05 code.toNat (c.h.enabled c.f)))

/-- BKPT (R172). -/
def execBkpt (code : BitVec 16) (s : State) : Out :=
  deferred s fun c =>
    .next (s.takeTrap c.g c.h c.f c.f.pc { Trap.inGang 0x20 code.toNat (c.h.enabled c.f) with owner := true })

/-- ILLEGAL_INSTRUCTION: the trap of an encoding that is no instruction (R116 to R118). -/
def execIllegalInstruction (detail : BitVec 16) (s : State) : Out :=
  withCur s fun c => s.trap c (Trap.inGang 0x01 detail.toNat (c.h.enabled c.f))

/-- The gang with its names from `n` down gone: their contents are lost (R82). -/
def Gang.lower (h : Gang) (n : Nat) : Gang :=
  { h with vcount := h.vcount - n, v := h.v.filter (fun e => e.1 < 64 * (h.vcount - n)),
           verr := h.verr.filter (fun e => e < 64 * (h.vcount - n)) }

/-- Whether the gang's `k` highest v registers are not at rest: a lane instruction of the gang is in E1 to E4, or a variable-latency write
to one of them is outstanding (R173). -/
def Gang.unrested (h : Gang) (k cyc : Nat) : Bool :=
  (h.lastLane != 0 && decide (cyc < h.lastLane + 4)) || h.ops.any (fun o => o.dests.any (fun r => h.vcount - k ≤ r && r < 320))

/-- GIVE (R82, R173): legal n; then it issues once no lane instruction of the gang is in E1 to E4 and no variable-latency
write to the registers given up is outstanding. -/
def execGive (n : BitVec 12) (s : State) : Out :=
  deferred s fun c =>
    let k := n.toNat
    if k % 8 != 0 || k < 8 || c.h.vcount < k + 8 then s.trap c (Trap.inGang 0x01 0x0B (c.h.enabled c.f))
    else
      let cyc := (s.core c.g.core).cycle
      if c.h.unrested k cyc then .next (s.put c.g c.h (c.f.hold .give))
      else
        let bytes := 4 * c.h.presentQuads * k * 8
        .next (s.put { c.g with spare := c.g.spare + bytes } (c.h.lower k) (c.f.advance 1))

/-- Bytes a CLAIM needs (R83). -/
def Gang.claimNeed (h : Gang) (n : Nat) : Nat := 4 * h.presentQuads * n * 8

/-- The gang with `n` more registers, which hold zero (R83). -/
def Gang.raise (h : Gang) (n : Nat) : Gang :=
  { h with vcount := h.vcount + n, v := h.v.filter (fun e => e.1 < 64 * h.vcount), verr := h.verr.filter (fun e => e < 64 * h.vcount) }

/-- A gang's parked launchers, which a CLAIM held, take entries of their stack's store as far as some are free (R174, R176). -/
def State.retryLaunchers (s : State) (h : Gang) (stack : Nat) : State :=
  (h.frags.filter fun f => match f.wait with | .launch _ _ _ _ => true | _ => false).foldl (fun t _ => t.wakeLauncher stack) s

/-- The grant of a claim: the spare pool pays first; the registers granted hold zero; what the claim held goes on (R83, R174). -/
def State.grant (s : State) (g : Group) (h : Gang) (n : Nat) : State :=
  let need := h.claimNeed n
  let h1 : Gang := { h.raise n with frags := h.frags.map (fun (f : Fragment) => if f.wait = Wait.claim n then f.advance 1 else f) }
  (s.setGroup { g.setGang h1.unclaimed with spare := g.spare - min g.spare need }).retryLaunchers h (g.core / 96)


/-- Whether a queued claim is grantable: by the spare pool, or at the head also by the free pool (R83). -/
def State.grantable (s : State) (core : Nat) (head : Bool) (q : Nat × Nat × Nat) : Bool :=
  match s.group? q.1 with
  | none => false
  | some g =>
    match g.gang? q.2.1 with
    | none => false
    | some h => h.claimNeed q.2.2 ≤ g.spare || (head && h.claimNeed q.2.2 ≤ g.spare + s.freePool core)

/-- The first grantable claim of a core's queue, in queue order (R84). -/
def State.firstGrant (s : State) (core : Nat) : Option (Nat × Nat × Nat) :=
  match (s.core core).claims with
  | [] => none
  | q :: qs => if s.grantable core true q then some q else qs.find? (fun x => s.grantable core false x)

/-- The first grantable claim of a core's queue is granted, if there is one (R83, R84). -/
def State.grantFirst (s : State) (core : Nat) : Option State := do
  let q ← s.firstGrant core
  let g ← s.group? q.1
  let h ← g.gang? q.2.1
  return (s.updCore core (fun c => { c with claims := c.claims.filter (fun x => x != q) })).grant g h q.2.2

/-- Every claim of a core's queue that can be granted is, in queue order; fuel counts the queue (R84). -/
def State.grantAll (s : State) (core : Nat) : Nat → State
  | 0 => s
  | n + 1 => match s.grantFirst core with | some t => t.grantAll core n | none => s

/-- CLAIM (R83, R174): a legal claim comes after the exits, the GIVEs and the queued grants of its cycle (R84), is granted at once where it
can be, and else blocks the gang and enters the queue. The words of one cycle run in the order of `Ready.order`. -/
def execClaim (n : BitVec 12) (s : State) : Out :=
  deferred s fun c =>
    let k := n.toNat
    if k % 8 != 0 || k < 8 || 320 < c.h.vcount + k then s.trap c (Trap.inGang 0x01 0x0B (c.h.enabled c.f))
    else
      withCur (s.grantAll c.g.core (s.core c.g.core).claims.length) fun c =>
        let s := s.grantAll c.g.core (s.core c.g.core).claims.length
        let need := c.h.claimNeed k
        let atHead := (s.core c.g.core).claims.isEmpty
        let h1 := c.h.setFrag (c.f.block (.claim k) s.time)
        if need ≤ c.g.spare || (atHead && need ≤ c.g.spare + s.freePool c.g.core) then .next (s.grant c.g h1 k)
        else
          .next ((s.setGroup (c.g.setGang { h1 with claim := some k })).updCore c.g.core
            (fun x => { x with claims := x.claims ++ [(c.g.gid, c.h.id, k)] }))

/-- CLAIM_GRANT (R83, R84). -/
def execClaimGrant (core : Nat) (s : State) : Out :=
  match s.grantFirst core with
  | none => .fault .absent
  | some t => .next t

/-- Whether a gang counts as parked for R87: each fragment parked in PARK, FTAKE, QWAIT or LAUNCH, or in fuse-wait, and one parked. -/
def Gang.parkedForClaims (h : Gang) : Bool :=
  let isParked := fun (f : Fragment) => f.state == .parked &&
    (match f.wait with | .mem _ _ | .obj _ _ | .resend _ _ _ | .bank _ | .launch _ _ _ _ => true | _ => false)
  h.frags.all (fun f => isParked f || f.state == .fuseWait) && h.frags.any isParked

/-- The condition of R87 for a group. -/
def State.claimStuck (s : State) (g : Group) : Bool :=
  let live := g.gangs.filter (fun h => !h.exited)
  let queue := (s.core g.core).claims
  live.all (fun h => h.claim.isSome || h.parkedForClaims) && live.any (fun h => h.claim.isSome)
    && queue.all (fun q => q.1 != g.gid || !(s.grantable g.core (queue.head? == some q) q))

/-- CLAIM_DEADLOCK: every gang of the group blocked in CLAIM takes the trap, precise at the CLAIM (R87). -/
def execClaimDeadlock (core : Nat) (s : State) : Out :=
  match (s.residents core).find? (fun g => (s.core core).deadlock.any (fun d => d.1 == g.gid && 4096 ≤ d.2.1) && s.claimStuck g) with
  | none => .fault .absent
  | some g =>
    let s1 := s.updCore core (fun c =>
      { c with claims := c.claims.filter (fun q => q.1 != g.gid), deadlock := c.deadlock.filter (fun d => d.1 != g.gid) })
    .next ((g.gangs.filter (fun h => h.claim.isSome)).foldl (fun t h =>
      match t.group? g.gid, h.frags.find? (fun f => match f.wait with | .claim _ => true | _ => false) with
      | some g1, some f =>
        (t.takeTrap g1 h.unclaimed { f with wait := .none, state := .runnable } f.pc
          (Trap.inGang 0x06 (h.claim.getD 0) (h.enabled f))).retryLaunchers h (g.core / 96)
      | _, _ => t) s1)

end Sys2Proof.Machine
end

