-- ==== Sys2Proof/Machine/Types.lean ====
section
/-! DEFINITION. The type codes: their numbers, widths and sets (R101, R114, R178 to R180). -/

namespace Sys2Proof

namespace Types

/-- The number of a type code (R101). -/
def code : TyCode → Nat
  | .i8 => 0 | .i16 => 1 | .i32 => 2 | .i64 => 3
  | .n8 => 4 | .n16 => 5 | .n32 => 6 | .n64 => 7
  | .f16 => 8 | .bf16 => 9 | .f32 => 10 | .f64 => 11
  | .e4m3 => 12 | .e5m2 => 13 | .mxf8 => 14 | .mxf6a => 15
  | .mxf6b => 16 | .mxf4 => 17 | .kx4 => 18 | .b64 => 19
  | .fa => 20 | .fb => 21 | .bad k => 22 + k.val

/-- The type code of a number, read modulo 32 (R101). -/
def ofCode (n : Nat) : TyCode :=
  match n % 32 with
  | 0 => .i8 | 1 => .i16 | 2 => .i32 | 3 => .i64
  | 4 => .n8 | 5 => .n16 | 6 => .n32 | 7 => .n64
  | 8 => .f16 | 9 => .bf16 | 10 => .f32 | 11 => .f64
  | 12 => .e4m3 | 13 => .e5m2 | 14 => .mxf8 | 15 => .mxf6a
  | 16 => .mxf6b | 17 => .mxf4 | 18 => .kx4 | 19 => .b64
  | 20 => .fa | 21 => .fb
  | m => .bad (Fin.ofNat 10 (m - 22))

/-- Width of one element in bits (R178 to R181). -/
def width : TyCode → Nat
  | .i8 | .n8 | .e4m3 | .e5m2 | .mxf8 => 8
  | .i16 | .n16 | .f16 | .bf16 => 16
  | .i32 | .n32 | .f32 => 32
  | .i64 | .n64 | .f64 | .b64 => 64
  | .mxf6a | .mxf6b => 6
  | .mxf4 | .kx4 => 4
  | .fa | .fb | .bad _ => 64

/-- Width of the sub-element that holds one element in a register; six-bit elements take a byte (R179). -/
def regWidth : TyCode → Nat
  | .mxf6a | .mxf6b => 8
  | t => width t

/-- Set I of the lane map (R114). -/
def isInt : TyCode → Bool
  | .i8 | .i16 | .i32 | .i64 | .n8 | .n16 | .n32 | .n64 => true
  | _ => false

/-- The i types, which are signed (R178). -/
def isSigned : TyCode → Bool
  | .i8 | .i16 | .i32 | .i64 => true
  | _ => false

/-- Set F of the lane map (R114). -/
def isF : TyCode → Bool
  | .f16 | .bf16 | .f32 | .f64 => true
  | _ => false

/-- Set N of the lane map (R114). -/
def isN : TyCode → Bool
  | .e4m3 | .e5m2 => true
  | _ => false

/-- Set X of the lane map (R114). -/
def isX : TyCode → Bool
  | .mxf8 | .mxf6a | .mxf6b | .mxf4 | .kx4 => true
  | _ => false

/-- Set B of the lane map (R114). -/
def isB (t : TyCode) : Bool := t == .b64

/-- The four-bit block types. -/
def isX4 : TyCode → Bool
  | .mxf4 | .kx4 => true
  | _ => false

/-- Codes 20 and 21 become the type in the A or B slot of FMT (R102, R186). -/
def resolve (fmt : Nat) : TyCode → TyCode
  | .fa => ofCode fmt
  | .fb => ofCode (fmt >>> 5)
  | t => t

/-- The integer type of twice the width and the same signedness (R207). -/
def widen : TyCode → TyCode
  | .i8 => .i16 | .i16 => .i32 | .i32 => .i64
  | .n8 => .n16 | .n16 => .n32 | .n32 => .n64
  | t => t

/-- The A and B type pairs that may meet in a matrix instruction or a VDOT (R195, R222, R318). -/
def pairOk (ta tb : TyCode) : Bool :=
  match ta with
  | .i8 | .n8 => tb == .i8 || tb == .n8
  | .f16 | .bf16 => tb == .f16 || tb == .bf16
  | .e4m3 | .e5m2 => isN tb || isX tb
  | _ => isX ta && (isX tb || isN tb)

end Types

end Sys2Proof
end

