-- ==== Sys2Proof/Machine/Legal.lean ====
section
/-! DEFINITION. Legality of lane instructions: the lane map, the operand kinds, and the detail codes of the illegal-instruction trap (R96 to R116, R204, R264, R310, R336). -/

namespace Sys2Proof.Legal

open Sys2Proof.Types

/-- What an operand field accepts (R204). -/
inductive Kind where
  | none | v | src | p | s | acc | pv | vs | srcp | sk
  deriving DecidableEq, Repr

/-- The result column of the lane map (R114). -/
inductive Res where
  | fixed | variable | dash
  deriving DecidableEq, Repr

/-- What legality depends on beside the word: the issuing fragment's FMT, the gang's VCOUNTg, the pass's ACCS. A missing
entry stands for a value not yet known. -/
structure LEnv where
  fmt : Option Nat
  vcount : Option Nat
  accs : Option Nat
  deriving DecidableEq, Repr

/-- Nothing known of the state: the legality that the word alone decides. -/
def LEnv.none : LEnv := ⟨Option.none, Option.none, Option.none⟩

/-- The opcode of each lane operation (R114). -/
def opcode : LOp → Nat
  | .vadd => 0x01 | .vsub => 0x02 | .vmul => 0x03 | .vmulh => 0x04 | .vmad => 0x05 | .vmadw => 0x06
  | .vabs => 0x07 | .vneg => 0x08 | .vmin => 0x09 | .vmax => 0x0A | .vabsd => 0x0B | .vsad => 0x0C
  | .vand => 0x0D | .vor => 0x0E | .vxor => 0x0F | .vnot => 0x10 | .vshl => 0x11 | .vshr => 0x12
  | .vsra => 0x13 | .vrot => 0x14 | .vbfe => 0x15 | .vbfi => 0x16 | .vpopc => 0x17 | .vclz => 0x18
  | .vctz => 0x19 | .vbrev => 0x1A | .vbswp => 0x1B | .vcmp => 0x1C | .vsel => 0x1D | .vmov => 0x1E
  | .vpack => 0x1F | .vunpk => 0x20 | .vfadd => 0x40 | .vfsub => 0x41 | .vfmul => 0x42 | .vfma => 0x43
  | .vfmin => 0x44 | .vfmax => 0x45 | .vfcmp => 0x46 | .vfclass => 0x47 | .vfrnd => 0x48 | .vfrcp => 0x49
  | .vfrsq => 0x4A | .vfsqrt => 0x4B | .vfdiv => 0x4C | .vfexp2 => 0x4D | .vflog2 => 0x4E | .vfsin => 0x4F
  | .vfcos => 0x50 | .vdot => 0x51 | .vcvt => 0x58 | .vcvtx => 0x59 | .vscale => 0x5A | .vxln => 0x60
  | .vqswz => 0x61 | .vqdx => 0x62 | .vqdy => 0x63 | .vmatch => 0x64 | .vballot => 0x65 | .vvote => 0x66
  | .vscan => 0x67 | .vred => 0x68 | .vbcast => 0x69 | .vld => 0x80 | .vst => 0x81 | .vlds => 0x82
  | .vsts => 0x83 | .vpref => 0x84 | .vatom => 0x85 | .vcas => 0x86 | .vfar => 0x87 | .emit => 0x88
  | .mma => 0xA0 | .mmaS => 0xA1 | .mmaCsr => 0xA2 | .mzero => 0xA3 | .mlda => 0xA4 | .msta => 0xA5
  | .vrcq => 0xC0 | .vtrace => 0xC1 | .vsamp => 0xC2 | .vsampl => 0xC3 | .vcov => 0xC4

/-- F, V or dash (R114). -/
def result (op : LOp) : Res :=
  if opcode op ≤ 0x69 then .fixed else if op = .vpref then .dash else .variable

/-- The types each opcode permits (R114). VBSWP's set i16–n64 is read by width, so that it leaves out n8: log 81. -/
def typeOk (op : LOp) (t : TyCode) : Bool :=
  match op with
  | .vadd | .vsub | .vmul | .vmulh | .vmad | .vabs | .vneg | .vmin | .vmax | .vabsd | .vbfe | .vbfi | .vcmp => isInt t
  | .vmadw => isInt t && width t < 64
  | .vsad => isInt t && width t ≤ 16
  | .vand | .vor | .vxor | .vnot | .vshl | .vshr | .vsra | .vrot | .vpopc | .vclz | .vctz | .vbrev | .vmatch => isInt t || isB t
  | .vbswp => (isInt t && width t ≥ 16) || isB t
  | .vsel | .vmov | .vxln | .vqswz | .vbcast | .vld | .vst | .vlds | .vsts => isInt t || isF t || isN t || isB t
  | .vpack | .vunpk | .vcvt => isInt t || isF t || isN t
  | .vfadd | .vfsub | .vfmul | .vfma | .vfmin | .vfmax | .vfcmp | .vfclass | .vfrnd | .vfrcp | .vfrsq | .vfsqrt | .vfdiv => isF t
  | .vfexp2 | .vflog2 | .vfsin | .vfcos | .vqdx | .vqdy => isF t && width t < 64
  | .vdot | .mma | .mmaS | .mmaCsr => t == .i8 || t == .n8 || t == .f16 || t == .bf16 || isN t || isX t
  | .vcvtx => isN t || isX t
  | .vscale => isX t
  | .vballot | .vvote | .vpref | .emit => isB t
  | .vscan | .vred => isInt t || isF t
  | .vatom | .vcas => (isInt t && width t ≥ 32) || t == .f32 || isB t
  | .vfar => (isInt t && width t ≥ 32) || t == .f32 || t == .f64
  | .mzero | .vtrace => t == .f32
  | .mlda | .msta => t == .f32 || t == .f16 || t == .bf16 || t == .i32 || isN t || isX t
  | .vrcq => t == .f16
  | .vsamp | .vsampl | .vcov => t == .f16 || t == .f32

/-- The minimum class for types of at most 32 bits and for 64-bit types (R104, R114). -/
def minClass (op : LOp) (t : TyCode) : Nat :=
  let w64 := width t = 64
  match op with
  | .vadd | .vsub | .vabs | .vneg | .vmin | .vmax | .vabsd | .vbfe | .vbfi | .vcmp => if w64 then 2 else 0
  | .vmul | .vmad | .vfadd | .vfsub | .vfmul | .vfma | .vfmin | .vfmax | .vfcmp | .vfclass | .vfrnd | .vcvt => if w64 then 2 else 1
  | .vmulh => if w64 then 3 else 1
  | .vmadw | .vfexp2 | .vflog2 | .vfsin | .vfcos | .vdot | .vcvtx | .vscale => 2
  | .vsad | .vqdx | .vqdy => 1
  | .vfrcp | .vfrsq => if w64 then 3 else 2
  | .vfsqrt | .vfdiv => 3
  | .vscan | .vred => if isF t then (if w64 then 2 else 1) else if w64 then 2 else 0
  | _ => 0

/-- Operand kinds of d, a, b, c (R204, R264, R310, R336); they depend on the modifiers of VATOM, VFAR, VRCQ, VBCAST and on the type of VCVTX. -/
def kinds (op : LOp) (f : Lane) (t : Option TyCode) : Kind × Kind × Kind × Kind :=
  match op with
  | .vadd | .vsub | .vmul | .vmulh | .vmin | .vmax | .vabsd | .vand | .vor | .vxor | .vshl | .vshr | .vsra | .vrot
  | .vpack | .vunpk | .vfadd | .vfsub | .vfmul | .vfmin | .vfmax | .vfdiv => (.v, .src, .src, .none)
  | .vmad | .vmadw | .vsad | .vbfe | .vbfi | .vfma => (.v, .src, .src, .src)
  | .vabs | .vneg | .vnot | .vpopc | .vclz | .vctz | .vbrev | .vbswp | .vmov | .vfclass | .vfrnd | .vfrcp | .vfrsq | .vfsqrt
  | .vfexp2 | .vflog2 | .vfsin | .vfcos | .vcvt | .vqswz | .vqdx | .vqdy | .vmatch | .vscan | .vld | .vlds => (.v, .src, .none, .none)
  | .vcmp | .vfcmp => (.pv, .src, .src, .none)
  | .vsel => (.v, .src, .src, .srcp)
  | .vdot => (.v, .v, .v, .src)
  | .vcvtx => (.v, if (t.map isX).getD false then .v else .src, .none, .none)
  | .vscale => (.v, .v, .none, .none)
  | .vxln => (.v, .src, .src, .p)
  | .vballot => (.vs, .p, .none, .none)
  | .vvote => (.p, .p, .none, .none)
  | .vred => (.vs, .src, .none, .none)
  | .vbcast => (.v, .src, if f.mod.getLsbD 0 then .none else .sk, .none)
  | .vst | .vsts => (.none, .src, .src, .none)
  | .vpref => (.none, .src, .none, .none)
  | .vatom => (if f.x24.getLsbD 20 then .none else .v, .src, .src, .none)
  | .vcas => (.v, .src, .src, .src)
  | .vfar =>
    let m := f.mod.toNat
    (if m = 3 then .p else .none, .src, .src, if m = 3 || m = 4 || (8 ≤ m && m ≤ 10) then .src else .none)
  | .emit => (.none, .none, .v, .none)
  | .mma => (.acc, .v, .v, .none)
  | .mmaS | .mmaCsr => (.acc, .s, .s, .none)
  | .mzero => (.acc, .none, .none, .none)
  | .mlda => (.acc, .vs, .none, .none)
  | .msta => (.vs, .acc, .none, .none)
  | .vrcq => (.v, .v, if f.mod.getLsbD 0 then .v else .none, .p)
  | .vtrace => (.v, .v, .none, .none)
  | .vsamp => (.v, .v, .s, .none)
  | .vsampl => (.v, .v, .s, .src)
  | .vcov => (.v, .none, .none, .none)

/-- The assigned bits of mod (R204, R264, R310, R336). -/
def modMask : LOp → Nat
  | .vadd | .vsub | .vmul | .vmad | .vabs | .vneg | .vmov | .vpack | .vunpk | .vfmin | .vfmax | .vcvtx | .vqdx | .vqdy
  | .vbcast | .vpref | .vrcq | .vsamp | .vsampl | .vcov => 1
  | .vmadw | .vfma | .vxln | .vvote | .vld | .vst | .vlds | .vsts | .mma | .mmaS | .mmaCsr | .msta => 3
  | .vcmp | .vfcmp | .vscan | .vatom | .vfar => 15
  | .vfrnd | .vred => 7
  | .mlda => 2
  | _ => 0

/-- The assigned bits of x24 (R204, R264, R280, R310, R336). -/
def x24Mask (op : LOp) (f : Lane) : Nat :=
  match op with
  | .vmov => 0xF0F
  | .vdot => 0xFFF00
  | .vcvt => 0xFF
  | .vcvtx => 0xFFFFF
  | .vscale => 0xE001F
  | .vxln => 0xFFF
  | .vqswz => 0xFF
  | .vld | .vst | .vlds | .vsts | .vpref | .vcas | .vfar => 0xFFFFF
  | .vatom => 0x1FFFFF
  | .emit => 0x3F
  | .mma => if f.mod.getLsbD 1 then 0x3F001F else 0x1F
  | .mmaS | .mmaCsr => if f.mod.getLsbD 1 then 0x3F01FF else 0x1FF
  | .mlda | .msta => 0xFF3F
  | .vrcq => if f.mod.getLsbD 0 then 0xF3 else 0x3
  | _ => 0

/-- Whether a field of a kind accepts an operand (R97, R204). -/
def accepts : Kind → Operand → Bool
  | .none, _ => true
  | _, .bad _ => false
  | .v, .v _ => true
  | .src, .v _ | .src, .const _ | .src, .s _ | .src, .laneId | .src, .quadId | .src, .glane | .src, .helper => true
  | .p, .p _ => true
  | .s, .s _ => true
  | .acc, .acc _ => true
  | .pv, .p _ | .pv, .v _ => true
  | .vs, .v _ | .vs, .s _ => true
  | .srcp, .p _ => true
  | .srcp, .v _ | .srcp, .const _ | .srcp, .s _ | .srcp, .laneId | .srcp, .quadId | .srcp, .glane | .srcp, .helper => true
  | .sk, .s _ | .sk, .const _ => true
  | _, _ => false

/-- Whether an inline constant is legal in a type (R100); `k` is the code less 320. -/
def constOk (t : TyCode) (k : Nat) : Bool :=
  if isF t then true
  else if isInt t || isB t then
    if k ≤ 23 || (61 ≤ k && k ≤ 63) then true
    else if 32 ≤ k && k ≤ 39 then
      let w := width t
      decide (2 ^ (k - 28) < 2 ^ (if isSigned t then w - 1 else w))
    else false
  else false

/-- The type in which a constant of each field is read, where it is not the instruction's own; for a in VCVT and VCVTX, the source type:
log 79 (R207, R208, R222, R224, R225, R228, R235, R264, R275, R356). -/
def constTypes (op : LOp) (f : Lane) (t : TyCode) (fmt : Option Nat) : Option TyCode × Option TyCode × Option TyCode :=
  let wideTy : Option TyCode :=
    match ofCode (f.x24.toNat) with
    | .fa => fmt.map (fun x => resolve x .fa)
    | .fb => fmt.map (fun x => resolve x .fb)
    | u => some u
  match op with
  | .vmadw => (some t, some t, some (widen t))
  | .vsad => (some t, some t, some .n32)
  | .vdot => (some t, some t, some (if isInt t then .i32 else .f32))
  | .vcvt => (wideTy, some t, some t)
  | .vcvtx => (if f.mod.getLsbD 0 then some t else wideTy, some t, some t)
  | .vxln => (some t, some .i32, some t)
  | .vbcast => (some t, some .n64, some t)
  | .vld | .vst | .vlds | .vsts | .vpref | .vatom | .vcas => (some .n64, some t, some t)
  | .vfar => (some .n64, some t, if 8 ≤ f.mod.toNat then some .n64 else some t)
  | .vsampl => (some t, some t, some .f32)
  | _ => (some t, some t, some t)

/-- The resolved type of a code, where known (R102). -/
def known (fmt : Option Nat) (t : TyCode) : Option TyCode :=
  match t with
  | .fa => fmt.map (fun x => resolve x .fa)
  | .fb => fmt.map (fun x => resolve x .fb)
  | u => some u

/-- The B type of VDOT and of the matrix instructions (R222, R318). -/
def bType (f : Lane) (t : TyCode) (fmt : Option Nat) : Option TyCode :=
  if f.ty = .fa then fmt.map (fun x => ofCode (x >>> 5)) else some t

/-- mod and x24 values assigned for no type (R116 detail 0x02). -/
def reservedValue (op : LOp) (f : Lane) : Bool :=
  let m := f.mod.toNat
  let x := f.x24.toNat
  let dIsV := match f.d with | .v _ => true | _ => false
  match op with
  | .vld | .vst | .vlds | .vsts => m % 4 == 3
  | .vmov => if m % 2 == 1 then x.testBit 3 || x.testBit 11 else x != 0
  | .vcmp => m % 8 ≥ 6 || (m ≥ 8 && dIsV)
  | .vfcmp => m ≥ 8 && dIsV
  | .vscan | .vred => m % 8 ≥ 6
  | .vfrnd => m ≥ 6
  | .vvote => m == 3
  | .vatom => m ≥ 10
  | .vfar => (5 ≤ m && m ≤ 7) || m ≥ 11
  | .mlda | .msta => (x >>> 3) % 8 + x % 8 + 1 > 8 || ((x >>> 8) % 256 != 0 && !m.testBit 1)
  | .vdot => (x >>> 17) % 8 == 7
  | .vcvtx => 4 ≤ (x >>> 5) % 8
  | _ => false

/-- The scale register of VDOT and VCVTX: x24[16:8] as an operand code (R222, R225). -/
def scaleCode (f : Lane) : Nat := (f.x24.toNat >>> 8) % 512

/-- Whether a scale register code is a v register, or also an s register. -/
def scaleOk (f : Lane) (sAllowed : Bool) : Bool :=
  let c := scaleCode f
  c < 320 || (sAllowed && 384 ≤ c && c ≤ 447)

/-- An operand field by its number: d, a, b, c. -/
def operandAt (f : Lane) : Nat → Operand
  | 0 => f.d
  | 1 => f.a
  | 2 => f.b
  | _ => f.c

/-- The part field must be below max(Es, Ed) / min(Es, Ed) (R224, R225). -/
def partBad (ts td : TyCode) (p : Nat) : Bool :=
  let ws := width ts
  let wd := width td
  p ≥ (max ws wd) / (min ws wd)

/-- Registers per operand group of a block instruction (R222, R226). -/
def blockRegs (t : TyCode) : Nat := if isX4 t then 2 else 4

/-- Type-dependent reasons of one opcode (R204 to R234, R264, R271, R310): details 0x03 and 0x04, for a known type. A part, an element number
or a scale field that some types assign and these do not is a type reason (R116): log 78. -/
def typeReasons (op : LOp) (f : Lane) (t : TyCode) (fmt : Option Nat) : List Nat :=
  let m := f.mod.toNat
  let x := f.x24.toNat
  let e := 64 / width t
  match op with
  | .vld | .vlds => if m % 4 == 1 && width t = 64 then [3] else []
  | .vst | .vsts =>
    (if m % 4 == 1 && width t = 64 then [3] else []) ++
    (if m % 4 == 2 && !accepts .v f.b then [4] else [])
  | .vmov =>
    if m % 2 == 1 then
      (if e = 1 || (e ≤ x % 16 && x % 16 < 8) || (e ≤ (x >>> 8) % 16 && (x >>> 8) % 16 < 8) then [3] else [])
    else []
  | .vscan | .vred => if 3 ≤ m % 8 && m % 8 < 6 && isF t then [3] else []
  | .vatom => if t == .f32 && (m = 5 || m = 6 || m = 7 || m = 9) then [3] else []
  | .vcvt =>
    match known fmt (ofCode x) with
    | none => []
    | some ts =>
      if isInt ts || isF ts || isN ts then (if partBad ts t ((x >>> 5) % 8) then [3] else []) else [3]
  | .vcvtx =>
    match known fmt (ofCode x) with
    | none => []
    | some tw =>
      (if isX t && (x >>> 5) % 8 != 0 then [3] else []) ++
      (if tw == .f16 || tw == .bf16 || (tw == .f32 && !isX t) then
        (if scaleOk f (!isX t || m % 2 == 1) then [] else [4]) ++
        (if !isX t && partBad tw t ((x >>> 5) % 8) then [3] else [])
      else [3])
  | .vscale =>
    match known fmt (ofCode x) with
    | none => []
    | some tw => if tw == .f16 || tw == .bf16 then [] else [3]
  | .vdot =>
    match bType f t fmt with
    | none => []
    | some tb =>
      (if isX t || isX tb then (if scaleOk f true then [] else [4]) else if x != 0 then [3] else []) ++
      (if pairOk t tb then [] else [3])
  | .mma | .mmaS =>
    match bType f t fmt with
    | none => []
    | some tb => if pairOk t tb then [] else [3]
  | .mmaCsr =>
    match bType f t fmt with
    | none => []
    | some tb => if pairOk t tb && !isX tb then [] else [3]
  | .mlda => if m.testBit 1 && (t == .i32 || isX t) then [3] else []
  | .msta => (if m.testBit 1 && (t == .i32 || isX t) then [3] else []) ++ (if m.testBit 0 && t == .i32 then [3] else [])
  | _ => []

/-- Consecutive v registers a lane instruction names beyond its single operands: the number of the field and the count (R222, R226, R265,
R280, R355). -/
def groups (op : LOp) (f : Lane) (t : TyCode) (fmt : Option Nat) : List (Nat × Nat) :=
  let m := f.mod.toNat
  match op with
  | .vld | .vlds => if m % 4 == 2 then [(0, 2)] else []
  | .vst | .vsts => if m % 4 == 2 then [(2, 2)] else []
  | .vcvtx =>
    if isX t then
      if m % 2 == 1 then [(1, blockRegs t), (0, 8)] else [(1, 8), (0, blockRegs t)]
    else []
  | .vscale => [(1, 8)]
  | .vdot =>
    match bType f t fmt with
    | none => []
    | some tb => if isX t || isX tb then [(1, blockRegs t), (2, blockRegs tb)] else []
  | .emit => [(2, 2 * ((f.x24.toNat >>> 4) % 4) + 2)]
  | .vtrace => [(0, 4), (1, 6)]
  | .vsamp | .vsampl => if t == .f32 then [(0, 2)] else []
  | _ => []

/-- A v register, or a group of n of them, lies below VCOUNTg (R97, R116 detail 0x05). -/
def vBelow (vcount : Option Nat) (o : Operand) (n : Nat) : Bool :=
  match o with
  | .v r => r.val + n ≤ vcount.getD 320
  | _ => true

/-- The reasons why a lane instruction is illegal, as detail codes (R116). -/
def reasons (op : LOp) (f : Lane) (env : LEnv) : List Nat :=
  let t := known env.fmt f.ty
  let tOk := match t with | some u => typeOk op u | none => true
  let ks := kinds op f t
  let fields := [(ks.1, f.d), (ks.2.1, f.a), (ks.2.2.1, f.b), (ks.2.2.2, f.c)]
  let isMat := 0xA0 ≤ opcode op && opcode op ≤ 0xA5
  let cts := match t with | some u => constTypes op f u env.fmt | none => (none, none, none)
  let consts := [(ks.2.1, f.a, cts.1), (ks.2.2.1, f.b, cts.2.1), (ks.2.2.2, f.c, cts.2.2)]
  (if fields.any (fun p => p.1 == .none && p.2 != .v 0) then [2] else []) ++
  (if f.mod.toNat &&& (15 - modMask op) != 0 then [2] else []) ++
  (if f.x24.toNat &&& (0xFFFFFF - x24Mask op f) != 0 then [2] else []) ++
  (if reservedValue op f then [2] else []) ++
  (if isMat then (if f.pg != 0 || f.pn then [2] else []) else if f.pg == 0 && f.pn then [7] else []) ++
  (if tOk then [] else [3]) ++
  (if fields.all (fun p => accepts p.1 p.2) then [] else [4]) ++
  (if consts.any (fun p =>
      match p.1, p.2.1, p.2.2 with
      | .none, _, _ => false
      | _, .const k, some u => tOk && !constOk u k.val
      | _, _, _ => false) then [4] else []) ++
  (match t with
   | some u =>
     if typeOk op u then
       typeReasons op f u env.fmt ++
       (if (groups op f u env.fmt).all (fun p => vBelow env.vcount (operandAt f p.1) p.2) then [] else [5]) ++
       (if f.cls.val < minClass op u then [8] else [])
     else []
   | none => []) ++
  (if fields.all (fun p => p.1 == .none || vBelow env.vcount p.2 1) then [] else [5]) ++
  (if (op == .vdot || op == .vcvtx) && scaleCode f < 320 && scaleCode f ≥ env.vcount.getD 320 && x24Mask op f &&& 0x1FF00 != 0
      && (op == .vcvtx || f.x24 != 0) then [5] else []) ++
  (if fields.any (fun p =>
      match p.1, p.2 with
      | .acc, .acc k => decide (env.accs.getD 8 ≤ k.val)
      | .vs, .acc k => decide (env.accs.getD 8 ≤ k.val)
      | _, _ => false) then [6] else []) ++
  (if f.set.val == 7 || f.wo.val == 7 || (f.set.val != 0 && result op != .variable) then [9] else [])

/-- The lowest detail code that applies, if any (R116). -/
def illegal (op : LOp) (f : Lane) (env : LEnv) : Option Nat :=
  match reasons op f env with
  | [] => none
  | r :: rs => some (rs.foldl min r)

end Sys2Proof.Legal
end

