-- ==== Sys2Proof/WellFormed.lean ====
section
/-! DEFINITION. Well-formed instructions: the operand fields a legal word may hold whatever the state (R94 to R116), and the ranges the operands of a device step may take. -/

namespace Sys2Proof

/-- The lane operation and fields of a lane instruction (R96). -/
def Instr.lane? : Instr → Option (LOp × Lane)
  | .vadd f => some (.vadd, f)
  | .vsub f => some (.vsub, f)
  | .vmul f => some (.vmul, f)
  | .vmulh f => some (.vmulh, f)
  | .vmad f => some (.vmad, f)
  | .vmadw f => some (.vmadw, f)
  | .vabs f => some (.vabs, f)
  | .vneg f => some (.vneg, f)
  | .vmin f => some (.vmin, f)
  | .vmax f => some (.vmax, f)
  | .vabsd f => some (.vabsd, f)
  | .vsad f => some (.vsad, f)
  | .vand f => some (.vand, f)
  | .vor f => some (.vor, f)
  | .vxor f => some (.vxor, f)
  | .vnot f => some (.vnot, f)
  | .vshl f => some (.vshl, f)
  | .vshr f => some (.vshr, f)
  | .vsra f => some (.vsra, f)
  | .vrot f => some (.vrot, f)
  | .vbfe f => some (.vbfe, f)
  | .vbfi f => some (.vbfi, f)
  | .vpopc f => some (.vpopc, f)
  | .vclz f => some (.vclz, f)
  | .vctz f => some (.vctz, f)
  | .vbrev f => some (.vbrev, f)
  | .vbswp f => some (.vbswp, f)
  | .vcmp f => some (.vcmp, f)
  | .vsel f => some (.vsel, f)
  | .vmov f => some (.vmov, f)
  | .vpack f => some (.vpack, f)
  | .vunpk f => some (.vunpk, f)
  | .vfadd f => some (.vfadd, f)
  | .vfsub f => some (.vfsub, f)
  | .vfmul f => some (.vfmul, f)
  | .vfma f => some (.vfma, f)
  | .vfmin f => some (.vfmin, f)
  | .vfmax f => some (.vfmax, f)
  | .vfcmp f => some (.vfcmp, f)
  | .vfclass f => some (.vfclass, f)
  | .vfrnd f => some (.vfrnd, f)
  | .vfrcp f => some (.vfrcp, f)
  | .vfrsq f => some (.vfrsq, f)
  | .vfsqrt f => some (.vfsqrt, f)
  | .vfdiv f => some (.vfdiv, f)
  | .vfexp2 f => some (.vfexp2, f)
  | .vflog2 f => some (.vflog2, f)
  | .vfsin f => some (.vfsin, f)
  | .vfcos f => some (.vfcos, f)
  | .vdot f => some (.vdot, f)
  | .vcvt f => some (.vcvt, f)
  | .vcvtx f => some (.vcvtx, f)
  | .vscale f => some (.vscale, f)
  | .vxln f => some (.vxln, f)
  | .vqswz f => some (.vqswz, f)
  | .vqdx f => some (.vqdx, f)
  | .vqdy f => some (.vqdy, f)
  | .vmatch f => some (.vmatch, f)
  | .vballot f => some (.vballot, f)
  | .vvote f => some (.vvote, f)
  | .vscan f => some (.vscan, f)
  | .vred f => some (.vred, f)
  | .vbcast f => some (.vbcast, f)
  | .vld f => some (.vld, f)
  | .vst f => some (.vst, f)
  | .vlds f => some (.vlds, f)
  | .vsts f => some (.vsts, f)
  | .vpref f => some (.vpref, f)
  | .vatom f => some (.vatom, f)
  | .vcas f => some (.vcas, f)
  | .vfar f => some (.vfar, f)
  | .emit f => some (.emit, f)
  | .mma f => some (.mma, f)
  | .mmaS f => some (.mmaS, f)
  | .mmaCsr f => some (.mmaCsr, f)
  | .mzero f => some (.mzero, f)
  | .mlda f => some (.mlda, f)
  | .msta f => some (.msta, f)
  | .vrcq f => some (.vrcq, f)
  | .vtrace f => some (.vtrace, f)
  | .vsamp f => some (.vsamp, f)
  | .vsampl f => some (.vsampl, f)
  | .vcov f => some (.vcov, f)
  | _ => none

/-- The lane instruction of an operation and its fields (R96). -/
def LOp.instr : LOp → Lane → Instr
  | .vadd, f => .vadd f
  | .vsub, f => .vsub f
  | .vmul, f => .vmul f
  | .vmulh, f => .vmulh f
  | .vmad, f => .vmad f
  | .vmadw, f => .vmadw f
  | .vabs, f => .vabs f
  | .vneg, f => .vneg f
  | .vmin, f => .vmin f
  | .vmax, f => .vmax f
  | .vabsd, f => .vabsd f
  | .vsad, f => .vsad f
  | .vand, f => .vand f
  | .vor, f => .vor f
  | .vxor, f => .vxor f
  | .vnot, f => .vnot f
  | .vshl, f => .vshl f
  | .vshr, f => .vshr f
  | .vsra, f => .vsra f
  | .vrot, f => .vrot f
  | .vbfe, f => .vbfe f
  | .vbfi, f => .vbfi f
  | .vpopc, f => .vpopc f
  | .vclz, f => .vclz f
  | .vctz, f => .vctz f
  | .vbrev, f => .vbrev f
  | .vbswp, f => .vbswp f
  | .vcmp, f => .vcmp f
  | .vsel, f => .vsel f
  | .vmov, f => .vmov f
  | .vpack, f => .vpack f
  | .vunpk, f => .vunpk f
  | .vfadd, f => .vfadd f
  | .vfsub, f => .vfsub f
  | .vfmul, f => .vfmul f
  | .vfma, f => .vfma f
  | .vfmin, f => .vfmin f
  | .vfmax, f => .vfmax f
  | .vfcmp, f => .vfcmp f
  | .vfclass, f => .vfclass f
  | .vfrnd, f => .vfrnd f
  | .vfrcp, f => .vfrcp f
  | .vfrsq, f => .vfrsq f
  | .vfsqrt, f => .vfsqrt f
  | .vfdiv, f => .vfdiv f
  | .vfexp2, f => .vfexp2 f
  | .vflog2, f => .vflog2 f
  | .vfsin, f => .vfsin f
  | .vfcos, f => .vfcos f
  | .vdot, f => .vdot f
  | .vcvt, f => .vcvt f
  | .vcvtx, f => .vcvtx f
  | .vscale, f => .vscale f
  | .vxln, f => .vxln f
  | .vqswz, f => .vqswz f
  | .vqdx, f => .vqdx f
  | .vqdy, f => .vqdy f
  | .vmatch, f => .vmatch f
  | .vballot, f => .vballot f
  | .vvote, f => .vvote f
  | .vscan, f => .vscan f
  | .vred, f => .vred f
  | .vbcast, f => .vbcast f
  | .vld, f => .vld f
  | .vst, f => .vst f
  | .vlds, f => .vlds f
  | .vsts, f => .vsts f
  | .vpref, f => .vpref f
  | .vatom, f => .vatom f
  | .vcas, f => .vcas f
  | .vfar, f => .vfar f
  | .emit, f => .emit f
  | .mma, f => .mma f
  | .mmaS, f => .mmaS f
  | .mmaCsr, f => .mmaCsr f
  | .mzero, f => .mzero f
  | .mlda, f => .mlda f
  | .msta, f => .msta f
  | .vrcq, f => .vrcq f
  | .vtrace, f => .vtrace f
  | .vsamp, f => .vsamp f
  | .vsampl, f => .vsampl f
  | .vcov, f => .vcov f

/-- Special registers that SWR may name: the RW and W1C rows of R109 (R110). -/
def Special.writable : Special → Bool
  | .fmt | .satf | .trappc | .errsum => true
  | _ => false

namespace WellFormed

/-- Package core indexes 0 to 191 (R66). -/
def coreOk (core : Nat) : Bool := core < 192

/-- Package indexes of couch engines, 12 a stack, and their channels (R4, R288). -/
def channelOk (engine ch : Nat) : Bool := engine < 24 && ch < 16

/-- A frame slot of the eight (R54). -/
def slotOk (slot : Nat) : Bool := slot < 8

/-- An array that exists (R68, R262). -/
def arrayOk : GatedArray → Bool
  | .vatBank _ _ _ => true
  | .l1Way core _ => coreOk core
  | .scratch core range => coreOk core && range < 256

/-- A fragment's entry in the split table of 128 (R135). -/
def entryOk (entry : Nat) : Bool := entry < 128

/-- A scalar word or a device step whose fields keep their ranges; lane instructions are left to Legal (R110, R113). -/
def plainOk : Instr → Bool
  | .swr n _ => n.writable
  | .brv _ p neg _ => !(p == 0 && neg)
  | .exit p neg => !(p == 0 && neg)
  | .illegalInstruction d => 1 ≤ d.toNat && d.toNat ≤ 0x0B
  | .recarveDone core | .claimGrant core | .claimDeadlock core | .classPhaseChange core | .macroOpStart core
  | .macroOpComplete core | .busRetrain core | .busRetrainEnd core | .eviction core => coreOk core
  | .slotPayloadReceive core sends => coreOk core && 1 ≤ sends && sends ≤ 5
  | .recalibration core _ _ _ _ => coreOk core
  | .copyAccept e ch | .copyRun e ch | .copyComplete e ch => channelOk e ch
  | .parkReread _ gang entry | .waiterResend _ gang entry => gang < 32 && entryOk entry
  | .varResultLand _ gang _ | .windowCommit _ gang | .serialModeEnd _ gang | .heldFaultResolve _ gang => gang < 32
  | .nodeGroupLaunch slot _ _ node | .rasterise slot _ _ node | .blend slot _ _ node => slotOk slot && node < 16
  | .tileOverrun slot _ _ | .tileRetire slot _ _ => slotOk slot
  | .arrayGate arr | .arrayWake arr | .arrayWakeEnd arr => arrayOk arr
  | .registerWrite _ off _ => off < 0x800000
  | .flitReceive flit => flit.length == 256
  | .deviceReset flash => flash.images.length == 5
  | _ => true

end WellFormed

/-- An instruction that keeps every rule the word alone, or the step's operands alone, can break. -/
def Instr.wellFormed (i : Instr) : Bool :=
  match i.lane? with
  | some (op, f) => (Legal.illegal op f Legal.LEnv.none).isNone
  | none => WellFormed.plainOk i

end Sys2Proof
end

