-- ==== Sys2Proof/Decode.lean ====
section
/-! DEFINITION. Decoding of code words, the encoder, and the word that a row of the opcode table stands for (R89 to R116). -/

namespace Sys2Proof

/-- Why a word is no legal instruction: a scalar word or an unassigned opcode with its detail code, a lane instruction that
the word alone makes illegal (its meaning reports the detail, since types in FMT may matter), or too few bytes. -/
inductive Reject where
  | word (detail : Nat)
  | lane (i : Instr)
  | short
  deriving DecidableEq, Repr

namespace Decode

open Sys2Proof.Bits

/-- A field read as a register number. -/
def sreg (hi lo w : Nat) : SReg := Fin.ofNat 64 (field hi lo w)

/-- The c bit of a two-bit field. -/
def cbit (x : Nat) : CBit := Fin.ofNat 4 x

/-- The conditions of SCMP by code (R152). -/
def scond (x : Nat) : SCond :=
  match x % 8 with
  | 0 => .eq | 1 => .ne | 2 => .lt | 3 => .le | 4 => .ltn | 5 => .len | 6 => .bit | _ => .nbit

/-- The code of a condition (R152). -/
def scondCode : SCond → Nat
  | .eq => 0 | .ne => 1 | .lt => 2 | .le => 3 | .ltn => 4 | .len => 5 | .bit => 6 | .nbit => 7

/-- The special register of a number (R109). -/
def special (n : Nat) : Option Special :=
  match n with
  | 0x001 => some .gangid | 0x002 => some .groupid | 0x003 => some .tilex | 0x004 => some .tiley
  | 0x005 => some .passid | 0x006 => some .gangw | 0x007 => some .lmask | 0x008 => some .helper
  | 0x009 => some .fmt | 0x00A => some .satf | 0x00B => some .fltmask | 0x00C => some .trappc
  | 0x00D => some .trapcause | 0x00E => some .errsum | 0x00F => some .ckrb | 0x010 => some .cycles
  | 0x011 => some (.clscyc 0) | 0x012 => some (.clscyc 1) | 0x013 => some (.clscyc 2) | 0x014 => some (.clscyc 3)
  | 0x015 => some .nstime | 0x016 => some .batch | 0x017 => some .budget | 0x018 => some .vcnt
  | _ => none

/-- The number of a special register (R109). -/
def specialCode : Special → Nat
  | .gangid => 0x001 | .groupid => 0x002 | .tilex => 0x003 | .tiley => 0x004
  | .passid => 0x005 | .gangw => 0x006 | .lmask => 0x007 | .helper => 0x008
  | .fmt => 0x009 | .satf => 0x00A | .fltmask => 0x00B | .trappc => 0x00C
  | .trapcause => 0x00D | .errsum => 0x00E | .ckrb => 0x00F | .cycles => 0x010
  | .clscyc k => 0x011 + k.val
  | .nstime => 0x015 | .batch => 0x016 | .budget => 0x017 | .vcnt => 0x018

/-- The instruction, when the fields its row leaves unused are zero; else detail 0x02 (R94, R116). -/
def need (zero : Bool) (i : Instr) : Except Nat Instr := if zero then .ok i else .error 2

/-- The SA map (R111). -/
def decodeSA (w : Nat) : Except Nat Instr :=
  let d := sreg 23 18 w
  let a := sreg 17 12 w
  let b := sreg 11 6 w
  let sd := field 23 18 w
  let sa := field 17 12 w
  let sb := field 11 6 w
  let fn := field 5 0 w
  match field 29 24 w with
  | 0x01 => need (fn == 0) (.sadd d a b)
  | 0x02 => need (fn == 0) (.ssub d a b)
  | 0x03 => need (fn == 0) (.smul d a b)
  | 0x04 => need (fn / 2 == 0) (.smulh d a b (fn % 2 == 1))
  | 0x05 => need (fn == 0) (.sand d a b)
  | 0x06 => need (fn == 0) (.sor d a b)
  | 0x07 => need (fn == 0) (.sxor d a b)
  | 0x08 => need (fn == 0) (.sshl d a b)
  | 0x09 => need (fn == 0) (.sshr d a b)
  | 0x0A => need (fn == 0) (.ssra d a b)
  | 0x0B => need (fn == 0) (.smin d a b)
  | 0x0C => need (fn == 0) (.smax d a b)
  | 0x0D => need (fn == 0) (.sminn d a b)
  | 0x0E => need (fn == 0) (.smaxn d a b)
  | 0x0F => need (sd / 4 % 2 == 0 && fn == 0) (.scmp (scond (sd / 8)) (cbit (sd % 4)) a b)
  | 0x10 => need (fn / 4 == 0) (.ssel d a b (cbit (fn % 4)))
  | 0x11 => need (sb == 0 && fn == 0) (.smov d a)
  | 0x12 => need (sb == 0 && fn == 0) (.spopc d a)
  | 0x13 => need (sb == 0 && fn == 0) (.sclz d a)
  | 0x14 => need (sd == 0 && sb == 0 && fn == 0) (.fmtset a)
  | 0x15 => need (sa == 0 && sb == 0 && fn == 0) (.fmtget d)
  | 0x16 => need (sd == 0 && sb == 0 && fn == 0) (.brx a)
  | 0x17 => need (sd == 0 && fn / 4 == 0) (.park a b (fn / 2 == 1) (fn % 2 == 1))
  | 0x18 => need (sd == 0 && fn / 4 % 8 == 0) (.launch a b (fn / 32 == 1) (cbit (fn % 4)))
  | 0x19 => need (sd == 0 && sa == 0 && sb == 0 && fn == 0) .batonTake
  | 0x1A =>
    if fn = 1 then need (sd == 0 && sa == 0 && sb == 0) .batonPassAny
    else need (sd == 0 && sa == 0 && fn == 0) (.batonPass b)
  | 0x1B => need (sd == 0 && fn == 0) (.lease a b)
  | 0x1C => need (sd == 0 && sb == 0 && fn == 0) (.unlease a)
  | 0x20 => need (sd == 0 && sb == 0 && fn == 0) (.finit a)
  | 0x21 => need (sd == 0 && fn == 0) (.ffill a b)
  | 0x22 => need (sb == 0 && fn == 0) (.ftake d a)
  | 0x23 => need (sb == 0 && fn / 4 == 0) (.fpeek d a (cbit (fn % 4)))
  | 0x24 => need (sd == 0 && fn == 0) (.qinit a b)
  | 0x25 => need (sd == 0 && sb == 0 && fn == 0) (.qarr a)
  | 0x26 => need (sd == 0 && fn == 0) (.qbyt a b)
  | 0x27 => need (sd == 0 && fn == 0) (.qwait a b)
  | _ => .error 1

/-- The SI map (R112); the second word is SLIW's literal. -/
def decodeSI (w lit : Nat) : Except Nat Instr :=
  let d := sreg 23 18 w
  let a := sreg 17 12 w
  let sd := field 23 18 w
  let sa := field 17 12 w
  let im := field 11 0 w
  let i := BitVec.ofNat 12 im
  let lo := BitVec.ofNat 6 im
  let hi := BitVec.ofNat 6 (im / 64)
  match field 29 24 w with
  | 0x01 => .ok (.saddImm d a i)
  | 0x02 => .ok (.ssubImm d a i)
  | 0x03 => .ok (.smulImm d a i)
  | 0x05 => .ok (.sandImm d a i)
  | 0x06 => .ok (.sorImm d a i)
  | 0x07 => .ok (.sxorImm d a i)
  | 0x08 => need (im / 64 == 0) (.sshlImm d a lo)
  | 0x09 => need (im / 64 == 0) (.sshrImm d a lo)
  | 0x0A => need (im / 64 == 0) (.ssraImm d a lo)
  | 0x0B => .ok (.sminImm d a i)
  | 0x0C => .ok (.smaxImm d a i)
  | 0x0D => .ok (.sminnImm d a i)
  | 0x0E => .ok (.smaxnImm d a i)
  | 0x0F => need (sd / 4 % 2 == 0) (.scmpImm (scond (sd / 8)) (cbit (sd % 4)) a i)
  | 0x10 => need (sa == 0) (.sli d i)
  | 0x11 => .ok (.slih d a i)
  | 0x12 => need (im == 0) (.sliw d a (BitVec.ofNat 32 lit))
  | 0x13 => .ok (.sbfe d a hi lo)
  | 0x14 => .ok (.sbfi d a hi lo)
  | 0x15 => .ok (.sld d a i)
  | 0x16 => .ok (.sst d a i)
  | 0x17 => .ok (.slds d a i)
  | 0x18 => .ok (.ssts d a i)
  | 0x19 =>
    if sa = 0 then
      match special im with
      | some n => .ok (.srd d n)
      | none => .error 0x0A
    else .error 2
  | 0x1A =>
    if sd = 0 then
      match special im with
      | some n => if n.writable then .ok (.swr n a) else .error 0x0A
      | none => .error 0x0A
    else .error 2
  | 0x1B => need (sd == 0 && sa == 0) (.give i)
  | 0x1C => need (sd == 0 && sa == 0) (.claim i)
  | _ => .error 1

/-- The SC map (R113). -/
def decodeSC (w : Nat) : Except Nat Instr :=
  let ct := field 24 21 w
  let im := field 20 0 w
  let off := BitVec.ofNat 21 im
  let tok : Tok := Fin.ofNat 16 ct
  let p : PReg := Fin.ofNat 16 (im / 2 ^ 17)
  let neg := im / 2 ^ 16 % 2 == 1
  match field 29 25 w with
  | 0x00 => need (ct == 0 && im == 0) .nop
  | 0x01 => need (ct == 0) (.bra off)
  | 0x02 => need (ct / 4 % 2 == 0) (.brc (ct / 8 == 1) (cbit (ct % 4)) off)
  | 0x03 => if p == 0 && neg then .error 7 else .ok (.brv tok p neg (BitVec.ofNat 16 im))
  | 0x04 => need (im == 0) (.rtok tok)
  | 0x05 => need (ct == 0) (.loop (Fin.ofNat 64 (im / 2 ^ 15)) (BitVec.ofNat 15 im))
  | 0x06 => need (ct == 0) (.call off)
  | 0x07 => need (ct == 0 && im == 0) .ret
  | 0x08 =>
    if ct == 0 && im % 2 ^ 16 == 0 then (if p == 0 && neg then .error 7 else .ok (.exit p neg))
    else .error 2
  | 0x09 =>
    if ct / 8 == 0 && im / 64 == 0 then
      (if h : ct % 8 < 6 then .ok (.wait ⟨ct % 8, h⟩ (BitVec.ofNat 6 im)) else .error 9)
    else .error 2
  | 0x0A => need (ct == 0 && im == 0) .yield
  | 0x0B => need (ct == 0 && im / 16 == 0) (.waitb (Fin.ofNat 16 im))
  | 0x0C => .ok (.yieldB tok off)
  | 0x0D => need (ct == 0 && im == 0) .seal
  | 0x0E => need (ct == 0 && im / 256 == 0) (.hint (BitVec.ofNat 8 im))
  | 0x0F => need (ct == 0 && im / 2 ^ 16 == 0) (.trap (BitVec.ofNat 16 im))
  | 0x10 => need (ct == 0 && im / 2 ^ 16 == 0) (.bkpt (BitVec.ofNat 16 im))
  | _ => .error 1

/-- The lane operation of an opcode (R114); none where R115 calls it unassigned. -/
def lop (n : Nat) : Option LOp :=
  match n with
  | 0x01 => some .vadd
  | 0x02 => some .vsub
  | 0x03 => some .vmul
  | 0x04 => some .vmulh
  | 0x05 => some .vmad
  | 0x06 => some .vmadw
  | 0x07 => some .vabs
  | 0x08 => some .vneg
  | 0x09 => some .vmin
  | 0x0A => some .vmax
  | 0x0B => some .vabsd
  | 0x0C => some .vsad
  | 0x0D => some .vand
  | 0x0E => some .vor
  | 0x0F => some .vxor
  | 0x10 => some .vnot
  | 0x11 => some .vshl
  | 0x12 => some .vshr
  | 0x13 => some .vsra
  | 0x14 => some .vrot
  | 0x15 => some .vbfe
  | 0x16 => some .vbfi
  | 0x17 => some .vpopc
  | 0x18 => some .vclz
  | 0x19 => some .vctz
  | 0x1A => some .vbrev
  | 0x1B => some .vbswp
  | 0x1C => some .vcmp
  | 0x1D => some .vsel
  | 0x1E => some .vmov
  | 0x1F => some .vpack
  | 0x20 => some .vunpk
  | 0x40 => some .vfadd
  | 0x41 => some .vfsub
  | 0x42 => some .vfmul
  | 0x43 => some .vfma
  | 0x44 => some .vfmin
  | 0x45 => some .vfmax
  | 0x46 => some .vfcmp
  | 0x47 => some .vfclass
  | 0x48 => some .vfrnd
  | 0x49 => some .vfrcp
  | 0x4A => some .vfrsq
  | 0x4B => some .vfsqrt
  | 0x4C => some .vfdiv
  | 0x4D => some .vfexp2
  | 0x4E => some .vflog2
  | 0x4F => some .vfsin
  | 0x50 => some .vfcos
  | 0x51 => some .vdot
  | 0x58 => some .vcvt
  | 0x59 => some .vcvtx
  | 0x5A => some .vscale
  | 0x60 => some .vxln
  | 0x61 => some .vqswz
  | 0x62 => some .vqdx
  | 0x63 => some .vqdy
  | 0x64 => some .vmatch
  | 0x65 => some .vballot
  | 0x66 => some .vvote
  | 0x67 => some .vscan
  | 0x68 => some .vred
  | 0x69 => some .vbcast
  | 0x80 => some .vld
  | 0x81 => some .vst
  | 0x82 => some .vlds
  | 0x83 => some .vsts
  | 0x84 => some .vpref
  | 0x85 => some .vatom
  | 0x86 => some .vcas
  | 0x87 => some .vfar
  | 0x88 => some .emit
  | 0xA0 => some .mma
  | 0xA1 => some .mmaS
  | 0xA2 => some .mmaCsr
  | 0xA3 => some .mzero
  | 0xA4 => some .mlda
  | 0xA5 => some .msta
  | 0xC0 => some .vrcq
  | 0xC1 => some .vtrace
  | 0xC2 => some .vsamp
  | 0xC3 => some .vsampl
  | 0xC4 => some .vcov
  | _ => none

/-- A 9-bit operand code (R97). -/
def operand (n : Nat) : Operand :=
  let c := n % 512
  if c < 320 then .v (Fin.ofNat 320 c)
  else if c < 384 then .const (Fin.ofNat 64 (c - 320))
  else if c < 448 then .s (Fin.ofNat 64 (c - 384))
  else if c < 464 then .p (Fin.ofNat 16 (c - 448))
  else if c < 472 then .acc (Fin.ofNat 8 (c - 464))
  else if c = 472 then .laneId
  else if c = 473 then .quadId
  else if c = 474 then .glane
  else if c = 475 then .helper
  else .bad (Fin.ofNat 36 (c - 476))

/-- The code of an operand (R97). -/
def operandCode : Operand → Nat
  | .v n => n.val
  | .const k => 320 + k.val
  | .s n => 384 + n.val
  | .p n => 448 + n.val
  | .acc n => 464 + n.val
  | .laneId => 472
  | .quadId => 473
  | .glane => 474
  | .helper => 475
  | .bad k => 476 + k.val

/-- The fields of a lane instruction read as one number of 96 bits (R96). -/
def laneFields (n : Nat) : Lane where
  d := operand (field 85 77 n)
  a := operand (field 76 68 n)
  b := operand (field 67 59 n)
  c := operand (field 58 50 n)
  pg := Fin.ofNat 16 (field 49 46 n)
  pn := field 45 45 n == 1
  ty := Types.ofCode (field 44 40 n)
  mod := BitVec.ofNat 4 (field 39 36 n)
  cls := Fin.ofNat 4 (field 35 34 n)
  st := Fin.ofNat 16 (field 33 30 n)
  set := Fin.ofNat 8 (field 29 27 n)
  wo := Fin.ofNat 8 (field 26 24 n)
  x24 := BitVec.ofNat 24 (field 23 0 n)

/-- The three kinds of scalar word and the lane instruction (R89). The words beyond the first count only where the instruction has them. -/
def words (w0 w1 w2 : Nat) : Except Reject Instr :=
  let scalar : Except Nat Instr → Except Reject Instr := fun r =>
    match r with
    | .ok i => .ok i
    | .error d => .error (.word d)
  match field 31 30 w0 with
  | 0 => scalar (decodeSA w0)
  | 1 => scalar (decodeSI w0 w1)
  | 2 => scalar (decodeSC w0)
  | _ =>
    let n := w0 * 2 ^ 64 + w1 * 2 ^ 32 + w2
    match lop (field 93 86 n) with
    | none => .error (.word 1)
    | some op =>
      let i := op.instr (laneFields n)
      if i.wellFormed then .ok i else .error (.lane i)

/-- Words an instruction takes, from its first word: 3 for a lane instruction, 2 for SLIW, else 1 (R89). -/
def wordCount (w0 : Nat) : Nat :=
  if field 31 30 w0 = 3 then 3
  else if field 31 24 w0 = 0x52 then 2
  else 1

/-- A 32-bit word of a byte list, little-endian (R10). -/
def wordAt (bs : List Byte) (k : Nat) : Nat := ofBytes ((bs.drop (4 * k)).take 4)

/-- Decoding of any bytes: the instruction at their start and how many bytes it takes, or the name of the rejection. -/
def bytes (bs : List Byte) : Except Reject (Instr × Nat) :=
  if bs.length < 4 then .error .short
  else
    let n := wordCount (wordAt bs 0)
    if bs.length < 4 * n then .error .short
    else
      match words (wordAt bs 0) (wordAt bs 1) (wordAt bs 2) with
      | .ok i => .ok (i, 4 * n)
      | .error r => .error r

/-- An SA word (R93). -/
def sa (op d a b fn : Nat) : List Nat := [op * 2 ^ 24 + d * 2 ^ 18 + a * 2 ^ 12 + b * 2 ^ 6 + fn]

/-- An SI word (R93). -/
def si (op d a i : Nat) : List Nat := [2 ^ 30 + op * 2 ^ 24 + d * 2 ^ 18 + a * 2 ^ 12 + i]

/-- An SC word (R93). -/
def sc (op ct im : Nat) : List Nat := [2 ^ 31 + op * 2 ^ 25 + ct * 2 ^ 21 + im]

/-- A lane instruction as one number of 96 bits (R96). -/
def laneNumber (op : LOp) (f : Lane) : Nat :=
  3 * 2 ^ 94 + Legal.opcode op * 2 ^ 86 + operandCode f.d * 2 ^ 77 + operandCode f.a * 2 ^ 68 + operandCode f.b * 2 ^ 59
    + operandCode f.c * 2 ^ 50 + f.pg.val * 2 ^ 46 + f.pn.toNat * 2 ^ 45 + Types.code f.ty * 2 ^ 40 + f.mod.toNat * 2 ^ 36
    + f.cls.val * 2 ^ 34 + f.st.val * 2 ^ 30 + f.set.val * 2 ^ 27 + f.wo.val * 2 ^ 24 + f.x24.toNat

/-- The words of a lane instruction, bits [95:64] first (R89). -/
def laneWords (op : LOp) (f : Lane) : List Nat :=
  let n := laneNumber op f
  [n / 2 ^ 64, n / 2 ^ 32 % 2 ^ 32, n % 2 ^ 32]

/-- The words of an instruction (R93 to R114); COPY is an SST's word (R287), and a device step has none. -/
def encode (i : Instr) : List Nat :=
  match i.lane? with
  | some (op, f) => laneWords op f
  | none =>
  match i with
  | .sadd d a b => sa 0x01 d.val a.val b.val 0
  | .ssub d a b => sa 0x02 d.val a.val b.val 0
  | .smul d a b => sa 0x03 d.val a.val b.val 0
  | .sand d a b => sa 0x05 d.val a.val b.val 0
  | .sor d a b => sa 0x06 d.val a.val b.val 0
  | .sxor d a b => sa 0x07 d.val a.val b.val 0
  | .sshl d a b => sa 0x08 d.val a.val b.val 0
  | .sshr d a b => sa 0x09 d.val a.val b.val 0
  | .ssra d a b => sa 0x0A d.val a.val b.val 0
  | .smin d a b => sa 0x0B d.val a.val b.val 0
  | .smax d a b => sa 0x0C d.val a.val b.val 0
  | .sminn d a b => sa 0x0D d.val a.val b.val 0
  | .smaxn d a b => sa 0x0E d.val a.val b.val 0
  | .smulh d a b u => sa 0x04 d.val a.val b.val u.toNat
  | .scmp cc k a b => sa 0x0F (scondCode cc * 8 + k.val) a.val b.val 0
  | .ssel d a b k => sa 0x10 d.val a.val b.val k.val
  | .smov d a => sa 0x11 d.val a.val 0 0
  | .spopc d a => sa 0x12 d.val a.val 0 0
  | .sclz d a => sa 0x13 d.val a.val 0 0
  | .fmtset a => sa 0x14 0 a.val 0 0
  | .fmtget d => sa 0x15 d.val 0 0 0
  | .brx a => sa 0x16 0 a.val 0 0
  | .park a b dbl ne => sa 0x17 0 a.val b.val (dbl.toNat * 2 + ne.toNat)
  | .launch a b nw k => sa 0x18 0 a.val b.val (nw.toNat * 32 + k.val)
  | .batonTake => sa 0x19 0 0 0 0
  | .batonPass b => sa 0x1A 0 0 b.val 0
  | .batonPassAny => sa 0x1A 0 0 0 1
  | .lease a b => sa 0x1B 0 a.val b.val 0
  | .unlease a => sa 0x1C 0 a.val 0 0
  | .finit a => sa 0x20 0 a.val 0 0
  | .ffill a b => sa 0x21 0 a.val b.val 0
  | .ftake d a => sa 0x22 d.val a.val 0 0
  | .fpeek d a k => sa 0x23 d.val a.val 0 k.val
  | .qinit a b => sa 0x24 0 a.val b.val 0
  | .qarr a => sa 0x25 0 a.val 0 0
  | .qbyt a b => sa 0x26 0 a.val b.val 0
  | .qwait a b => sa 0x27 0 a.val b.val 0
  | .saddImm d a i => si 0x01 d.val a.val i.toNat
  | .ssubImm d a i => si 0x02 d.val a.val i.toNat
  | .smulImm d a i => si 0x03 d.val a.val i.toNat
  | .sandImm d a i => si 0x05 d.val a.val i.toNat
  | .sorImm d a i => si 0x06 d.val a.val i.toNat
  | .sxorImm d a i => si 0x07 d.val a.val i.toNat
  | .sshlImm d a i => si 0x08 d.val a.val i.toNat
  | .sshrImm d a i => si 0x09 d.val a.val i.toNat
  | .ssraImm d a i => si 0x0A d.val a.val i.toNat
  | .sminImm d a i => si 0x0B d.val a.val i.toNat
  | .smaxImm d a i => si 0x0C d.val a.val i.toNat
  | .sminnImm d a i => si 0x0D d.val a.val i.toNat
  | .smaxnImm d a i => si 0x0E d.val a.val i.toNat
  | .slih d a i => si 0x11 d.val a.val i.toNat
  | .sld d a i => si 0x15 d.val a.val i.toNat
  | .sst d a i => si 0x16 d.val a.val i.toNat
  | .slds d a i => si 0x17 d.val a.val i.toNat
  | .ssts d a i => si 0x18 d.val a.val i.toNat
  | .copy v a ch => si 0x16 v.val a.val (8 * ch.val)
  | .scmpImm cc k a i => si 0x0F (scondCode cc * 8 + k.val) a.val i.toNat
  | .sli d i => si 0x10 d.val 0 i.toNat
  | .sliw d a lit => si 0x12 d.val a.val 0 ++ [lit.toNat]
  | .sbfe d a len pos => si 0x13 d.val a.val (len.toNat * 64 + pos.toNat)
  | .sbfi d a len pos => si 0x14 d.val a.val (len.toNat * 64 + pos.toNat)
  | .srd d n => si 0x19 d.val 0 (specialCode n)
  | .swr n a => si 0x1A 0 a.val (specialCode n)
  | .give n => si 0x1B 0 0 n.toNat
  | .claim n => si 0x1C 0 0 n.toNat
  | .nop => sc 0x00 0 0
  | .bra off => sc 0x01 0 off.toNat
  | .brc neg k off => sc 0x02 (neg.toNat * 8 + k.val) off.toNat
  | .brv t p neg off => sc 0x03 t.val (p.val * 2 ^ 17 + neg.toNat * 2 ^ 16 + off.toNat)
  | .rtok t => sc 0x04 t.val 0
  | .loop n off => sc 0x05 0 (n.val * 2 ^ 15 + off.toNat)
  | .call off => sc 0x06 0 off.toNat
  | .ret => sc 0x07 0 0
  | .exit p neg => sc 0x08 0 (p.val * 2 ^ 17 + neg.toNat * 2 ^ 16)
  | .wait k n => sc 0x09 k.val n.toNat
  | .yield => sc 0x0A 0 0
  | .waitb n => sc 0x0B 0 n.val
  | .yieldB n off => sc 0x0C n.val off.toNat
  | .seal => sc 0x0D 0 0
  | .hint k => sc 0x0E 0 k.toNat
  | .trap code => sc 0x0F 0 code.toNat
  | .bkpt code => sc 0x10 0 code.toNat
  | _ => []

/-- Decoding of a word list, the form in which the encoder answers. -/
def wordList (ws : List Nat) : Except Reject Instr :=
  match ws with
  | [] => .error .short
  | w0 :: _ =>
    if ws.length < wordCount w0 then .error .short
    else words w0 (ws.getD 1 0) (ws.getD 2 0)

/-- The bytes of an instruction as the device stores them: each word little-endian, the first at the lowest address (R10, R89). -/
def encodeBytes (i : Instr) : List Byte := (encode i).flatMap (toBytes 4)

/-- The bytes of a word whose bits are numbered as the opcode table numbers them, up to the longest instruction. -/
def tableBytes (w : Nat) : List Byte := toBytes 12 (w % 2 ^ 96)

end Decode

/-- The instruction the decoder reads from a table word; bits above `nbits` are zero. -/
def decodeTableWord (nbits w : Nat) : Option Instr :=
  match Decode.bytes (Decode.tableBytes (w % 2 ^ nbits)) with
  | .ok (i, _) => some i
  | .error _ => none

end Sys2Proof
end

