-- ==== Sys2Proof/Machine/Flags.lean ====
section
/-! DEFINITION. The computations behind c bits, predicates and FMT: comparison conditions and the bits a format write keeps (R152, R169, R186). -/

namespace Sys2Proof.Machine.Flags

/-- The conditions of SCMP (R152). -/
def compare (cc : SCond) (x y : Word) : Bool :=
  match cc with
  | .eq => x == y
  | .ne => x != y
  | .lt => x.slt y
  | .le => x.sle y
  | .ltn => x.ult y
  | .len => x.ule y
  | .bit => x &&& y != 0
  | .nbit => x &&& y == 0

/-- The bits of a value that FMT keeps: [19:0] (R186). -/
def fmtOf (x : Word) : BitVec 24 := (x &&& 0xFFFFF).setWidth 24

/-- FMT at reset (R186). -/
def fmtReset : BitVec 24 := 0x294A

end Sys2Proof.Machine.Flags
end

