-- ==== Sys2Proof/Machine/Num.lean ====
section
/-! DEFINITION. Number formats and exact arithmetic: decoding, exact values, one rounding, saturation (R178 to R197). -/

namespace Sys2Proof.Num

open Sys2Proof.Types

/-- An exact value: NaN, an infinity, or (-1)^neg * m * 2^e, with a signed zero. -/
inductive Exact where
  | nan
  | inf (neg : Bool)
  | fin (neg : Bool) (m : Nat) (e : Int)
  deriving DecidableEq, Repr

/-- A value before its one rounding: NaN (with the invalid flag of R189), an infinity, or a magnitude in
[m * 2^e, (m + 1) * 2^e), exactly m * 2^e when not sticky. -/
inductive Pre where
  | nan (nv : Bool)
  | inf (neg : Bool)
  | val (neg : Bool) (m : Nat) (e : Int) (sticky : Bool)
  deriving DecidableEq, Repr

/-- A floating layout (R180): exponent bits, mantissa bits, bias, whether it has infinities, whether it has NaN. -/
structure FFmt where
  eb : Nat
  mb : Nat
  bias : Nat
  hasInf : Bool
  hasNan : Bool
  deriving DecidableEq, Repr

/-- The layout of a floating type (R180); mxf8 elements are e4m3. -/
def fmtOf : TyCode → FFmt
  | .f16 => ⟨5, 10, 15, true, true⟩
  | .bf16 => ⟨8, 7, 127, true, true⟩
  | .f32 => ⟨8, 23, 127, true, true⟩
  | .f64 => ⟨11, 52, 1023, true, true⟩
  | .e5m2 => ⟨5, 2, 15, true, true⟩
  | .mxf6a => ⟨2, 3, 1, false, false⟩
  | .mxf6b => ⟨3, 2, 3, false, false⟩
  | .mxf4 => ⟨2, 1, 1, false, false⟩
  | _ => ⟨4, 3, 7, false, true⟩

/-- SATF bits (R191). -/
def IS : Nat := 1
def FS : Nat := 2
def OV : Nat := 4
def NV : Nat := 8

/-- The canonical NaN of a floating type (R100, R183); mxf6 and mxf4 have none. -/
def canonNan : TyCode → Nat
  | .f16 => 0x7E00
  | .bf16 => 0x7FC0
  | .f32 => 0x7FC00000
  | .f64 => 0x7FF8000000000000
  | .e5m2 => 0x7E
  | .e4m3 | .mxf8 => 0x7F
  | _ => 0

/-- The magnitude pattern of the largest finite value (R180). -/
def maxMag (t : TyCode) : Nat :=
  let f := fmtOf t
  if f.hasInf then (2 ^ f.eb - 1) * 2 ^ f.mb - 1
  else if f.hasNan then 2 ^ (f.eb + f.mb) - 2
  else 2 ^ (f.eb + f.mb) - 1

/-- The sign bit of a type. -/
def signBit (t : TyCode) : Nat :=
  let f := fmtOf t
  2 ^ (f.eb + f.mb)

/-- The pattern of an infinity, where the type has one. -/
def infBits (t : TyCode) (neg : Bool) : Nat :=
  let f := fmtOf t
  (2 ^ f.eb - 1) * 2 ^ f.mb + (if neg then signBit t else 0)

/-- Decodes a pattern of a floating type (R180). -/
def decode (t : TyCode) (bits : Nat) : Exact :=
  let f := fmtOf t
  let m := bits % 2 ^ f.mb
  let e := (bits >>> f.mb) % 2 ^ f.eb
  let neg := (bits >>> (f.eb + f.mb)) % 2 == 1
  if f.hasInf && e == 2 ^ f.eb - 1 then
    if m == 0 then .inf neg else .nan
  else if f.hasNan && !f.hasInf && e == 2 ^ f.eb - 1 && m == 2 ^ f.mb - 1 then .nan
  else if e == 0 then .fin neg m (1 - (f.bias : Int) - f.mb)
  else .fin neg (2 ^ f.mb + m) ((e : Int) - f.bias - f.mb)

/-- Whether a pattern is subnormal: exponent field zero and mantissa not zero (R188). -/
def isSub (t : TyCode) (bits : Nat) : Bool :=
  let f := fmtOf t
  (bits >>> f.mb) % 2 ^ f.eb == 0 && bits % 2 ^ f.mb != 0

/-- Reads an operand: f16, bf16, f32 and f64 subnormals become zeros of the same sign under FLUSH (R188). -/
def decodeFl (flush : Bool) (t : TyCode) (bits : Nat) : Exact :=
  if flush && isF t && isSub t bits then .fin ((bits >>> ((fmtOf t).eb + (fmtOf t).mb)) % 2 == 1) 0 0
  else decode t bits

/-- Moves an integer magnitude to a rounding decision: the kept part, whether something was cut, and the comparison of
the cut part with one half (0 below, 1 equal, 2 above). -/
def cut (m sh : Nat) (sticky : Bool) : Nat × Bool × Nat :=
  let n := m >>> sh
  let rem := m % 2 ^ sh
  if sh = 0 then (n, sticky, 0)
  else
    let half := 2 ^ (sh - 1)
    (n, rem != 0 || sticky, if rem < half then 0 else if rem = half && !sticky then 1 else 2)

/-- Whether a cut magnitude is raised by one: rounding modes 0 to 3 of FMT.RM (R186) and 4 for nearest, ties away (R219). -/
def roundsUp (rm : Nat) (neg : Bool) (n : Nat) (inexact : Bool) (cmp : Nat) : Bool :=
  match rm with
  | 0 => cmp == 2 || (cmp == 1 && n % 2 == 1)
  | 1 => false
  | 2 => inexact && !neg
  | 3 => inexact && neg
  | _ => cmp != 0

/-- Rounds a magnitude to an integer under a rounding mode. -/
def roundNat (rm : Nat) (neg : Bool) (m : Nat) (e : Int) (sticky : Bool) : Nat :=
  if 0 ≤ e then m <<< e.toNat
  else
    let sh := (-e).toNat
    let sh' := min sh (Nat.log2 m + 3)
    let r := if sh = sh' then cut m sh sticky else (0, m != 0 || sticky, 0)
    if roundsUp rm neg r.1 r.2.1 r.2.2 then r.1 + 1 else r.1

/-- The control fields of FMT that arithmetic reads (R186). -/
structure Ctl where
  rm : Nat
  sat : Bool
  flush : Bool
  deriving DecidableEq, Repr

/-- The arithmetic fields of an FMT value (R186). -/
def ctlOf (fmt : Nat) : Ctl := ⟨(fmt >>> 15) % 4, fmt.testBit 17, fmt.testBit 18⟩

/-- Round to nearest even, no saturation, no flush. -/
def rne : Ctl := ⟨0, false, false⟩

/-- The overflow column of R190: the pattern and the flags. -/
def overflow (c : Ctl) (t : TyCode) (neg : Bool) : Nat × Nat :=
  let s := if neg then signBit t else 0
  if c.rm == 1 || (c.rm == 2 && neg) || (c.rm == 3 && !neg) || c.sat || !(fmtOf t).hasNan then (maxMag t + s, FS)
  else if (fmtOf t).hasInf then (infBits t neg, OV)
  else (canonNan t, OV)

/-- The fate of an infinite operand or exact infinite result (R190). -/
def infinity (c : Ctl) (t : TyCode) (neg : Bool) : Nat × Nat :=
  let s := if neg then signBit t else 0
  if (fmtOf t).hasInf then (infBits t neg, 0)
  else if (fmtOf t).hasNan && !c.sat then (canonNan t, OV)
  else (maxMag t + s, FS)

/-- Rounds a magnitude into a floating type: the magnitude pattern with an unbounded exponent (R187). -/
def roundMag (t : TyCode) (rm : Nat) (neg : Bool) (m : Nat) (e : Int) (sticky : Bool) : Nat :=
  let f := fmtOf t
  if m = 0 && !sticky then 0
  else
    let qmin : Int := 1 - (f.bias : Int) - f.mb
    let q0 : Int := e + (Nat.log2 m + 1 : Nat) - (f.mb + 1 : Nat)
    let q := if q0 < qmin then qmin else q0
    if q ≤ e then
      -- exact, or a caller that kept enough bits
      let n := m <<< (e - q).toNat
      if n < 2 ^ f.mb then n else (q - qmin).toNat * 2 ^ f.mb + n
    else
      let sh := (q - e).toNat
      let r := if sh > Nat.log2 m + 3 then (0, true, 0) else cut m sh sticky
      let n := if roundsUp rm neg r.1 r.2.1 r.2.2 then r.1 + 1 else r.1
      (q - qmin).toNat * 2 ^ f.mb + n

/-- Rounds once into a floating or narrow type and takes the fate of R190, with the flush of R188; pattern and SATF bits. -/
def roundF (c : Ctl) (t : TyCode) : Pre → Nat × Nat
  | .nan nv => (canonNan t, if nv then NV else 0)
  | .inf neg => infinity c t neg
  | .val neg m e sticky =>
    let mag := roundMag t c.rm neg m e sticky
    if mag > maxMag t then overflow c t neg
    else
      let mag' := if c.flush && isF t && mag < 2 ^ (fmtOf t).mb then 0 else mag
      (mag' + (if neg then signBit t else 0), 0)

/-- An exact value as a value before rounding. -/
def Exact.pre : Exact → Pre
  | .nan => .nan false
  | .inf n => .inf n
  | .fin n m e => .val n m e false

/-- Changes the sign. -/
def Exact.neg : Exact → Exact
  | .nan => .nan
  | .inf n => .inf (!n)
  | .fin n m e => .fin (!n) m e

/-- Scales by a power of two, exactly. -/
def Exact.scale (k : Int) : Exact → Exact
  | .fin n m e => .fin n m (e + k)
  | x => x

/-- A signed dyadic as an exact value; zero takes the sign given. -/
def ofInt (z : Int) (e : Int) (zeroNeg : Bool) : Exact :=
  if z = 0 then .fin zeroNeg 0 0 else .fin (z < 0) z.natAbs e

/-- The signed integer of a magnitude. -/
def signed (neg : Bool) (m : Nat) : Int := if neg then -(m : Int) else m

/-- Exact sum of two dyadics (integer, exponent). -/
def addDy (a b : Int × Int) : Int × Int :=
  if a.2 ≤ b.2 then (a.1 + b.1 * (2 ^ (b.2 - a.2).toNat : Nat), a.2)
  else (a.1 * (2 ^ (a.2 - b.2).toNat : Nat) + b.1, b.2)

/-- Exact product (R189). -/
def mulE : Exact → Exact → Pre
  | .nan, _ => .nan false
  | _, .nan => .nan false
  | .inf n, .inf k => .inf (n != k)
  | .inf n, .fin k m _ => if m = 0 then .nan true else .inf (n != k)
  | .fin k m _, .inf n => if m = 0 then .nan true else .inf (n != k)
  | .fin n m e, .fin k m' e' => .val (n != k) (m * m') (e + e') false

/-- Exact sum of two values not yet rounded (neither sticky), with the zero rule of R215. -/
def addP (rm : Nat) : Pre → Pre → Pre
  | .nan a, .nan b => .nan (a || b)
  | .nan a, _ => .nan a
  | _, .nan b => .nan b
  | .inf a, .inf b => if a = b then .inf a else .nan true
  | .inf a, .val .. => .inf a
  | .val .., .inf b => .inf b
  | .val a m e _, .val b m' e' _ =>
    let s := addDy (signed a m, e) (signed b m', e')
    if s.1 = 0 then .val (if m = 0 && m' = 0 && a = b then a else rm == 3) 0 0 false
    else .val (s.1 < 0) s.1.natAbs s.2 false

/-- a + b (R215). -/
def addE (rm : Nat) (a b : Exact) : Pre := addP rm a.pre b.pre

/-- Exact a * b + c; a NaN operand gives NaN without a flag (R189, R215). -/
def fmaE (rm : Nat) (a b c : Exact) : Pre :=
  match a, b, c with
  | .nan, _, _ => .nan false
  | _, .nan, _ => .nan false
  | _, _, .nan => .nan false
  | a, b, c => addP rm (mulE a b) c.pre

/-- Quotient to 128 bits and a sticky flag (R215); a non-zero finite value over zero is an infinity without a flag. -/
def divE : Exact → Exact → Pre
  | .nan, _ => .nan false
  | _, .nan => .nan false
  | .inf _, .inf _ => .nan true
  | .inf n, .fin k _ _ => .inf (n != k)
  | .fin n _ _, .inf k => .val (n != k) 0 0 false
  | .fin n m e, .fin k m' e' =>
    if m' = 0 then (if m = 0 then .nan true else .inf (n != k))
    else
      let sh := 130 + Nat.log2 m'
      .val (n != k) ((m <<< sh) / m') (e - e' - sh) ((m <<< sh) % m' != 0)

/-- Square root of a natural number rounded down, by Newton's bisection on bits. -/
def isqrtAux : Nat → Nat → Nat → Nat
  | 0, _, r => r
  | k + 1, n, r =>
    let r' := r + 2 ^ k
    isqrtAux k n (if r' * r' ≤ n then r' else r)

/-- The greatest natural number whose square does not exceed `n`. -/
def isqrt (n : Nat) : Nat := isqrtAux (Nat.log2 n / 2 + 1) n 0

/-- Square root to at least 120 bits and a sticky flag (R220). -/
def sqrtE : Exact → Pre
  | .nan => .nan false
  | .inf true => .nan true
  | .inf false => .inf false
  | .fin n m e =>
    if m = 0 then .val n 0 0 false
    else if n then .nan true
    else
      let sh := 240 + (e % 2).toNat
      let v := m <<< sh
      let r := isqrt v
      .val false r ((e - sh) / 2) (r * r != v)

/-- 1 / a (R220). -/
def rcpE : Exact → Pre
  | .nan => .nan false
  | .inf n => .val n 0 0 false
  | .fin n m e => if m = 0 then .inf n else divE (.fin false 1 0) (.fin n m e)

/-- 1 / sqrt a (R220). -/
def rsqE : Exact → Pre
  | .nan => .nan false
  | .inf true => .nan true
  | .inf false => .val false 0 0 false
  | .fin n m e =>
    if m = 0 then .inf n
    else if n then .nan true
    else
      -- 1 / sqrt(m 2^e) = sqrt(2^(2k - e) / m) / 2^k
      let k : Nat := 200 + Nat.log2 m
      let odd := (e % 2).toNat
      let q := (2 ^ (2 * k + odd)) / m
      let rem := (2 ^ (2 * k + odd)) % m
      let r := isqrt q
      .val false r (-(k : Int) - (e + odd) / 2) (rem != 0 || r * r != q)

/-- The sign and magnitude order of two exact values, neither NaN: a < b, with the zeros equal. -/
def ltE : Exact → Exact → Bool
  | .inf n, .inf k => n && !k
  | .inf n, _ => n
  | _, .inf k => !k
  | .fin n m e, .fin k m' e' =>
    let d := addDy (signed n m, e) (-(signed k m'), e')
    d.1 < 0
  | _, _ => false

/-- Equality of two exact values, neither NaN, with the zeros equal. -/
def eqE (a b : Exact) : Bool := !ltE a b && !ltE b a

/-- Order with -0 below +0 (R216). -/
def ltZ (a b : Exact) : Bool :=
  match a, b with
  | .fin true 0 _, .fin false 0 _ => true
  | a, b => ltE a b

/-- An integer element as an exact value. -/
def ofIntElem (t : TyCode) (bits : Nat) : Exact :=
  let z : Int := if isSigned t then Bits.toSigned (width t) bits else bits % 2 ^ width t
  ofInt z 0 false

/-- The exact value of an element of an I, F or N type, without flush. -/
def exactOf (t : TyCode) (bits : Nat) : Exact :=
  if isInt t || isB t then ofIntElem t bits else decode t bits

/-- The least and greatest values of an integer type (R178). -/
def intMin (t : TyCode) : Int := if isSigned t then -((2 ^ (width t - 1) : Nat) : Int) else 0
def intMax (t : TyCode) : Int := if isSigned t then (2 ^ (width t - 1) : Nat) - 1 else (2 ^ width t : Nat) - 1

/-- Clamps an integer into a type's range: pattern and IS when the clamp changed it (R206, R190). -/
def clampInt (t : TyCode) (z : Int) : Nat × Nat :=
  if z < intMin t then (Bits.wrap (width t) (intMin t), IS)
  else if z > intMax t then (Bits.wrap (width t) (intMax t), IS)
  else (Bits.wrap (width t) z, 0)

/-- Conversion to an integer type: rounds under RM, then clamps; NaN gives 0 and NV (R190, R224). -/
def toInt (c : Ctl) (t : TyCode) : Pre → Nat × Nat
  | .nan _ => (0, NV)
  | .inf neg => (Bits.wrap (width t) (if neg then intMin t else intMax t), IS)
  | .val neg m e sticky => clampInt t (signed neg (roundNat c.rm neg m e sticky))

/-- Conversion of an exact value into an I, F or N type (R190, R224). -/
def convert (c : Ctl) (t : TyCode) (x : Pre) : Nat × Nat :=
  if isInt t || isB t then toInt c t x else roundF c t x

/-- The sum of an exact list of dyadics. -/
def sumDy (l : List (Int × Int)) : Int × Int := l.foldl addDy (0, 0)

/-- The finite part of an exact value as a dyadic. -/
def dyOf : Exact → Int × Int
  | .fin n m e => (signed n m, e)
  | _ => (0, 0)

/-- One unit of exact summation (R194): the accumulator, the elements and their scale bytes; pattern and SATF bits. -/
def applyUnit (c : Ctl) (acc : Nat) (xs : List (Exact × Exact)) (sa sb : Nat) : Nat × Nat :=
  let prods := xs.map (fun p => mulE p.1 p.2)
  if sa == 0xFF || sb == 0xFF || xs.any (fun p => p.1 == .nan || p.2 == .nan) then (canonNan .f32, 0)
  else
    let pos := prods.any (fun p => p == .inf false)
    let negI := prods.any (fun p => p == .inf true)
    let bad := prods.any (fun p => match p with | .nan _ => true | _ => false)
    if (pos && negI) || bad then (canonNan .f32, NV)
    else
      let accE := decodeFl c.flush .f32 acc
      if pos || negI then roundF c .f32 (addE c.rm (.inf negI) accE)
      else
        let s := sumDy (prods.map (fun p => match p with | .val n m e _ => (signed n m, e) | _ => (0, 0)))
        let k : Int := ((sa : Int) - 127) + ((sb : Int) - 127)
        match accE with
        | .fin n m e =>
          let t := addDy (signed n m, e) (s.1, s.2 + k)
          if t.1 = 0 then
            let allNeg := n && m == 0 && prods.all (fun p => match p with | .val true 0 _ _ => true | _ => false)
            (if c.rm == 3 || allNeg then signBit .f32 else 0, 0)
          else roundF c .f32 (.val (t.1 < 0) t.1.natAbs t.2 false)
        | x => roundF c .f32 x.pre

/-- One integer unit (R195): wraps, or clamps with IS under SAT. -/
def applyUnitInt (c : Ctl) (acc : Nat) (xs : List (Int × Int)) : Nat × Nat :=
  let s := xs.foldl (fun z p => z + p.1 * p.2) (Bits.toSigned 32 acc)
  if c.sat then clampInt .i32 s else (Bits.wrap 32 s, 0)

/-- The signed or unsigned integer of an i8 or n8 element. -/
def intElem (t : TyCode) (bits : Nat) : Int :=
  if isSigned t then Bits.toSigned (width t) bits else bits % 2 ^ width t

/-- kx4 decoding (R184): the 32 values before the scale, or none for a malformed block. -/
def kx4Aux : Nat → List Nat → Option (List Exact)
  | 0, _ => some []
  | _, [] => some []
  | n + 1, s :: rest =>
    if s % 16 ≠ 8 then (kx4Aux n rest).map (fun l => ofInt (Bits.toSigned 4 s) 0 false :: l)
    else
      match rest with
      | lo :: hi :: rest' =>
        (kx4Aux n rest').map (fun l => decode .e4m3 ((hi % 16) * 16 + lo % 16) :: .fin false 0 0 :: .fin false 0 0 :: l)
      | _ => none

/-- The 32 exact values of a block and whether it was malformed (R182, R184). -/
def decodeBlock (t : TyCode) (elems : List Nat) (scale : Nat) : List Exact × Bool :=
  let nans := List.replicate 32 Exact.nan
  if scale % 256 == 0xFF then (nans, false)
  else
    let k : Int := (scale % 256 : Nat) - 127
    match t with
    | .kx4 =>
      match kx4Aux 32 elems with
      | some l => (l.map (Exact.scale k), false)
      | none => (nans, true)
    | _ => (elems.map (fun x => (decode t x).scale k), false)

/-- The magnitude of a dyadic is at most 7 after rounding; used by the kx4 encoder. -/
def kx4Round (rm : Nat) : Exact → Option Int
  | .fin n m e => some (signed n (roundNat rm n m e false))
  | _ => none

/-- Whether an exact value is not zero. -/
def nonZero : Exact → Bool
  | .fin _ m _ => m != 0
  | _ => true

/-- What the kx4 encoder does at one element (R185): a slot and one step on, or an escape with its payload and three steps
on. The answer is the slots written, the flags, and the values still to encode. -/
def kx4Step (c : Ctl) (i : Nat) (x : Exact) (rest : List Exact) : List Nat × Nat × List Exact :=
  let q := kx4Round c.rm x
  let small := match q with | some z => decide (z.natAbs ≤ 7) | none => false
  let neg := match q, x with | some z, _ => decide (z < 0) | none, .inf b => b | none, _ => false
  if small then ([Bits.wrap 4 (q.getD 0)], 0, rest)
  else if i ≤ 29 then
    let e := roundF c .e4m3 x.pre
    ([8, e.1 % 16, e.1 / 16 % 16], e.2 ||| (if (rest.take 2).any nonZero then FS else 0), rest.drop 2)
  else ([if neg then 9 else 7], FS, rest)

/-- kx4 encoding of values already divided by the scale, none NaN (R185): slots and flags; fuel first, then the slot index. -/
def kx4EncAux (c : Ctl) : Nat → Nat → List Exact → List Nat × Nat
  | 0, _, _ => ([], 0)
  | _, _, [] => ([], 0)
  | n + 1, i, x :: rest =>
    let st := kx4Step c i x rest
    let r := kx4EncAux c n (i + st.1.length) st.2.2
    (st.1 ++ r.1, st.2.1 ||| r.2)

/-- Encodes a block of 32 values under a scale (R185, R190, R226): element codes, the final scale, SATF bits. -/
def encodeBlock (c : Ctl) (t : TyCode) (xs : List Exact) (scale : Nat) : List Nat × Nat × Nat :=
  let anyNan := xs.any (fun x => x == .nan)
  let k : Int := -((scale % 256 : Nat) - 127 : Int)
  match t with
  | .mxf8 =>
    if scale % 256 == 0xFF then (List.replicate 32 0x7F, 0xFF, 0)
    else
      let r := xs.map (fun x => roundF c .mxf8 (x.scale k).pre)
      (r.map (fun p => p.1), scale % 256, r.foldl (fun s p => s ||| p.2) 0)
  | .kx4 =>
    if anyNan then (List.replicate 32 0, 0xFF, NV)
    else if scale % 256 == 0xFF then (List.replicate 32 0, 0xFF, 0)
    else
      let r := kx4EncAux c 32 0 (xs.map (Exact.scale k))
      (r.1, scale % 256, r.2)
  | _ =>
    if anyNan then (List.replicate 32 0, 0xFF, NV)
    else if scale % 256 == 0xFF then (List.replicate 32 0, 0xFF, 0)
    else
      let r := xs.map (fun x => roundF c t (x.scale k).pre)
      (r.map (fun p => p.1), scale % 256, r.foldl (fun s p => s ||| p.2) 0)

/-- emax of R227. -/
def emax : TyCode → Int
  | .mxf8 => 8
  | .mxf6b => 4
  | _ => 2

/-- floor(log2 |x|) of a finite value that is not zero. -/
def log2E : Exact → Int
  | .fin _ m e => (Nat.log2 m : Int) + e
  | _ => 0

/-- The shared scale of a block (R227). -/
def chooseScale (t : TyCode) (xs : List Exact) : Nat :=
  if xs.any (fun x => match x with | .fin .. => false | _ => true) then 0xFF
  else
    match (xs.filter nonZero).map log2E with
    | [] => 127
    | l :: ls =>
      let m := ls.foldl (fun a b => if a < b then b else a) l
      (min 254 (max 0 (m - emax t + 127))).toNat

/-- VFMIN and VFMAX (R216): `pick a b` says that a is the one wanted; patterns in and out, no flag. -/
def minMax (flush nanMode isMax : Bool) (t : TyCode) (x y : Nat) : Nat :=
  let a := decodeFl flush t x
  let b := decodeFl flush t y
  let fl := fun bits => if flush && isF t && isSub t bits then bits / signBit t % 2 * signBit t else bits
  match a, b with
  | .nan, .nan => canonNan t
  | .nan, _ => if nanMode then canonNan t else fl y
  | _, .nan => if nanMode then canonNan t else fl x
  | a, b => if isMax then (if ltZ a b then fl y else fl x) else (if ltZ b a then fl y else fl x)

/-- A sum of two patterns of a floating type (R215). -/
def addBits (c : Ctl) (t : TyCode) (x y : Nat) : Nat × Nat :=
  roundF c t (addE c.rm (decodeFl c.flush t x) (decodeFl c.flush t y))

/-- A fused multiply-add of three patterns (R215). -/
def fmaBits (c : Ctl) (t : TyCode) (x y z : Nat) : Nat × Nat :=
  roundF c t (fmaE c.rm (decodeFl c.flush t x) (decodeFl c.flush t y) (decodeFl c.flush t z))

/-- A product of two patterns (R215). -/
def mulBits (c : Ctl) (t : TyCode) (x y : Nat) : Nat × Nat :=
  roundF c t (mulE (decodeFl c.flush t x) (decodeFl c.flush t y))

/-- A quotient of two patterns (R215). -/
def divBits (c : Ctl) (t : TyCode) (x y : Nat) : Nat × Nat :=
  roundF c t (divE (decodeFl c.flush t x) (decodeFl c.flush t y))

/-- RNE in f32 of an exact value, with no flush and no flag kept (R341). -/
def rnd32 (p : Pre) : Nat := (roundF rne .f32 p).1

end Sys2Proof.Num
end

