-- ==== Sys2Proof/Machine/Operands.lean ====
section
/-! DEFINITION. Operands of lane instructions: constants, replication, elements, active lanes; and the frame every lane instruction issues in: legality, the checking scoreboard, error marks, results (R96 to R107, R146, R178, R179, R198 to R203). -/

namespace Sys2Proof.Machine

open Sys2Proof.Bits
open Sys2Proof.Types (width regWidth isInt isF isN isX isB isSigned)

/-! ## Inline constants (R99, R100) -/

/-- The exact values of the constants 360 to 378, as values before rounding; the irrational ones to 140 bits and sticky (R99). -/
def constPre (k : Nat) : Num.Pre :=
  let inv := fun (n : Nat) => Num.divE (.fin false 1 0) (.fin false n 0)
  let irr := fun (m : Nat) => Num.Pre.val false m (-140) true
  match k with
  | 40 => inv 3 | 41 => inv 5 | 42 => inv 6 | 43 => inv 7 | 44 => inv 9 | 45 => inv 10 | 46 => inv 12 | 47 => inv 24
  | 48 => inv 60 | 49 => inv 255 | 50 => inv 1023 | 51 => inv 65535
  | 52 => irr 0x3243f6a8885a308d313198a2e03707344a40
  | 53 => irr 0x517cc1b727220a94fe13abe8fa9a6ee06db
  | 54 => irr 0x6487ed5110b4611a62633145c06e0e689481
  | 55 => irr 0xb17217f7d1cf79abc9e3b39803f2f6af40f
  | 56 => irr 0x171547652b82fe1777d0ffda0d23a7d11d6a
  | 57 => irr 0x16a09e667f3bcc908b2fb1366ea957d3e3ad
  | 58 => irr 0xb504f333f9de6484597d89b3754abe9f1d6
  | _ =>
    if k ≤ 15 then .val false k 0 false
    else if k ≤ 23 then .val true (k - 15) 0 false
    else if k ≤ 31 then .val false 1 (-((k - 23 : Nat) : Int)) false
    else .val false 1 ((k - 28 : Nat) : Int) false

/-- The pattern of inline constant 320 + k read in a type (R100). -/
def constBits (t : TyCode) (k : Nat) : Nat :=
  let w := width t
  if k = 63 then 2 ^ w - 1
  else if isF t then
    match k with
    | 59 => Num.infBits t false
    | 60 => Num.canonNan t
    | 61 => Num.maxMag t
    | 62 => 2 ^ (Num.fmtOf t).mb
    | _ => (Num.roundF Num.rne t (constPre k)).1
  else if k = 61 then wrap w (Num.intMax t)
  else if k = 62 then wrap w (Num.intMin t)
  else if 16 ≤ k && k ≤ 23 then wrap w (-((k - 15 : Nat) : Int))
  else if 32 ≤ k then 2 ^ (k - 28) % 2 ^ w
  else k

/-- The value of a code 472 to 475 in a type: modulo 2^w in an integer type, rounded to nearest even in a floating one, as
R100 rounds a constant; a value an 8-bit float cannot hold is free (R98). Log 14. -/
def specialBits (t : TyCode) (n : Nat) : Nat :=
  if isF t || isN t then
    let r := Num.roundF Num.rne t (.val false n 0 false)
    if r.2 = 0 then r.1 else (Config.specialOperand n).toNat % 2 ^ width t
  else n % 2 ^ width t

/-- A pattern of the type's width in every sub-element of a register (R98). -/
def replicate (t : TyCode) (x : Nat) : Nat :=
  let w := regWidth t
  (List.range (64 / w)).foldl (fun a k => a + (x % 2 ^ w) * 2 ^ (w * k)) 0

/-- Sub-element k of a register (R179). -/
def elem (w x k : Nat) : Nat := (x / 2 ^ (w * k)) % 2 ^ w

/-- The elements of a register, lowest first. -/
def elems (w x : Nat) : List Nat := (List.range (64 / w)).map (elem w x)

/-- The register with given elements, lowest first. -/
def fromElems (w : Nat) : List Nat → Nat
  | [] => 0
  | x :: xs => x % 2 ^ w + 2 ^ w * fromElems w xs

/-- Replaces one element. -/
def setElem (w x k v : Nat) : Nat := Bits.insert (w * k) w x v

/-! ## A lane instruction at issue -/

/-- A lane instruction at issue: the issuing group, gang and fragment, the word, its resolved type, FMT, and the active lanes. -/
structure Issue where
  g : Group
  h : Gang
  f : Fragment
  op : LOp
  ln : Lane
  t : TyCode
  fmt : Nat
  active : BitVec 64
  deriving DecidableEq, Repr

/-- The active lanes, rising. -/
def Issue.lanes (i : Issue) : List Nat := onesBelow 64 i.active.toNat

/-- The rounding mode and the saturation and flush bits (R187). -/
def Issue.ctl (i : Issue) : Num.Ctl := Num.ctlOf i.fmt

/-- Lanes for which the guard is true (R103). -/
def Gang.guard (h : Gang) (ln : Lane) : Word :=
  let p := h.readP ln.pg.val
  if ln.pn then ~~~p else p

/-- What an operand supplies to a lane, as 64 bits, read in a type (R97, R98). -/
def Issue.read (i : Issue) (t : TyCode) (o : Operand) (lane : Nat) : Nat :=
  match o with
  | .v n => (i.h.readV n.val lane).toNat
  | .const k => replicate t (constBits t k.val)
  | .s n => replicate t (i.h.readS n.val).toNat
  | .laneId => replicate t (specialBits t lane)
  | .quadId => replicate t (specialBits t (lane / 4))
  | .glane => replicate t (specialBits t (i.h.id * i.h.width + lane))
  | .helper => replicate t (specialBits t (if i.h.helper.getLsbD lane then 1 else 0))
  | _ => 0

/-- Register `k` of a group that starts at an operand (R222, R265). -/
def Issue.readGroup (i : Issue) (o : Operand) (k lane : Nat) : Nat :=
  match o with
  | .v n => (i.h.readV (n.val + k) lane).toNat
  | _ => 0

/-- The number of a v destination. -/
def vnum : Operand → Nat
  | .v n => n.val
  | _ => 0

/-- The number of a predicate operand. -/
def pnum : Operand → Nat
  | .p n => n.val
  | _ => 0

/-! ## What a lane instruction reads (R146, R407) -/

/-- The registers that a field of a lane instruction spans, the field by its number; one where it names no group. -/
def groupSize (op : LOp) (ln : Lane) (t : TyCode) (fmt field : Nat) : Nat :=
  ((Legal.groups op ln t (some fmt)).find? (fun g => g.1 == field)).elim 1 (fun g => g.2)

/-- Whether a lane instruction merges into its destination register (R146). The d that VQSWZ, VQDX and VQDY leave as it is where a partner lane
is inactive (R229) does not count (DESIGN CHOICE, log 116). -/
def mergesDest (op : LOp) (ln : Lane) (t : TyCode) (fmt : Nat) : Bool :=
  let src := Types.resolve fmt (Types.ofCode ln.x24.toNat)
  match op with
  | .vbfi | .vscale => true
  | .vmov => ln.mod.getLsbD 0
  | .vcvt => width t < width src
  | .vcvtx => !isX t && !ln.mod.getLsbD 0 && width t < width src
  | _ => false

/-- The scale register that a VDOT or VCVTX names, if it takes one (R222, R225, R226). -/
def scaleOperand (op : LOp) (ln : Lane) (t : TyCode) (fmt : Nat) : Option Operand :=
  let tb := (Legal.bType ln t (some fmt)).getD t
  match op with
  | .vdot => if isX t || isX tb then some (Decode.operand (Legal.scaleCode ln)) else none
  | .vcvtx => some (Decode.operand (Legal.scaleCode ln))
  | _ => none

/-- The source operands of a lane instruction with the registers each spans. Matrix register groups are added by their own rule, and so are the
input and the target of a VRCQ, which it does not read in every active lane (R338). -/
def sources (op : LOp) (ln : Lane) (t : TyCode) (fmt : Nat) : List (Operand × Nat) :=
  let ks := Legal.kinds op ln (some t)
  let f := fun (k : Legal.Kind) (n : Nat) => if k = .none then [] else [(Legal.operandAt ln n, groupSize op ln t fmt n)]
  let cIsDest := op == .vxln
  (if op = .vrcq then [] else f ks.2.1 1 ++ f ks.2.2.1 2) ++ (if cIsDest then [] else f ks.2.2.2 3)
    ++ (if mergesDest op ln t fmt then [(ln.d, 1)] else [])
    ++ (match scaleOperand op ln t fmt with | some o => [(o, 1)] | none => [])

/-- Whether a write to a v register of a lane is pending at a cycle (R146). -/
def Gang.pendingV (h : Gang) (cyc r lane : Nat) : Bool :=
  h.fpend.any (fun w => w.due < cyc + 4 && w.writes.v.any (fun x => x.1 == (r, lane)))
    || h.ops.any (fun o => o.dests.contains r && o.lanes.getLsbD lane)

/-- Whether a write to an s register is pending at a cycle. -/
def Gang.pendingS (h : Gang) (cyc r : Nat) : Bool :=
  r != 0 && (h.fpend.any (fun w => w.due < cyc + 4 && w.writes.s.any (fun x => x.1 == r)) || h.ops.any (fun o => o.dests.contains (384 + r)))

/-- Some lanes, or none where no lane is named. -/
def someLanes (m : BitVec 64) : Option (BitVec 64) := if m = 0 then none else some m

/-- The lanes of `lanes` in which the read of an operand group finds a pending write, if any does; for an s register, which is checked
whichever lanes are active, the enabled lanes (R146, R385). -/
def Gang.pendingRead (h : Gang) (cyc : Nat) (enabled lanes : BitVec 64) (o : Operand) (n : Nat) : Option (BitVec 64) :=
  match o with
  | .v r =>
    someLanes (BitVec.ofNat 64
      (maskOf ((onesBelow 64 lanes.toNat).filter (fun l => (List.range n).any (fun k => h.pendingV cyc (r.val + k) l)))))
  | .s r => if (List.range n).any (fun k => h.pendingS cyc (r.val + k)) then some enabled else none
  | .p p => someLanes (h.pendingP cyc p.val &&& lanes)
  | _ => none

/-- Whether the read of an operand group in some lanes meets an uncorrectable word (R407). -/
def Gang.badRead (h : Gang) (lanes : BitVec 64) (o : Operand) (n : Nat) : Bool :=
  match o with
  | .v r => h.verr.any (fun k => r.val ≤ k / 64 && k / 64 < r.val + n && lanes.getLsbD (k % 64))
  | .s r => h.serr.any (fun k => k != 0 && r.val ≤ k && k < r.val + n)
  | .p p => h.badP p.val
  | _ => false

/-! ## The frame of a lane instruction -/

/-- The issue of a lane instruction with its full legality (R102, R116): the type is resolved by FMTF, and the lowest detail is taken. Its
wo field has waited for a counter (R106). -/
def Ctx.issue (c : Ctx) (op : LOp) (ln : Lane) : Issue :=
  let fmt := c.f.fmtf.toNat
  { g := c.g, h := c.h.waited ln.wo.val, f := c.f, op := op, ln := ln, t := Types.resolve fmt ln.ty, fmt := fmt,
    active := c.h.enabled c.f &&& c.h.guard ln }

/-- The lanes in which a lane reads its first source: its own, but for a cross-lane instruction (R146, R203). -/
abbrev Remote := Issue → Nat → List Nat

/-- Every lane reads its own source. -/
def ownLane : Remote := fun _ l => [l]

/-- The lanes whose read of an operand group in some lanes finds a pending write: of a cross-lane read, the reading lanes (R146, R385). -/
def Issue.stalledBy (i : Issue) (cyc : Nat) (far : Nat → List Nat) (o : Operand × Nat) : Option (BitVec 64) :=
  let en := i.h.enabled i.f
  match o.1 with
  | .v _ =>
    someLanes (BitVec.ofNat 64
      (maskOf (i.lanes.filter fun l => (i.h.pendingRead cyc en (BitVec.ofNat 64 (maskOf (far l))) o.1 o.2).isSome)))
  | _ => i.h.pendingRead cyc en i.active o.1 o.2

/-- Lanes named by one check or another. -/
def joinLanes (x y : Option (BitVec 64)) : Option (BitVec 64) :=
  match x, y with
  | some a, some b => some (a ||| b)
  | some a, none => some a
  | none, z => z

/-- The sources of an instruction with the lanes in which each lane reads them: field a, which is listed first, as `far` says; every other
field in the lane itself, also where it names the same register (R146, R203). -/
def remoteFirst (ln : Lane) (srcs : List (Operand × Nat)) (far : Nat → List Nat) : List ((Operand × Nat) × (Nat → List Nat)) :=
  match srcs with
  | [] => []
  | a :: more => (a, if a.1 = ln.a then far else fun l => [l]) :: more.map fun o => (o, fun l => [l])

/-- The lanes that the stall check names for some reads, beside those named before; of each operand, the lanes in which a lane reads it. -/
def Issue.stalledIn (i : Issue) (cyc : Nat) (before : Option (BitVec 64)) (reads : List ((Operand × Nat) × (Nat → List Nat))) :
    Option (BitVec 64) :=
  reads.foldl (fun m o => joinLanes m (i.stalledBy cyc o.2 o.1)) before

/-- The lanes that the stall check of a pass with CHK names at a cycle, if it traps (R105, R146, R385). The guard is checked in every lane. -/
def Issue.stalled (i : Issue) (cyc : Nat) (srcs : List (Operand × Nat)) (far : Nat → List Nat) : Option (BitVec 64) :=
  i.stalledIn cyc (if i.h.pendingP cyc i.ln.pg.val &&& i.h.lmask != 0 then some (i.h.enabled i.f) else none) (remoteFirst i.ln srcs far)

/-- Whether some reads meet an uncorrectable word (R407). -/
def Issue.badIn (i : Issue) (reads : List ((Operand × Nat) × (Nat → List Nat))) : Bool :=
  reads.any fun o => i.h.badRead (BitVec.ofNat 64 (maskOf (i.lanes.flatMap o.2))) o.1.1 o.1.2

/-- REGE, where a source of the instruction meets an uncorrectable word (R407). -/
def Issue.errBits (i : Issue) (srcs : List (Operand × Nat)) (far : Nat → List Nat) : BitVec 9 :=
  if i.h.badP i.ln.pg.val || i.badIn (remoteFirst i.ln srcs far) then REGE else 0

/-- Counts a lane instruction that issues: the lane slots of the divergence history (R78) and the cycle in which it enters E1 to E4. -/
def Issue.count (i : Issue) (cycle : Nat) : Issue :=
  let h := { i.h with
    issued := i.h.issued + i.h.width,
    masked := i.h.masked + (i.h.width - popcount 64 i.active.toNat),
    lastLane := cycle + 1 }
  { i with h := h }

/-- The gang's FLTMASK source: enabled lanes of the issuing fragment (R385). -/
def Issue.enabled (i : Issue) : BitVec 64 := i.h.enabled i.f

/-- The context of the issue, to trap or to wait with. -/
def Issue.ctx (i : Issue) : Ctx := ⟨i.g, i.h, i.f⟩

/-- A lane instruction: legality, the stall check, the error marks, and then its own meaning (R102, R116, R146, R407). `far` gives
the lanes in which each lane reads its first source, and `more` what it reads beyond its source fields. -/
def laneWordWith (op : LOp) (ln : Lane) (s : State) (far : Remote) (more : Issue → List ((Operand × Nat) × (Nat → List Nat)))
    (k : Issue → Out) : Out :=
  withCur s fun c =>
    let i := c.issue op ln
    match Legal.illegal op ln ⟨some i.fmt, some c.h.vcount, some c.g.tiles.length⟩ with
    | some d => s.trap c (Trap.inGang 0x01 d i.enabled)
    | none =>
      let srcs := sources op ln i.t i.fmt
      let cyc := (s.core c.g.core).cycle
      match if c.g.chk then i.stalledIn cyc (i.stalled cyc srcs (far i)) (more i) else none with
      | some bad => s.trap c (Trap.inGang 0x02 0 bad)
      | none => k { i with g := c.g.orErr (if i.badIn (more i) then REGE else i.errBits srcs (far i)) }

/-- A lane instruction whose source fields name all that it reads. -/
def laneWord (op : LOp) (ln : Lane) (s : State) (far : Remote) (k : Issue → Out) : Out := laneWordWith op ln s far (fun _ => []) k

/-- The v registers a window shadows when an instruction would write some more of them, if they fit its 48 (R365). -/
def Window.shadowed (w : Window) (regs : List Nat) : Option Window :=
  let l := (w.shadow ++ regs).eraseDups
  if 48 < l.length then none else some { w with shadow := l }

/-- The gang that has shadowed the v registers about to be written; none where the instruction may not issue (R365). -/
def Gang.shadow (h : Gang) (regs : List Nat) : Option Gang :=
  match h.window with
  | none => some h
  | some w => (w.shadowed regs).map (fun w1 => { h with window := some w1 })

/-- The v registers that a list of writes names. -/
def Writes.vregs (w : Writes) : List Nat := (w.v.map (fun x => x.1.1)).eraseDups

/-- An F instruction: its writes land at the end of cycle c + 4 (R105, R198). The body gives the writes and ERRSUM bits. -/
def fixedWord (op : LOp) (ln : Lane) (s : State) (far : Remote) (body : Issue → Writes × BitVec 9) : Out :=
  laneWord op ln s far fun i =>
    let r := body i
    let cyc := (s.core i.g.core).cycle
    match (i.count cyc).h.shadow r.1.vregs with
    | none => .next (s.put i.g i.h (i.f.hold .window))
    | some h =>
      let h1 := { h with fpend := insertF ⟨cyc + 4, i.f.entry, r.1⟩ h.fpend }
      .next (s.put (i.g.orErr r.2) h1 (i.f.advance 3))

/-- A fixed-latency instruction that reads its sources in its active lanes. -/
def fixedLane (op : LOp) (ln : Lane) (s : State) (body : Issue → Writes × BitVec 9) : Out :=
  fixedWord op ln s ownLane body

/-- ORs SATF bits of some elements. -/
def orFlags (l : List (Nat × Nat)) : Nat := l.foldl (fun a x => a ||| x.2) 0

/-- Writes of one v register: for each active lane a value with its SATF bits, or none where the lane keeps its old value. -/
def Issue.toV (i : Issue) (f : Nat → Option (Nat × Nat)) : Writes :=
  let rs := i.lanes.filterMap (fun l => (f l).map (fun r => (l, r)))
  { v := rs.map (fun r => ((vnum i.ln.d, r.1), BitVec.ofNat 64 r.2.1)), p := [], s := [],
    satf := BitVec.ofNat 4 (orFlags (rs.map (fun r => r.2))) }

/-- Writes of one predicate in the active lanes. -/
def Issue.toP (i : Issue) (p : Nat) (f : Nat → Bool) : Writes :=
  { v := [], p := [(p, i.active, BitVec.ofNat 64 (maskOf (i.lanes.filter f)))], s := [], satf := 0 }

/-- A register made of elements with their flags. -/
def joinElems (w : Nat) (rs : List (Nat × Nat)) : Nat × Nat := (fromElems w (rs.map (fun r => r.1)), orFlags rs)

/-- The elements of an operand in a lane. -/
def Issue.elems (i : Issue) (o : Operand) (lane : Nat) : List Nat := Machine.elems (width i.t) (i.read i.t o lane)

/-- An element-wise instruction of one source. -/
def elementwise1 (op : LOp) (ln : Lane) (s : State) (f : Issue → Nat → Nat × Nat) : Out :=
  fixedLane op ln s fun i =>
    (i.toV fun l => some (joinElems (width i.t) ((i.elems ln.a l).map (f i))), 0)

/-- An element-wise instruction of two sources. -/
def elementwise2 (op : LOp) (ln : Lane) (s : State) (f : Issue → Nat → Nat → Nat × Nat) : Out :=
  fixedLane op ln s fun i =>
    (i.toV fun l => some (joinElems (width i.t) (List.zipWith (f i) (i.elems ln.a l) (i.elems ln.b l))), 0)

/-- An element-wise instruction of three sources. -/
def elementwise3 (op : LOp) (ln : Lane) (s : State) (f : Issue → Nat → Nat → Nat → Nat × Nat) : Out :=
  fixedLane op ln s fun i =>
    (i.toV fun l =>
      let ab := (i.elems ln.a l).zip (i.elems ln.b l)
      some (joinElems (width i.t) (List.zipWith (fun p z => f i p.1 p.2 z) ab (i.elems ln.c l))), 0)

/-- A comparison of two sources into an element mask or a predicate (R211). -/
def compareWord (op : LOp) (ln : Lane) (s : State) (f : Issue → Nat → Nat → Bool) : Out :=
  fixedLane op ln s fun i =>
    let w := width i.t
    let rs := fun l => List.zipWith (f i) (i.elems ln.a l) (i.elems ln.b l)
    match ln.d with
    | .p p => (i.toP p.val fun l => if ln.mod.getLsbD 3 then (rs l).all id else (rs l).any id, 0)
    | _ => (i.toV fun l => some (fromElems w ((rs l).map (fun b => if b then 2 ^ w - 1 else 0)), 0), 0)

/-! ## Variable-latency instructions (R106) -/

/-- The VOp of a variable-latency instruction: the counter, the quads, and the earliest time at which it lands. -/
def Issue.vop (i : Issue) (s : State) (wait : OpWait) (writes : Writes) (dests : List Nat) : VOp where
  id := s.idCount
  set := i.ln.set.val
  quads := i.f.qset
  wait := wait
  due := s.time + Config.latency s.idCount
  writes := writes
  dests := dests
  lanes := i.active
  inWindow := i.h.window.isSome
  trace := false
  bus := match i.op with | .vlds | .vsts | .vcov => false | _ => true

/-- Issues a variable-latency instruction: the operation becomes outstanding and the fragment goes on. -/
def Issue.start (i : Issue) (s : State) (o : VOp) : State :=
  let h := (i.count (s.core i.g.core).cycle).h
  { s.put i.g { h with ops := h.ops ++ [o] } (i.f.advance 3) with idCount := s.idCount + 1 }

end Sys2Proof.Machine
end

