-- ==== Sys2Proof/Machine/Transcendental.lean ====
section
/-! DEFINITION. The correctly rounded functions of R221 and R335: enclosures in integers at a growing precision, until both ends round alike. Log 10. -/

namespace Sys2Proof.Num

/-- floor(pi * 2^1100). -/
def piBits : Nat := 0x3243f6a8885a308d313198a2e03707344a4093822299f31d0082efa98ec4e6c89452821e638d01377be5466cf34e90c6cc0ac29b7c97c50dd3f84d5b5b54709179216d5d98979fb1bd1310ba698dfb5ac2ffd72dbd01adfb7b8e1afed6a267e96ba7c9045f12c7f9924a19947b3916cf70801f2e2858efc16636920d871574e69a458fea3f4933d7e0d9

/-- floor(ln 2 * 2^1100). -/
def ln2Bits : Nat := 0xb17217f7d1cf79abc9e3b39803f2f6af40f343267298b62d8a0d175b8baafa2be7b876206debac98559552fb4afa1b10ed2eae35c138214427573b291169b8253e96ca16224ae8c51acbda11317c387eb9ea9bc3b136603b256fa0ec7657f74b72ce87b19d6548caf5dfa6bd38303248655fa1872f20e3a2da2d97c50f3fd5c607f4ca11fb5bfb90610

/-- pi and ln 2 rounded down to p fraction bits, p at most 1100. -/
def piAt (p : Nat) : Nat := piBits >>> (1100 - p)
def ln2At (p : Nat) : Nat := ln2Bits >>> (1100 - p)

/-- An enclosure [lo, hi] * 2^-p of a positive quantity, times 2^e. -/
structure Enclosure where
  lo : Nat
  hi : Nat
  p : Nat
  e : Int
  deriving DecidableEq, Repr

/-- Sum of x^k / k! from a term on, rounded down; the tail below one unit is dropped. Fuel counts terms. -/
def expSum : Nat → Nat → Nat → Nat → Nat → Nat
  | 0, _, _, _, _ => 0
  | n + 1, k, term, x, p => if term = 0 then 0 else term + expSum n (k + 1) (term * x / 2 ^ p / k) x p

/-- An enclosure of 2^(m / 2^s) for 0 ≤ m < 2^s. -/
def exp2Frac (m s p : Nat) : Nat × Nat :=
  let x := m * ln2At p / 2 ^ s
  let v := expSum (p + 4) 1 (2 ^ p) x p
  (v, v + 2 * p + 16)

/-- Sum of z^(2k+1) / (2k+1) from a term on, rounded down. -/
def atanhSum : Nat → Nat → Nat → Nat → Nat → Nat
  | 0, _, _, _, _ => 0
  | n + 1, k, pow, zz, p => if pow = 0 then 0 else pow / k + atanhSum n (k + 2) (pow * zz / 2 ^ p) zz p

/-- An enclosure, in units of 2^-p, of log2 of m / 2^s, for 2^s ≤ m < 2^(s+1). -/
def log2Frac (m s p : Nat) : Nat × Nat :=
  let z := (m - 2 ^ s) * 2 ^ p / (m + 2 ^ s)
  let v := 2 * atanhSum (p + 4) 1 z (z * z / 2 ^ p) p
  let e := 8 * p + 64
  ((v - e) * 2 ^ p / (ln2At p + 1), (v + e) * 2 ^ p / ln2At p + 1)

/-- Alternating sum of the series of sine (k = 2) or cosine (k = 1): the positive and the negative terms. -/
def trigSum : Nat → Nat → Nat → Nat → Nat → Nat × Nat
  | 0, _, _, _, _ => (0, 0)
  | n + 1, k, term, xx, p =>
    if term = 0 then (0, 0)
    else
      let r := trigSum n (k + 2) (term * xx / 2 ^ p / (k * (k + 1))) xx p
      (term + r.2, r.1)

/-- An enclosure, in units of 2^-p, of sin or cos of 2 pi m / 2^s, for an angle of at most an eighth of a turn. -/
def trigFrac (cos : Bool) (m s p : Nat) : Nat × Nat :=
  let x := 2 * m * piAt p / 2 ^ s
  let xx := x * x / 2 ^ p
  let r := if cos then trigSum (p + 4) 1 (2 ^ p) xx p else trigSum (p + 4) 2 x xx p
  let v := r.1 - r.2
  let e := 8 * p + 64
  (v - e, v + e)

/-- Rounds an enclosure when both ends round alike; none where they do not, or the low end is zero. -/
def roundBoth (c : Ctl) (t : TyCode) (neg : Bool) (lo hi : Nat) (e : Int) : Option (Nat × Nat) :=
  let a := roundF c t (.val neg lo e true)
  let b := roundF c t (.val neg hi e false)
  if lo != 0 && a == b then some a else none

/-- The first decided rounding of enclosures at growing precision; at the end of the fuel, that of the low end. -/
def decide2 (c : Ctl) (t : TyCode) (neg : Bool) (f : Nat → Nat × Nat) (e : Nat → Int) : Nat → Nat → Nat × Nat
  | 0, p => roundF c t (.val neg (f p).1 (e p) true)
  | n + 1, p =>
    let r := f p
    match roundBoth c t neg r.1 r.2 (e p) with
    | some v => v
    | none => decide2 c t neg f e n (p + 80)

/-- The fuel and first precision of every function below: 96, 176, ... up to 1056 bits. -/
def settle (c : Ctl) (t : TyCode) (neg : Bool) (f : Nat → Nat × Nat) (e : Nat → Int) : Nat × Nat :=
  decide2 c t neg f e Config.transcendentalFuel 96

/-- A dyadic with a non-negative exponent made a fraction m / 2^s. -/
def asFraction (m : Nat) (e : Int) : Nat × Nat := if 0 ≤ e then (m <<< e.toNat, 0) else (m, (-e).toNat)

/-- VFEXP2 (R221). -/
def exp2Bits (c : Ctl) (t : TyCode) (x : Exact) : Nat × Nat :=
  match x with
  | .nan => (canonNan t, 0)
  | .inf true => (0, 0)
  | .inf false => roundF c t (.inf false)
  | .fin neg m e =>
    if m = 0 then roundF c t (.val false 1 0 false)
    else
      let big := 0 < (Nat.log2 m : Int) + e - 12
      if big then roundF c t (.val false 1 (if neg then -100000 else 100000) false)
      else
        let q := asFraction m e
        let n : Int := (signed neg q.1) / ((2 ^ q.2 : Nat) : Int)
        let r := ((signed neg q.1) % ((2 ^ q.2 : Nat) : Int)).toNat
        if r = 0 then roundF c t (.val false 1 n false)
        else settle c t false (fun p => exp2Frac r q.2 p) (fun p => n - p)

/-- VFLOG2 (R221). -/
def log2Bits (c : Ctl) (t : TyCode) (x : Exact) : Nat × Nat :=
  match x with
  | .nan => (canonNan t, 0)
  | .inf true => (canonNan t, NV)
  | .inf false => roundF c t (.inf false)
  | .fin neg m e =>
    if m = 0 then roundF c t (.inf true)
    else if neg then (canonNan t, NV)
    else
      let s := Nat.log2 m
      let k : Int := e + s
      if m = 2 ^ s then roundF c t (ofInt k 0 false).pre
      else if 0 ≤ k then
        settle c t false (fun p => let r := log2Frac m s p; (k.toNat * 2 ^ p + r.1, k.toNat * 2 ^ p + r.2)) (fun p => -(p : Int))
      else
        let a := (-k).toNat
        settle c t true (fun p => let r := log2Frac m s p; (a * 2 ^ p - r.2, a * 2 ^ p - r.1)) (fun p => -(p : Int))

/-- Sine of a fraction m / 2^s of a turn, 0 ≤ m < 2^s, and whether the result is an exact zero. `neg` is the sign of the argument. -/
def sinTurn (c : Ctl) (t : TyCode) (neg : Bool) (m s : Nat) : Nat × Nat :=
  -- in eighths of a turn
  let m8 := 8 * m
  let o := m8 / 2 ^ s
  let r := m8 % 2 ^ s
  -- half turns change the sign, quarter turns reflect
  let sgn := neg != decide (4 ≤ o)
  let o4 := o % 4
  if o4 = 0 && r = 0 then roundF c t (.val neg 0 0 false)
  else if o4 = 2 && r = 0 then roundF c t (.val sgn 1 0 false)
  else
    let a := match o4 with
      | 0 => (false, r)
      | 1 => (true, 2 ^ s - r)
      | 2 => (true, r)
      | _ => (false, 2 ^ s - r)
    settle c t sgn (fun p => trigFrac a.1 a.2 (s + 3) p) (fun p => -(p : Int))

/-- VFSIN (R221). -/
def sinBits (c : Ctl) (t : TyCode) (x : Exact) : Nat × Nat :=
  match x with
  | .nan => (canonNan t, 0)
  | .inf _ => (canonNan t, NV)
  | .fin neg m e =>
    let q := asFraction m e
    sinTurn c t neg (q.1 % 2 ^ q.2) q.2

/-- VFCOS: a quarter turn on, with an exact zero +0 (R221). -/
def cosBits (c : Ctl) (t : TyCode) (x : Exact) : Nat × Nat :=
  match x with
  | .nan => (canonNan t, 0)
  | .inf _ => (canonNan t, NV)
  | .fin _ m e =>
    let q := asFraction m e
    let u := (4 * q.1 + 2 ^ q.2) % 2 ^ (q.2 + 2)
    sinTurn c t false u (q.2 + 2)

end Sys2Proof.Num
end

