-- ==== Sys2Proof/Machine/LaneFloat.lean ====
section
/-! DEFINITION. Floating-point lane operations, opcodes 0x40 to 0x50 (R215 to R221). -/

namespace Sys2Proof.Machine

open Sys2Proof.Bits
open Sys2Proof.Types (width)
open Sys2Proof.Num (Exact Pre)

/-- An operand element under FLUSH (R188, R215). -/
def Issue.exact (i : Issue) (x : Nat) : Exact := Num.decodeFl i.ctl.flush i.t x

/-- The one rounding of a result into the instruction's type (R215). -/
def Issue.round (i : Issue) (p : Pre) : Nat × Nat := Num.roundF i.ctl i.t p

/-- VFADD (R215). -/
def execVfadd (f : Lane) (s : State) : Out := elementwise2 .vfadd f s fun i x y => Num.addBits i.ctl i.t x y

/-- The difference of two patterns (R215). -/
def subBits (c : Num.Ctl) (t : TyCode) (x y : Nat) : Nat × Nat :=
  Num.roundF c t (Num.addE c.rm (Num.decodeFl c.flush t x) (Num.decodeFl c.flush t y).neg)

/-- VFSUB (R215). -/
def execVfsub (f : Lane) (s : State) : Out := elementwise2 .vfsub f s fun i x y => subBits i.ctl i.t x y

/-- VFMUL (R215). -/
def execVfmul (f : Lane) (s : State) : Out := elementwise2 .vfmul f s fun i x y => Num.mulBits i.ctl i.t x y

/-- VFMA with its negations (R215). -/
def execVfma (f : Lane) (s : State) : Out :=
  elementwise3 .vfma f s fun i x y z =>
    let a := if f.mod.getLsbD 0 then (i.exact x).neg else i.exact x
    let c := if f.mod.getLsbD 1 then (i.exact z).neg else i.exact z
    i.round (Num.fmaE i.ctl.rm a (i.exact y) c)

/-- VFMIN (R216). -/
def execVfmin (f : Lane) (s : State) : Out :=
  elementwise2 .vfmin f s fun i x y => (Num.minMax i.ctl.flush (f.mod.getLsbD 0) false i.t x y, 0)

/-- VFMAX (R216). -/
def execVfmax (f : Lane) (s : State) : Out :=
  elementwise2 .vfmax f s fun i x y => (Num.minMax i.ctl.flush (f.mod.getLsbD 0) true i.t x y, 0)

/-- The conditions of VFCMP (R217). -/
def floatCompare (cc : Nat) (a b : Exact) : Bool :=
  let un := a == .nan || b == .nan
  match cc with
  | 0 => !un && Num.eqE a b
  | 1 => un || !Num.eqE a b
  | 2 => !un && Num.ltE a b
  | 3 => !un && !Num.ltE b a
  | 4 => !un && Num.ltE b a
  | 5 => !un && !Num.ltE a b
  | 6 => un
  | _ => !un

/-- VFCMP (R217). -/
def execVfcmp (f : Lane) (s : State) : Out :=
  compareWord .vfcmp f s fun i x y => floatCompare (f.mod.toNat % 8) (i.exact x) (i.exact y)

/-- The class of a raw operand, as a bit number (R218). -/
def classOf (t : TyCode) (x : Nat) : Nat :=
  let sub := Num.isSub t x
  match Num.decode t x with
  | .nan => 0
  | .inf true => 1
  | .inf false => 8
  | .fin true m _ => if m = 0 then 4 else if sub then 3 else 2
  | .fin false m _ => if m = 0 then 5 else if sub then 6 else 7

/-- VFCLASS (R218). A 16-bit element holds all nine bits. -/
def execVfclass (f : Lane) (s : State) : Out :=
  elementwise1 .vfclass f s fun i x => (2 ^ classOf i.t x, 0)

/-- The rounding mode of VFRND (R219): 4 is nearest, ties away. -/
def rndMode (m rm : Nat) : Nat :=
  match m with
  | 0 => rm
  | 1 => 0
  | 2 => 1
  | 3 => 2
  | 4 => 3
  | _ => 4

/-- VFRND: an integral value with the operand's sign, and no flag (R219). -/
def execVfrnd (f : Lane) (s : State) : Out :=
  elementwise1 .vfrnd f s fun i x =>
    match i.exact x with
    | .nan => (Num.canonNan i.t, 0)
    | .inf n => (Num.infBits i.t n, 0)
    | .fin n m e =>
      ((Num.roundF Num.rne i.t (.val n (Num.roundNat (rndMode (f.mod.toNat % 8) i.ctl.rm) n m e false) 0 false)).1, 0)

/-- VFRCP (R220). -/
def execVfrcp (f : Lane) (s : State) : Out := elementwise1 .vfrcp f s fun i x => i.round (Num.rcpE (i.exact x))

/-- VFRSQ (R220). -/
def execVfrsq (f : Lane) (s : State) : Out := elementwise1 .vfrsq f s fun i x => i.round (Num.rsqE (i.exact x))

/-- VFSQRT (R220). -/
def execVfsqrt (f : Lane) (s : State) : Out := elementwise1 .vfsqrt f s fun i x => i.round (Num.sqrtE (i.exact x))

/-- VFDIV (R215). -/
def execVfdiv (f : Lane) (s : State) : Out := elementwise2 .vfdiv f s fun i x y => Num.divBits i.ctl i.t x y

/-- VFEXP2 (R221). -/
def execVfexp2 (f : Lane) (s : State) : Out := elementwise1 .vfexp2 f s fun i x => Num.exp2Bits i.ctl i.t (i.exact x)

/-- VFLOG2 (R221). -/
def execVflog2 (f : Lane) (s : State) : Out := elementwise1 .vflog2 f s fun i x => Num.log2Bits i.ctl i.t (i.exact x)

/-- VFSIN (R221). -/
def execVfsin (f : Lane) (s : State) : Out := elementwise1 .vfsin f s fun i x => Num.sinBits i.ctl i.t (i.exact x)

/-- VFCOS (R221). -/
def execVfcos (f : Lane) (s : State) : Out := elementwise1 .vfcos f s fun i x => Num.cosBits i.ctl i.t (i.exact x)

end Sys2Proof.Machine
end

