-- ==== Sys2Proof/Machine/LaneInt.lean ====
section
/-! DEFINITION. Integer, bitwise, comparing and moving lane operations, opcodes 0x01 to 0x20 (R206 to R214). -/

namespace Sys2Proof.Machine

open Sys2Proof.Bits
open Sys2Proof.Types (width isSigned isInt isF isX)

/-- An integer result: clamped with SATF.IS under .SAT, else wrapped (R206). -/
def intResult (t : TyCode) (sat : Bool) (z : Int) : Nat × Nat :=
  if sat then Num.clampInt t z else (wrap (width t) z, 0)

/-- The .SAT modifier, bit 0 of mod. -/
def Issue.sat (i : Issue) : Bool := i.ln.mod.getLsbD 0

/-- An element as an integer of the type; b64 reads as n64 (R206). -/
def intOf (t : TyCode) (x : Nat) : Int := if isSigned t then toSigned (width t) x else x

/-- An element-wise integer operation of two sources. -/
def intOp2 (op : LOp) (ln : Lane) (s : State) (sat : Issue → Bool) (f : Int → Int → Int) : Out :=
  elementwise2 op ln s fun i x y => intResult i.t (sat i) (f (intOf i.t x) (intOf i.t y))

/-- VADD (R206). -/
def execVadd (f : Lane) (s : State) : Out := intOp2 .vadd f s Issue.sat (fun x y => x + y)

/-- VSUB (R206). -/
def execVsub (f : Lane) (s : State) : Out := intOp2 .vsub f s Issue.sat (fun x y => x - y)

/-- VMUL (R206). -/
def execVmul (f : Lane) (s : State) : Out := intOp2 .vmul f s Issue.sat (fun x y => x * y)

/-- VMULH: bits [2w-1:w] of the exact product (R206). -/
def execVmulh (f : Lane) (s : State) : Out :=
  elementwise2 .vmulh f s fun i x y =>
    (wrap (width i.t) (intOf i.t x * intOf i.t y / ((2 ^ width i.t : Nat) : Int)), 0)

/-- VMAD: no wrap between product and sum (R206). -/
def execVmad (f : Lane) (s : State) : Out :=
  elementwise3 .vmad f s fun i x y z => intResult i.t i.sat (intOf i.t x * intOf i.t y + intOf i.t z)

/-- VMADW: widening multiply-add; c is read in the wide type, its special codes too (R207; log 80). -/
def execVmadw (f : Lane) (s : State) : Out :=
  fixedLane .vmadw f s fun i =>
    let wide := Types.widen i.t
    let ww := width wide
    (i.toV fun l =>
      let as := i.elems f.a l
      let bs := i.elems f.b l
      let cs := elems ww (i.read wide f.c l)
      let n := 64 / ww
      let h := if f.mod.getLsbD 0 then n else 0
      some (joinElems ww ((List.range n).map fun k =>
        intResult wide (f.mod.getLsbD 1)
          (intOf wide (cs.getD k 0) + intOf i.t (as.getD (h + k) 0) * intOf i.t (bs.getD (h + k) 0)))), 0)

/-- VABS (R206). -/
def execVabs (f : Lane) (s : State) : Out :=
  elementwise1 .vabs f s fun i x => intResult i.t i.sat ((intOf i.t x).natAbs : Int)

/-- VNEG (R206). -/
def execVneg (f : Lane) (s : State) : Out :=
  elementwise1 .vneg f s fun i x => intResult i.t i.sat (-(intOf i.t x))

/-- VMIN (R206). -/
def execVmin (f : Lane) (s : State) : Out :=
  intOp2 .vmin f s (fun _ => false) (fun x y => if y < x then y else x)

/-- VMAX (R206). -/
def execVmax (f : Lane) (s : State) : Out :=
  intOp2 .vmax f s (fun _ => false) (fun x y => if x < y then y else x)

/-- VABSD: an unsigned pattern that always fits (R206). -/
def execVabsd (f : Lane) (s : State) : Out :=
  elementwise2 .vabsd f s fun i x y => ((intOf i.t x - intOf i.t y).natAbs, 0)

/-- VSAD: absolute differences summed into two n32 halves (R208). -/
def execVsad (f : Lane) (s : State) : Out :=
  fixedLane .vsad f s fun i =>
    (i.toV fun l =>
      let ds := List.zipWith (fun x y => (intOf i.t x - intOf i.t y).natAbs) (i.elems f.a l) (i.elems f.b l)
      let half := ds.length / 2
      let cs := elems 32 (i.read .n32 f.c l)
      let sum := fun (k : Nat) (xs : List Nat) => (cs.getD k 0 + xs.foldl (fun a b => a + b) 0) % 2 ^ 32
      some (fromElems 32 [sum 0 (ds.take half), sum 1 (ds.drop half)], 0), 0)

/-- A bitwise operation on all 64 bits (R209). -/
def bitwise2 (op : LOp) (ln : Lane) (s : State) (f : Nat → Nat → Nat) : Out :=
  fixedLane op ln s fun i => (i.toV fun l => some (f (i.read i.t ln.a l) (i.read i.t ln.b l), 0), 0)

/-- VAND (R209). -/
def execVand (f : Lane) (s : State) : Out := bitwise2 .vand f s (fun x y => x &&& y)

/-- VOR (R209). -/
def execVor (f : Lane) (s : State) : Out := bitwise2 .vor f s (fun x y => x ||| y)

/-- VXOR (R209). -/
def execVxor (f : Lane) (s : State) : Out := bitwise2 .vxor f s (fun x y => x ^^^ y)

/-- VNOT (R209). -/
def execVnot (f : Lane) (s : State) : Out :=
  fixedLane .vnot f s fun i => (i.toV fun l => some (2 ^ 64 - 1 - i.read i.t f.a l, 0), 0)

/-- Shift of an element by the low log2 w bits of another (R209). -/
def shiftWord (op : LOp) (ln : Lane) (s : State) (f : Nat → Nat → Nat → Nat) : Out :=
  elementwise2 op ln s fun i x y => (f (width i.t) x (y % width i.t), 0)

/-- VSHL (R209). -/
def execVshl (f : Lane) (s : State) : Out := shiftWord .vshl f s fun w x n => x * 2 ^ n % 2 ^ w

/-- VSHR (R209). -/
def execVshr (f : Lane) (s : State) : Out := shiftWord .vshr f s fun _ x n => x / 2 ^ n

/-- VSRA: copies the top bit, whatever the type (R209). -/
def execVsra (f : Lane) (s : State) : Out :=
  shiftWord .vsra f s fun w x n => wrap w (toSigned w x / ((2 ^ n : Nat) : Int))

/-- VROT: rotates left (R209). -/
def execVrot (f : Lane) (s : State) : Out :=
  shiftWord .vrot f s fun w x n => (x * 2 ^ n % 2 ^ w) ||| (x / 2 ^ (w - n))

/-- The field of R210: its length cut at the top of the element. -/
def fieldLen (w pos len : Nat) : Nat := min (min w len) (w - pos)

/-- VBFE (R210). -/
def execVbfe (f : Lane) (s : State) : Out :=
  elementwise3 .vbfe f s fun i x y z =>
    let w := width i.t
    let pos := y % w
    let m := fieldLen w pos (z % (2 * w))
    let v := x / 2 ^ pos % 2 ^ m
    (if m = 0 then 0 else if isSigned i.t then wrap w (toSigned m v) else v, 0)

/-- VBFI: merges into d (R210). -/
def execVbfi (f : Lane) (s : State) : Out :=
  fixedLane .vbfi f s fun i =>
    let w := width i.t
    (i.toV fun l =>
      let old := elems w (i.h.readV (vnum f.d) l).toNat
      let xs := i.elems f.a l
      let ys := i.elems f.b l
      let zs := i.elems f.c l
      some (fromElems w ((List.range (64 / w)).map fun k =>
        let pos := ys.getD k 0 % w
        let m := fieldLen w pos (zs.getD k 0 % (2 * w))
        if m = 0 then old.getD k 0 else Bits.insert pos m (old.getD k 0) (xs.getD k 0)), 0), 0)

/-- VPOPC (R209). -/
def execVpopc (f : Lane) (s : State) : Out := elementwise1 .vpopc f s fun i x => (popcount (width i.t) x, 0)

/-- VCLZ (R209). -/
def execVclz (f : Lane) (s : State) : Out := elementwise1 .vclz f s fun i x => (clz (width i.t) x, 0)

/-- VCTZ (R209). -/
def execVctz (f : Lane) (s : State) : Out := elementwise1 .vctz f s fun i x => (ctz (width i.t) x, 0)

/-- VBREV (R209). -/
def execVbrev (f : Lane) (s : State) : Out := elementwise1 .vbrev f s fun i x => (reverse (width i.t) x, 0)

/-- VBSWP (R209). -/
def execVbswp (f : Lane) (s : State) : Out :=
  elementwise1 .vbswp f s fun i x => (fromElems 8 ((List.range (width i.t / 8)).map (elem 8 x)).reverse, 0)

/-- The conditions of VCMP (R211). -/
def intCompare (cc : Nat) (x y : Int) : Bool :=
  match cc with
  | 0 => x == y
  | 1 => x != y
  | 2 => decide (x < y)
  | 3 => decide (x ≤ y)
  | 4 => decide (y < x)
  | _ => decide (y ≤ x)

/-- VCMP (R211). -/
def execVcmp (f : Lane) (s : State) : Out :=
  compareWord .vcmp f s fun i x y => intCompare (f.mod.toNat % 8) (intOf i.t x) (intOf i.t y)

/-- VSEL (R212). -/
def execVsel (f : Lane) (s : State) : Out :=
  fixedLane .vsel f s fun i =>
    (i.toV fun l =>
      let a := i.read i.t f.a l
      let b := i.read i.t f.b l
      match f.c with
      | .p p => some (if (i.h.readP p.val).getLsbD l then a else b, 0)
      | _ =>
        let m := i.read i.t f.c l
        some ((a &&& m) ||| (b &&& (2 ^ 64 - 1 - m)), 0), 0)

/-- VMOV and VMOV.SUB (R213). -/
def execVmov (f : Lane) (s : State) : Out :=
  fixedLane .vmov f s fun i =>
    (i.toV fun l =>
      let a := i.read i.t f.a l
      if f.mod.getLsbD 0 then
        let w := width i.t
        some (setElem w (i.h.readV (vnum f.d) l).toNat (f.x24.toNat % 16) (elem w a (f.x24.toNat / 256 % 16)), 0)
      else some (a, 0), 0)

/-- VPACK (R214). -/
def execVpack (f : Lane) (s : State) : Out :=
  fixedLane .vpack f s fun i =>
    (i.toV fun l =>
      let src := i.elems f.a l ++ i.elems f.b l
      let o := if f.mod.getLsbD 0 then 1 else 0
      some (fromElems (width i.t) ((List.range (64 / width i.t)).map fun k => src.getD (2 * k + o) 0), 0), 0)

/-- VUNPK (R214). -/
def execVunpk (f : Lane) (s : State) : Out :=
  fixedLane .vunpk f s fun i =>
    (i.toV fun l =>
      let src := (List.zipWith (fun x y => [x, y]) (i.elems f.a l) (i.elems f.b l)).flatten
      let e := 64 / width i.t
      some (fromElems (width i.t) (if f.mod.getLsbD 0 then src.drop e else src.take e), 0), 0)

end Sys2Proof.Machine
end

