-- ==== Sys2Proof/Machine/LaneCross.lean ====
section
/-! DEFINITION. Cross-lane operations, opcodes 0x60 to 0x69 (R228 to R235). -/

namespace Sys2Proof.Machine

open Sys2Proof.Bits
open Sys2Proof.Types (width isF)

/-- Whether a lane is active. -/
def Issue.isActive (i : Issue) (l : Nat) : Bool := i.active.getLsbD l

/-- The lane and element that element k of a lane reads under VXLN, or none where there is no active source (R228). -/
def Issue.xlnSource (i : Issue) (lane k : Nat) : Option (Nat × Nat) :=
  let e := 64 / width i.t
  let b := toSigned 32 (i.read .i32 i.ln.b lane)
  let off := toSigned 12 i.ln.x24.toNat
  let j0 : Int := (if i.ln.mod.getLsbD 0 then (b + off) * e else b + off) + k
  let n : Int := i.h.width * e
  let j := if i.ln.mod.getLsbD 1 then j0 % n else j0
  if 0 ≤ j && j < n && i.isActive (j.toNat / e) then some (j.toNat / e, j.toNat % e) else none

/-- VXLN (R228). -/
def execVxln (f : Lane) (s : State) : Out :=
  fixedWord .vxln f s
    (fun i l => (List.range (64 / width i.t)).map fun k => ((i.xlnSource l k).map (fun p => p.1)).getD l)
    fun i =>
      let w := width i.t
      let src := fun (l k : Nat) =>
        match i.xlnSource l k with
        | some (m, q) => elem w (i.read i.t f.a m) q
        | none => elem w (i.read i.t f.a l) k
      let v := i.toV fun l => some (fromElems w ((List.range (64 / w)).map (src l)), 0)
      let p := i.toP (pnum f.c) fun l => (List.range (64 / w)).all fun k => (i.xlnSource l k).isSome
      ({ v with p := p.p }, 0)

/-- The quad position a lane's selector names (R229). -/
def selector (ln : Lane) (lane : Nat) : Nat := lane - lane % 4 + ln.x24.toNat / 4 ^ (lane % 4) % 4

/-- VQSWZ (R229). -/
def execVqswz (f : Lane) (s : State) : Out :=
  fixedWord .vqswz f s
    (fun i l => [selector f l].filter i.isActive)
    fun i =>
      (i.toV fun l =>
        let m := selector f l
        if i.isActive m then some (i.read i.t f.a m, 0) else none, 0)

/-- The lanes whose difference VQDX (or VQDY) takes: the minuend, then the subtrahend (R230). -/
def diffLanes (ln : Lane) (y : Bool) (lane : Nat) : Nat × Nat :=
  let q := lane - lane % 4
  let keep := ln.mod.getLsbD 0
  if y then let x := if keep then 0 else lane % 2; (q + x + 2, q + x)
  else let r := if keep then 0 else lane % 4 / 2; (q + 2 * r + 1, q + 2 * r)

/-- VQDX and VQDY (R230). -/
def quadDiff (op : LOp) (y : Bool) (f : Lane) (s : State) : Out :=
  fixedWord op f s
    (fun i l =>
      let p := diffLanes f y l
      if i.isActive p.1 && i.isActive p.2 then [p.1, p.2] else [])
    fun i =>
      (i.toV fun l =>
        let p := diffLanes f y l
        if i.isActive p.1 && i.isActive p.2 then
          some (joinElems (width i.t) (List.zipWith (subBits i.ctl i.t) (i.elems f.a p.1) (i.elems f.a p.2)))
        else none, 0)

/-- VQDX (R230). -/
def execVqdx (f : Lane) (s : State) : Out := quadDiff .vqdx false f s

/-- VQDY (R230). -/
def execVqdy (f : Lane) (s : State) : Out := quadDiff .vqdy true f s

/-- VMATCH (R231). -/
def execVmatch (f : Lane) (s : State) : Out :=
  fixedLane .vmatch f s fun i =>
    let w := width i.t
    let x := fun l => i.read i.t f.a l % 2 ^ w
    (i.toV fun l => some (maskOf (i.lanes.filter fun m => x m == x l), 0), 0)

/-- VBALLOT (R232). -/
def execVballot (f : Lane) (s : State) : Out :=
  fixedLane .vballot f s fun i =>
    let m := i.active &&& i.h.readP (pnum f.a)
    match f.d with
    | .s r => ({ Writes.none with s := [(r.val, m)] }, 0)
    | _ => (i.toV fun _ => some (m.toNat, 0), 0)

/-- VVOTE (R233). -/
def execVvote (f : Lane) (s : State) : Out :=
  fixedLane .vvote f s fun i =>
    let p := i.h.readP (pnum f.a)
    let any := i.lanes.any fun l => p.getLsbD l
    let all := i.lanes.all fun l => p.getLsbD l
    let r := match f.mod.toNat % 4 with
      | 0 => any
      | 1 => all
      | _ => all || !any
    (i.toP (pnum f.d) fun _ => r, 0)

/-- The identity of a fold (R234). -/
def foldIdentity (op : Nat) (t : TyCode) : Nat :=
  match op with
  | 0 => if isF t then Num.signBit t else 0
  | 1 => if isF t then Num.infBits t false else wrap (width t) (Num.intMax t)
  | 2 => if isF t then Num.infBits t true else wrap (width t) (Num.intMin t)
  | 3 => 2 ^ width t - 1
  | _ => 0

/-- One step of a fold: pattern and SATF bits (R234). -/
def foldOp (op : Nat) (c : Num.Ctl) (t : TyCode) (x y : Nat) : Nat × Nat :=
  match op with
  | 0 => if isF t then Num.addBits c t x y else ((x + y) % 2 ^ width t, 0)
  | 1 => if isF t then (Num.minMax c.flush false false t x y, 0) else (if intOf t y < intOf t x then y else x, 0)
  | 2 => if isF t then (Num.minMax c.flush false true t x y, 0) else (if intOf t x < intOf t y then y else x, 0)
  | 3 => (x &&& y, 0)
  | 4 => (x ||| y, 0)
  | _ => (x ^^^ y, 0)

/-- An element as a fold takes it first: one of a floating type is read as an operand and written as a result, so a NaN becomes the canonical
NaN, and a subnormal under FLUSH a zero of its sign (R183, R188, R234). -/
def foldFirst (c : Num.Ctl) (t : TyCode) (x : Nat) : Nat := if isF t then Num.minMax c.flush false false t x x else x

/-- The fold of R234 over a list: before and after each element, the flags so far, and the final value. -/
def foldScan (op : Nat) (c : Num.Ctl) (t : TyCode) : Option Nat → Nat → List Nat → List (Nat × Nat) × Nat × Nat
  | acc, fl, [] => ([], acc.getD (foldIdentity op t), fl)
  | acc, fl, x :: xs =>
    let prev := acc.getD (foldIdentity op t)
    let r := match acc with | none => (foldFirst c t x, 0) | some a => foldOp op c t a x
    let rest := foldScan op c t (some r.1) (fl ||| r.2) xs
    ((prev, r.1) :: rest.1, rest.2.1, rest.2.2)

/-- All elements of the active lanes in increasing index. -/
def Issue.allElems (i : Issue) : List Nat := i.lanes.flatMap fun l => i.elems i.ln.a l

/-- VSCAN (R234). -/
def execVscan (f : Lane) (s : State) : Out :=
  fixedLane .vscan f s fun i =>
    let w := width i.t
    let e := 64 / w
    let r := foldScan (f.mod.toNat % 8) i.ctl i.t none 0 i.allElems
    let outs := r.1.map fun p => if f.mod.getLsbD 3 then p.1 else p.2
    let v := (List.range i.lanes.length).map fun k =>
      ((vnum f.d, i.lanes.getD k 0), BitVec.ofNat 64 (fromElems w ((outs.drop (k * e)).take e)))
    ({ Writes.none with v := v, satf := BitVec.ofNat 4 r.2.2 }, 0)

/-- VRED (R234). -/
def execVred (f : Lane) (s : State) : Out :=
  fixedLane .vred f s fun i =>
    let r := foldScan (f.mod.toNat % 8) i.ctl i.t none 0 i.allElems
    match f.d with
    | .s n => ({ Writes.none with s := [(n.val, BitVec.ofNat 64 (r.2.1 % 2 ^ width i.t))], satf := BitVec.ofNat 4 r.2.2 }, 0)
    | _ => ({ i.toV fun _ => some (replicate i.t r.2.1, 0) with satf := BitVec.ofNat 4 r.2.2 }, 0)

/-- The lane VBCAST copies, where it is active (R235). -/
def Issue.bcastLane (i : Issue) : Option Nat :=
  if i.ln.mod.getLsbD 0 then i.lanes.head?
  else
    let n := i.read .n64 i.ln.b 0
    if n < i.h.width && i.isActive n then some n else none

/-- VBCAST (R235). -/
def execVbcast (f : Lane) (s : State) : Out :=
  fixedWord .vbcast f s (fun i _ => i.bcastLane.toList) fun i =>
    (i.toV fun _ => i.bcastLane.map fun m => (i.read i.t f.a m, 0), 0)

end Sys2Proof.Machine
end

