-- ==== Sys2Proof/Machine/Control.lean ====
section
/-! DEFINITION. Reading device control space: every register of every block (R41 to R46, R239, R243, R250, R279, R331, R391, R414, R432, R433). -/

namespace Sys2Proof.Machine

open Sys2Proof.Bits

/-- A bit as a number at a place. -/
def bitAt (b : Bool) (i : Nat) : Nat := b.toNat * 2 ^ i

/-- A read of a write-only register at an offset: its fields, which stand in bits hi to lo, are a free value, and its reserved bits read
zero (R11). Log 13. -/
def writeOnly (off hi lo : Nat) : Word := BitVec.ofNat 64 (field hi lo (Config.writeOnly off).toNat * 2 ^ lo)

/-- OWNSTAT (R43). -/
def Owner.stat (o : Owner) : Nat :=
  (match o.state with | .elect => 0 | .unowned => 1 | .owned => 2 | .giving => 3)
    + o.owner.val * 2 ^ 8 + o.target.val * 2 ^ 10 + o.claims.toNat * 2 ^ 16 + o.nowr.toNat * 2 ^ 20

/-- GSTAT (R46). -/
def State.gstat (s : State) : Nat :=
  maskOf (s.frames.map (fun f => f.slot)) + s.frames.length * 2 ^ 8 + s.gu.queue.length * 2 ^ 16
    + bitAt s.gu.aflt 20 + bitAt s.gu.xmiss 21 + bitAt s.gu.sqovf 22 + bitAt s.gu.sbad 23

/-- GNETn (R331). -/
def Net.control (n : Net) : Nat := n.daddr.toNat * 2 ^ 6 + bitAt n.wign 2 + bitAt n.dbad 1 + bitAt n.en 0

/-- GNSTn (R331). -/
def Net.status (n : Net) : Nat :=
  n.drops * 2 ^ 40 + n.fill * 2 ^ 23 + n.tail * 2 ^ 3 + bitAt n.neww 1 + bitAt n.cur 0

/-- A net by number. -/
def State.net (s : State) (n : Nat) : Net := s.nets.getD n .fresh

/-- The device description (R432). -/
def State.readDevice (s : State) (off : Nat) : Word :=
  let d := s.dev
  BitVec.ofNat 64 (match off with
    | 0x000 => 0x0960 * 2 ^ 48 + Config.revision % 256 * 2 ^ 40
    | 0x008 => 2 + 96 * 2 ^ 8 + 12 * 2 ^ 16 + 12 * 2 ^ 24 + 4 * 2 ^ 32 + 8 * 2 ^ 36
    | 0x010 => Config.gddrBytes / 2 ^ 20 + 256 * 2 ^ 32
    | 0x018 => Config.nominalPeriod 0
    | 0x020 => Config.nominalPeriod 1
    | 0x028 => Config.nominalPeriod 2
    | 0x030 => Config.nominalPeriod 3
    | 0x038 => d.unitbad.toNat
    | 0x040 => ofBytes ((d.idpub.drop 0).take 8)
    | 0x048 => ofBytes ((d.idpub.drop 8).take 8)
    | 0x050 => ofBytes ((d.idpub.drop 16).take 8)
    | 0x058 => ofBytes ((d.idpub.drop 24).take 8)
    | 0x060 => d.spares0 + d.spares1 * 2 ^ 4
    | 0x068 => bitAt d.linkUp 0 + bitAt s.cfg.link 1 + bitAt s.cfg.linkRank 2 + bitAt d.rkdup 3
    | 0x070 => d.linkrpl.toNat
    | 0x078 => d.linkdrp.toNat
    | 0x080 => d.tjmax.toNat
    | 0x088 => 1 + bitAt s.cfg.rootComplex 1 + 4 + 8 + 1 * 2 ^ 4 + 16 * 2 ^ 8
    | 0x090 => d.clscal.getD 0 0
    | 0x098 => d.clscal.getD 1 0
    | 0x0A0 => d.clscal.getD 2 0
    | 0x0A8 => d.clscal.getD 3 0
    | _ => 0)

/-- The graph-unit block (R42 to R46, R331). -/
def State.readGraph (s : State) (off : Nat) : Word :=
  match off with
  | 0x000 => BitVec.ofNat 64 s.own.stat
  | 0x008 => writeOnly 0x010008 5 0
  | 0x040 => writeOnly 0x010040 55 6
  | 0x048 => BitVec.ofNat 64 s.gstat
  | 0x050 => writeOnly 0x010050 55 16
  | 0x058 => BitVec.ofNat 64 (s.gu.rsvb * 2 ^ 8 + s.gu.rsvc)
  | 0x060 => BitVec.ofNat 64 (s.gu.tp1 * 2 ^ 16 + s.gu.tp0)
  | 0x068 => writeOnly 0x010068 33 0
  | _ =>
    if 0x080 ≤ off && off < 0x0C0 then
      let n := s.net ((off - 0x080) / 16)
      BitVec.ofNat 64 (if off % 16 = 0 then n.control else n.status)
    else 0

/-- A stack's vat. -/
def State.vat (s : State) (st : StackId) : Vat := if st = 0 then s.vat0 else s.vat1

/-- Replaces a stack's vat. -/
def State.setVat (s : State) (st : StackId) (v : Vat) : State := if st = 0 then { s with vat0 := v } else { s with vat1 := v }

/-- Lines now pinned by leases; a line under several leases counts once (R277, R279). -/
def Vat.pinned (v : Vat) : List Nat := (v.leases.flatMap (fun l => l.lines)).eraseDups

/-- A vat block (R250, R276, R279). -/
def State.readVat (s : State) (st : StackId) (off : Nat) : Word :=
  let v := s.vat st
  match off with
  | 0x000 => BitVec.ofNat 64 v.dp
  | 0x008 => BitVec.ofNat 64 (bitAt v.refd 31 + v.pinned.length)
  | 0x010 => writeOnly (0x030010 + st.val * 0x10000) 51 4
  | _ => 0

/-- The fault-queue and event-ring block (R391, R414). -/
def State.readQueues (s : State) (off : Nat) : Word :=
  let q := s.fq
  let e := s.ev
  BitVec.ofNat 64 (match off with
    | 0x000 => q.base.toNat * 2 ^ 12 + q.logn * 2 + bitAt q.en 0
    | 0x008 => q.head.toNat
    | 0x010 => q.tail.toNat
    | 0x018 => min q.waiting.length 65535 * 2 ^ 16 + bitAt q.rmiss 2 + bitAt q.svfull 1 + bitAt q.werr 0
    | 0x020 => q.svbase0.toNat * 2 ^ 23 + q.svn0.toNat
    | 0x028 => q.svbase1.toNat * 2 ^ 23 + q.svn1.toNat
    | 0x040 => e.base.toNat * 2 ^ 12 + e.logn * 2 + bitAt e.en 0
    | 0x048 => e.head.toNat
    | 0x050 => e.tail.toNat
    | 0x058 => e.time * 2 ^ 16 + e.cntm1
    | 0x060 => min e.waiting.length 65535 * 2 ^ 16 + bitAt e.werr 2 + bitAt e.irq 1
    | _ => 0)

/-- The service block (R433). -/
def State.readService (s : State) (off : Nat) : Word :=
  match off with
  | 0x000 => writeOnly 0x060000 19 0
  | 0x008 => BitVec.ofNat 64 (bitAt s.svc.busy 0 + bitAt s.svc.done 1 + s.svc.code * 2 ^ 8)
  | 0x010 => BitVec.ofNat 64 (s.svc.addr.toNat * 2 ^ 6)
  | _ => 0

/-- The translation block (R243). -/
def State.readTranslation (s : State) (off : Nat) : Word :=
  match off with
  | 0x000 => BitVec.ofNat 64 (s.xl.root.toNat * 2 ^ 12 + bitAt s.xl.en 0)
  | 0x008 => writeOnly 0x020008 55 2
  | 0x010 => BitVec.ofNat 64 (bitAt s.xl.inv.isSome 0 + bitAt s.xl.dropped 1 + bitAt s.xl.cbad 2)
  | _ => 0

/-- The register at an offset of device control space, as any master reads it (R41, R239); 0 where no block defines one. -/
def State.readControl (s : State) (off : Nat) : Word :=
  let low := off % 0x10000
  match off / 0x10000 with
  | 0 => s.readDevice low
  | 1 => s.readGraph low
  | 2 => s.readTranslation low
  | 3 => s.readVat 0 low
  | 4 => s.readVat 1 low
  | 5 => s.readQueues low
  | 6 => s.readService low
  | _ => 0

end Sys2Proof.Machine
end

