-- ==== Sys2Proof/Machine/Space.lean ====
section
/-! DEFINITION. Address spaces: the physical map, the page walk and its permissions, transient windows, and loads and stores as accesses of the global order (R34 to R37, R236 to R260, R359 to R372). -/

namespace Sys2Proof.Machine

open Sys2Proof.Bits

/-! ## The physical map (R238) -/

/-- What a physical address names (R238). -/
inductive Region where
  | gddr | vat (st : StackId) (page : Nat) | control | pcie | nothing
  deriving DecidableEq, Repr

/-- Base of a stack's vat in the physical map. -/
def vatBase (st : Nat) : Nat := 0x010000000000 + st * 0x10000000

/-- Base of device control space. -/
def controlBase : Nat := 0x020000000000

/-- The region of a physical address. -/
def regionOf (pa : Nat) : Region :=
  if pa < Config.gddrBytes then .gddr
  else if vatBase 0 ≤ pa && pa < vatBase 1 then .vat 0 ((pa - vatBase 0) / 65536)
  else if vatBase 1 ≤ pa && pa < vatBase 2 then .vat 1 ((pa - vatBase 1) / 65536)
  else if controlBase ≤ pa && pa < controlBase + 0x1000000 then .control
  else if 0x8000000000000 ≤ pa && pa < 0x10000000000000 then .pcie
  else .nothing

/-- One past the end of the range an address lies in (R242). -/
def regionEnd (pa : Nat) : Nat :=
  match regionOf pa with
  | .gddr => Config.gddrBytes
  | .vat st _ => vatBase (st.val + 1)
  | .control => controlBase + 0x1000000
  | .pcie => 0x10000000000000
  | .nothing => 0

/-- I/O space: device control space and PCIe space (R238). -/
def isIO (pa : Nat) : Bool := regionOf pa == .control || regionOf pa == .pcie

/-- Whether every byte of a range lies in GDDR 7 or in direct vat pages (R242, R250). -/
def State.plainRange (s : State) (pa n : Nat) : Bool :=
  match regionOf pa with
  | .gddr => pa + n ≤ Config.gddrBytes
  | .vat st _ => (pa + n - 1 - vatBase st.val) / 65536 < (s.vat st).dp && pa + n ≤ vatBase (st.val + 1)
  | _ => false

/-- Whether a physical access meets no memory: a bus error (R238, R250). -/
def State.busError (s : State) (pa : Nat) : Bool :=
  match regionOf pa with
  | .nothing => true
  | .vat st page => (s.vat st).dp ≤ page
  | _ => false

/-! ## The apertures (R237) -/

/-- First address of the apertures (R237). -/
def apertureBase : Nat := 0xFF000000000000

/-- First address of the control aperture (R237). -/
def controlAperture : Nat := 0xFF010000000000

/-- Whether an address lies in the range of the apertures (R237). -/
def inAperture (va : Nat) : Bool := apertureBase ≤ va && va < 2 ^ 56

/-- Whether an address lies in the copy aperture (R237). -/
def inCopyAperture (va : Nat) : Bool := apertureBase ≤ va && va < apertureBase + 128

/-- Whether an address lies in the control aperture (R237). -/
def inControlAperture (va : Nat) : Bool := controlAperture ≤ va && va < controlAperture + 0x1000000

/-! ## Page entries and the walk (R240 to R242) -/

/-- Kinds of access, as the permission rules tell them apart (R240, R248, R259, R392). -/
inductive Access where
  | fetch | load | store | atomic | sync | copyRead | copyWrite
  deriving DecidableEq, Repr

/-- AKIND of a fault record (R392). -/
def Access.akind : Access → Nat
  | .fetch => 0 | .load => 1 | .store => 2 | .atomic => 3 | .sync => 3 | .copyRead => 4 | .copyWrite => 5

/-- Whether an access needs W (R240). -/
def Access.writes : Access → Bool
  | .store | .atomic | .sync | .copyWrite => true
  | _ => false

/-- Who makes an access: the core of a lane or scalar access, and the pass it belongs to, by frame serial and pass index. -/
structure Who where
  core : Option Nat
  pass : Option (Nat × Nat)
  deriving DecidableEq, Repr

/-- Index bits of a level: low bit and width (R241). -/
def levelIndex (lv va : Nat) : Nat :=
  match lv with
  | 1 => field 55 47 va
  | 2 => field 46 38 va
  | 3 => field 37 29 va
  | 4 => field 28 21 va
  | _ => field 20 16 va

/-- Size of the table of a level (R241). -/
def tableSize (lv : Nat) : Nat := if lv ≤ 3 then 4096 else if lv = 4 then 2048 else 256

/-- Size of a leaf's page at levels 3 to 5 (R241). -/
def pageSize (lv : Nat) : Nat := if lv = 3 then 2 ^ 29 else if lv = 4 then 2 ^ 21 else 2 ^ 16

/-- ATTR of an entry: 0 CACHED, 1 FAR, 2 RO, 3 PRIVATE (R240). -/
def entryAttr (e : Nat) : Nat := field 6 5 e

/-- The physical address in an entry (R240). -/
def entryAddr (e : Nat) : Nat := field 51 8 e * 256

/-- Whether a valid entry is bad at its level (R242). -/
def State.entryBad (s : State) (lv e : Nat) : Bool :=
  let leaf := e.testBit 1
  let a := entryAddr e
  let attr := entryAttr e
  let ownc := field 63 56 e
  field 55 52 e != 0 || e.testBit 2
    || (if leaf then
          lv ≤ 2 || a % pageSize lv != 0 || (e.testBit 7 && lv != 4)
            || (attr != 3 && ownc != 0) || ownc > 191
            || (attr == 2 && e.testBit 3)
            || (isIO a && (attr != 1 || e.testBit 4))
            || (regionOf a != .nothing && regionEnd a < a + pageSize lv)
        else
          lv == 5 || a % tableSize (lv + 1) != 0 || e.testBit 7 || attr != 0 || e.testBit 4 || e.testBit 3 || ownc != 0
            || !s.plainRange a (tableSize (lv + 1)))

/-- What a walk finds: a fault of R385, or the leaf with its level and the place of its entry. -/
inductive WalkResult where
  | fault (cause detail : Nat)
  | leaf (lv e entryPa : Nat)
  deriving DecidableEq, Repr

/-- The five levels of R241 from a table; fuel counts the levels left. An uncorrectable entry is a bad entry (R407). -/
def State.walkFrom (s : State) (va : Nat) : Nat → Nat → WalkResult
  | 0, _ => .fault 0x23 5
  | n + 1, t =>
    let lv := 5 - n
    let pa := t + 8 * levelIndex lv va
    let e := s.mem.readN pa 8
    if s.memBad pa then .fault 0x23 lv
    else if !e.testBit 0 then .fault 0x22 0
    else if s.entryBad lv e then .fault 0x23 lv
    else if e.testBit 1 then .leaf lv e pa
    else s.walkFrom va n (entryAddr e)

/-- The walk of R241 outside transient windows. -/
def State.walk (s : State) (va : Nat) : WalkResult :=
  if !s.xl.en then .fault 0x22 0
  else
    let root := s.xl.root.toNat * 4096
    if !s.plainRange root 4096 then .fault 0x23 0 else s.walkFrom va 5 root

/-- Whether the walk of an address meets a candidate run that fails its check (R242). -/
def State.failedRun (s : State) (va : Nat) : Bool :=
  match s.walk va with
  | .leaf 4 e pa =>
    e.testBit 7 && (
      let first := pa - pa % 128
      let es := (List.range 16).map (fun i => s.mem.readN (first + 8 * i) 8)
      let e0 := es.headD 0
      !((List.range 16).all (fun i =>
        let x := es.getD i 0
        x.testBit 0 && x.testBit 1 && x.testBit 7 && !s.entryBad 4 x && entryAttr x == entryAttr e0
          && x.testBit 3 == e0.testBit 3 && x.testBit 4 == e0.testBit 4 && field 63 56 x == field 63 56 e0
          && entryAddr x == entryAddr e0 + i * 2 ^ 21)))
  | _ => false


/-! ## Transient windows (R20, R30, R34 to R37) -/

/-- Bytes of a transient's window (R20). -/
def Ring.span (r : Ring) : Nat := r.gx * r.gy * r.slotp * 65536

/-- The ring whose window holds a virtual address (R20). Of windows of two frames, or of a frame and a held exported transient, that overlap, the
oldest ring serves the address (DESIGN CHOICE, log 118). -/
def State.ringAt (s : State) (va : Nat) : Option Ring :=
  s.rings.find? (fun r => r.winva.toNat ≤ va && va < r.winva.toNat + r.span)

/-- The physical address of a byte of a mapped tile (R30). -/
def Ring.physical (r : Ring) (sl : RingSlot) (off : Nat) : Nat :=
  let page := sl.index * r.slotp + off / 65536
  (if sl.isOvf then r.ovfpages.getD page 0 else vatBase r.stack + r.pages.getD page 0 * 65536) + off % 65536

/-- The mapping of a window address for an access (R34, R35, R259). -/
def Ring.translate (r : Ring) (w : Who) (k : Access) (va : Nat) : Except (Nat × Nat) Nat :=
  let tileBytes := r.slotp * 65536
  let off := va - r.winva.toNat
  match r.held.find? (fun sl => sl.tile == off / tileBytes) with
  | none => .error (0x2A, 0)
  | some sl =>
    if k = .fetch then .error (0x24, 2)
    else if k = .sync && !sl.isOvf then .error (0x24, 4)
    else if k.writes && (sl.retired || w.pass != some (r.frame, r.prod)) then .error (0x2B, 0)
    else .ok (r.physical sl (off % tileBytes))

/-! ## TLBs (R242, R244) -/

/-- Whether an address makes a walk: not at or above 2^56, in an aperture, or in a transient's window (R236, R237, R241). -/
def State.walks (s : State) (va : Nat) : Bool := decide (va < 2 ^ 56) && !inAperture va && (s.ringAt va).isNone

/-- The TLBs that an agent's translations meet, with the entries of each: a core's 64 and its cluster's 2,048; an agent that is no core is
served by the walkers, for which no number is given, as 0 says here (R244). Log 16. -/
def Who.tlbs (w : Who) : List (Nat × Nat) :=
  match w.core with
  | some c => [(c, 64), (192 + c / 8, 2048)]
  | none => [(216, 0)]

/-- Whether a TLB's translation covers an address. -/
def TlbEntry.has (e : TlbEntry) (va : Nat) : Bool := decide (e.base ≤ va) && decide (va < e.base + e.size)

/-- The translations of an address that an agent's TLBs hold (R244). -/
def Caches.tlbHits (c : Caches) (w : Who) (va : Nat) : List TlbEntry :=
  c.tlb.filter fun e => e.has va && w.tlbs.any fun x => x.1 == e.holder

/-- A TLB of some entries takes a translation; a full one gives up the one it has held longest (R244). Log 16. -/
def Caches.fill (c : Caches) (x : Nat × Nat) (t : TlbEntry) : Caches :=
  let e := { t with holder := x.1 }
  if c.tlb.contains e then c
  else
    let mine := c.tlb.filter fun y => y.holder == x.1
    { c with tlb := e :: if x.2 != 0 && decide (x.2 ≤ mine.length) then c.tlb.erase (mine.getLast?.getD e) else c.tlb }

/-- The leaf that a TLB's translation gives for an address (R242). -/
def TlbEntry.leafAt (t : TlbEntry) (va : Nat) : Nat := t.leaf + (va - t.base) / pageSize t.level * pageSize t.level

/-- Whether a TLB's translation of an address is what a walk finds. -/
def TlbEntry.agrees (t : TlbEntry) (va : Nat) : WalkResult → Bool
  | .leaf lv e _ => t.level == lv && t.leafAt va == e
  | .fault _ _ => false

/-- The leaf that translates an address, with its level: a translation that a TLB holds, or a walk made now; which, is free where they
differ (R241, R244). -/
def State.leafOf (s : State) (w : Who) (va : Nat) : WalkResult :=
  let hits := s.caches.tlbHits w va
  let walked := s.walk va
  if !s.xl.en || hits.all (fun t => t.agrees va walked) then walked
  else
    match hits[Config.tlbPick s.time va % (hits.length + 1)]? with
    | some t => .leaf t.level (t.leafAt va) 0
    | none => walked

/-- The entry with which a TLB is filled by a walk: a page, or a 32 MiB run that passes its check, by the leaf of its first page
(R242). -/
def State.tlbFill (s : State) (va lv e : Nat) : TlbEntry :=
  if lv = 4 && e.testBit 7 && !s.failedRun va then ⟨0, va - va % 2 ^ 25, 2 ^ 25, 4, e - va / 2 ^ 21 % 16 * 2 ^ 21⟩
  else ⟨0, va - va % pageSize lv, pageSize lv, lv, e⟩

/-! ## Translation with permissions (R240, R245 to R248, R259) -/

/-- The permission rules of a leaf: the lowest cause first (R247, R248, R259, R386). -/
def State.leafFault (s : State) (w : Who) (k : Access) (e pa : Nat) : Option (Nat × Nat) :=
  let attr := entryAttr e
  if k = .sync && (attr == 2 || attr == 3 || isIO pa) then some (0x24, 4)
  else if k.writes && (!e.testBit 3 || attr == 2) then some (0x24, 1)
  else if k = .fetch && !e.testBit 4 then some (0x24, 2)
  else if attr == 3 && w.core != some (field 63 56 e) then some (0x25, 0)
  else if s.busError pa then some (0x27, 0)
  else none

/-- Translation of a virtual address below 2^56: the physical address and the page attribute, or a cause and detail (R241, R385). -/
def State.translate (s : State) (w : Who) (k : Access) (va : Nat) : Except (Nat × Nat) (Nat × Nat) :=
  match s.ringAt va with
  | some r => (r.translate w k va).map (fun pa => (pa, 0))
  | none =>
    match s.leafOf w va with
    | .fault c d => .error (c, d)
    | .leaf lv e _ =>
      let pa := entryAddr e + va % pageSize lv
      match s.leafFault w k e pa with
      | some f => .error f
      | none => .ok (pa, entryAttr e)

/-- An access of `size` bytes at a 64-bit address: address range, translation, permission, alignment; the lowest cause (R236, R248, R386). -/
def State.check (s : State) (w : Who) (k : Access) (va size : Nat) : Except (Nat × Nat) (Nat × Nat) :=
  let bad := va % size != 0
  if 2 ^ 56 ≤ va then .error (0x26, 0)
  else
    match s.translate w k va with
    | .ok r => if bad then .error (0x28, 0) else .ok r
    | .error f => if bad && 0x28 < f.1 then .error (0x28, 0) else .error f

/-- The physical address of a scalar access to global memory, or its fault; aperture addresses take the address-range fault (R237). -/
def State.checkGlobal (s : State) (w : Who) (k : Access) (va size : Nat) : Except (Nat × Nat) (Nat × Nat) :=
  if inAperture va then .error (0x26, 0) else s.check w k va size

/-- The issuing group as an agent of translation. -/
def Group.who (g : Group) : Who := ⟨some g.core, some (g.frame, g.tref.pass)⟩

/-! ## Loads and stores in the global order -/

/-- MEME, when a range touches an uncorrectable line (R407). -/
def State.memErrBits (s : State) (pa n : Nat) : BitVec 9 :=
  if (linesOf pa n).any (fun l => s.memErr.any (fun e => e.1 == l)) then MEME else 0

/-- The number in n bytes of control space: each byte is one of the register that holds it (R41, R239). -/
def State.controlN (s : State) : Nat → Nat → Nat
  | _, 0 => 0
  | off, n + 1 => (s.readControl (off - off % 8)).toNat >>> (8 * (off % 8)) % 256 + 256 * s.controlN (off + 1) n

/-- The number an access of n bytes reads at its place: registers of control space (R41, R239), or bytes. -/
def State.readPhys (s : State) (pa n : Nat) : Nat :=
  if regionOf pa = .control then s.controlN (pa - controlBase) n else s.bytesN pa n


/-! ## Home slices, banks, and gated arrays that accesses wake (R246, R249, R262, R263) -/

/-- The home slice of a physical line, as 64 · stack + slice (R246, R249). -/
def homeSlice (pa : Nat) : Nat :=
  match regionOf pa with
  | .vat st _ => 64 * st.val + field 12 7 pa
  | _ => 64 * ((field 11 11 pa) ^^^ (field 23 23 pa) ^^^ (field 31 31 pa)) + ((field 12 7 pa) ^^^ (field 18 13 pa))

/-- The bank, within its home slice, of a physical line: of a GDDR 7 line, that in which it is cached (R249, R250). Log 74. -/
def bankIn (pa : Nat) : Fin 16 :=
  match regionOf pa with
  | .vat _ _ => Fin.ofNat 16 (field 16 13 pa)
  | _ => Fin.ofNat 16 (Config.cacheBank (pa / 128))

/-- The bank of a physical line. -/
def bankOf (pa : Nat) : GatedArray := .vatBank (Fin.ofNat 2 (homeSlice pa / 64)) (Fin.ofNat 64 (homeSlice pa)) (bankIn pa)

/-- The number of a bank of a stack's vat. -/
def bankNumber (slice : Fin 64) (bank : Fin 16) : Nat := 16 * slice.val + bank.val

/-- Whether an array is gated. -/
def State.isGated (s : State) : GatedArray → Bool
  | .vatBank st slice bank => (s.vat st).gatedBanks.contains (bankNumber slice bank)
  | .l1Way core way => (s.core core).gatedWays.contains way
  | .scratch core range => (s.core core).gated.contains range

/-- An access meets an array: if it is gated, its wake-up begins, of at most 1.5 µs (R263). -/
def State.wakeArray (s : State) (arr : GatedArray) : State :=
  if !s.isGated arr || s.waking.any (fun x => x.1 == arr) then s
  else { s with waking := s.waking ++ [(arr, s.time + Config.latency s.free % 1500001)], free := s.free + 1 }

/-- The banks that a range of memory meets. -/
def banksOf (pa n : Nat) : List GatedArray :=
  if regionOf pa == .control || regionOf pa == .pcie then [] else ((linesOf pa n).map fun l => bankOf (128 * l)).eraseDups

/-- Accesses to a range wake the banks that hold it (R263). -/
def State.touchBanks (s : State) (pa n : Nat) : State :=
  if s.vat0.gatedBanks = [] && s.vat1.gatedBanks = [] then s else (banksOf pa n).foldl State.wakeArray s

/-- The 4 KiB scratchpad ranges that an access meets. -/
def rangesOf (core a n : Nat) : List GatedArray := ((wordsOf a n).map fun w => GatedArray.scratch core (w / 512)).eraseDups

/-- An access to the scratchpad wakes the ranges that it meets (R263). -/
def State.touchScratch (s : State) (core a n : Nat) : State :=
  if (s.core core).gated = [] then s else (rangesOf core a n).foldl State.wakeArray s

/-- The addresses of the entries that a walk reads; fuel counts the levels left (R241). -/
def State.walkPath (s : State) (va : Nat) : Nat → Nat → List Nat
  | 0, _ => []
  | n + 1, t =>
    let pa := t + 8 * levelIndex (5 - n) va
    let e := s.mem.readN pa 8
    if s.memBad pa || !e.testBit 0 || e.testBit 1 || s.entryBad (5 - n) e then [pa] else pa :: s.walkPath va n (entryAddr e)

/-- A walk wakes the banks that hold the entries that it reads (R263). -/
def State.touchWalk (s : State) (va : Nat) : State :=
  if !s.xl.en || (s.vat0.gatedBanks = [] && s.vat1.gatedBanks = []) then s
  else (s.walkPath va 5 (s.xl.root.toNat * 4096)).foldl (fun t pa => t.touchBanks pa 8) s

/-- What an access's translation leaves behind: its TLBs hold it, and TLBSTAT.CBAD reports a candidate run that fails its check (R242,
R244); its table reads wake the banks that they meet (R263). -/
def State.noteWalk (s : State) (w : Who) (va : Nat) : State :=
  if !s.walks va then s
  else
    let s := s.touchWalk va
    match s.walk va with
    | .fault _ _ => s
    | .leaf lv e _ =>
      { s with
        caches := w.tlbs.foldl (fun c x => c.fill x (s.tlbFill va lv e)) s.caches,
        xl := { s.xl with cbad := s.xl.cbad || s.failedRun va } }

/-- When the wake-ups that an access to some arrays meets have ended, ps (R263). -/
def State.wakeEnd (s : State) (arrs : List GatedArray) : Nat :=
  s.waking.foldl (fun t x => if arrs.contains x.1 then max t x.2 else t) 0

/-! ## The L1s and the directory (R245 to R247) -/

/-- Who holds a line, as cores; a coarse entry stands for every core of its clusters (R246). -/
def Sharers.cores : Sharers → List Nat
  | .exact cs => cs
  | .coarse ks => ks.flatMap fun k => (List.range 8).map fun i => 8 * k + i

/-- One more core takes a copy: the fifth makes the entry coarse (R246). -/
def Sharers.add (x : Sharers) (core : Nat) : Sharers :=
  match x with
  | .exact cs =>
    if cs.contains core then x
    else if cs.length < 4 then .exact (cs ++ [core])
    else .coarse ((cs ++ [core]).map (fun c => c / 8)).eraseDups
  | .coarse ks => .coarse (if ks.contains (core / 8) then ks else ks ++ [core / 8])

/-- Whether a core's L1 holds a line. -/
def Caches.holds (c : Caches) (core line : Nat) : Bool := c.l1.any fun x => x.core == core && x.line == line

/-- The directory entry of a line. -/
def Caches.entry? (c : Caches) (line : Nat) : Option DirEntry := c.dir.find? fun e => e.line == line

/-- Lines that leave some L1s: an entry none of whose copies is left is gone, and an exact one forgets the cores that lost theirs (R246). -/
def Caches.drop (c : Caches) (gone : L1Line → Bool) : Caches :=
  let l1 := c.l1.filter fun x => !gone x
  let left := fun (e : DirEntry) => (l1.filter fun x => x.line == e.line && x.attr == 0).map fun x => x.core
  { c with
    l1 := l1,
    dir := c.dir.filterMap fun e =>
      if left e = [] then none
      else match e.sharers with
        | .exact cs => some { e with sharers := .exact (cs.filter fun k => (left e).contains k) }
        | .coarse _ => some e,
    old := c.old.filter fun w => l1.any (fun x => x.line == w.1 / 16 && x.attr == 2) || c.icache.any (fun x => x.2 == w.1 / 16) }

/-- A core takes a CACHED line shared: a copy that another core owned is written back (R246). -/
def Caches.share (c : Caches) (core line : Nat) : Caches :=
  if c.holds core line then c
  else
    let e := (c.entry? line).getD ⟨line, false, .exact []⟩
    { c with
      l1 := ⟨core, line, 0, false⟩ :: (c.l1.map fun x => if x.line = line then { x with dirty := false } else x),
      dir := ⟨line, false, e.sharers.add core⟩ :: c.dir.filter fun x => x.line != line }

/-- A core takes a CACHED line owned, to write it: every other copy is invalidated (R246). -/
def Caches.own (c : Caches) (core line : Nat) : Caches :=
  let c1 := c.drop fun x => x.line == line && x.attr == 0
  { c1 with l1 := ⟨core, line, 0, true⟩ :: c1.l1, dir := ⟨line, true, .exact [core]⟩ :: c1.dir }

/-- A core takes an RO or PRIVATE line. -/
def Caches.take (c : Caches) (core line attr : Nat) (dirty : Bool) : Caches :=
  if c.holds core line then
    { c with l1 := c.l1.map fun x => if x.core = core && x.line = line then { x with dirty := x.dirty || dirty } else x }
  else { c with l1 := ⟨core, line, attr, dirty⟩ :: c.l1 }

/-- A load of some lines by a core, through its L1 (R245). -/
def Caches.load (c : Caches) (core attr : Nat) (lines : List Nat) : Caches :=
  lines.foldl (fun c l => match attr with | 0 => c.share core l | 1 => c | _ => c.take core l attr false) c

/-- A store to some lines by a core, through its L1 (R245). -/
def Caches.store (c : Caches) (core attr : Nat) (lines : List Nat) : Caches :=
  lines.foldl (fun c l => match attr with | 0 => c.own core l | 3 => c.take core l 3 true | _ => c) c

/-- Lines recalled from every L1 that holds them CACHED, before their home slice serves an access (R245). -/
def Caches.recall (c : Caches) (lines : List Nat) : Caches :=
  if c.l1 = [] then c else c.drop fun x => x.attr == 0 && lines.contains x.line

/-- An agent without an L1 reads lines at their home slice: a copy that a core owned is written back, and stays shared (R245, R246). -/
def Caches.writeBack (c : Caches) (lines : List Nat) : Caches :=
  if c.l1 = [] then c
  else
    { c with
      l1 := c.l1.map fun x => if x.attr = 0 && lines.contains x.line then { x with dirty := false } else x,
      dir := c.dir.map fun e => if lines.contains e.line then { e with owned := false } else e }

/-- Accesses through a core's L1 wake the ways that hold their lines (R263). -/
def State.touchWays (s : State) (core : Nat) (lines : List Nat) : State :=
  if (s.core core).gatedWays = [] then s else lines.foldl (fun t l => t.wakeArray (.l1Way core (Config.l1WayOf core l))) s

/-- Lines that the L1 of a carve holds (R68). -/
def l1Lines (carve : Nat) : Nat := 8 * (3584 - 64 * carve - regionKiB carve)

/-- Ways of an L1, its sets, and the set of a line in a carve (R68, R366). Log 74. -/
def l1Ways (carve : Nat) : Nat := Config.l1WaysM1 % l1Lines carve + 1
def l1Set (carve line : Nat) : Nat := Config.l1SetOf carve line % (l1Lines carve / l1Ways carve)

/-- Lines of a core's L1 that the windows of its gangs have marked or claimed, without those that a watch table holds. -/
def State.pinnedL1 (s : State) (core : Nat) : List Nat :=
  ((s.residents core).flatMap fun g => g.gangs.flatMap fun h => match h.window with
    | some w => (w.marks ++ w.claims).filter fun l => !w.watched.contains l
    | none => []).eraseDups

/-- Room in a core's L1 for a line that it does not hold: a full set gives up a line that is not pinned, if it has one (R68, R366). Which, is
free (log 74). -/
def Caches.makeRoom (c : Caches) (core carve : Nat) (pinned : List Nat) (t line : Nat) : Caches × Bool :=
  let mine := c.l1.filter fun x => x.core == core && l1Set carve x.line == l1Set carve line
  if c.holds core line || mine.length < l1Ways carve then (c, true)
  else
    let out := mine.filter fun x => !pinned.contains x.line
    match out[Config.l1Victim t line % out.length]? with
    | some v => (c.drop fun x => x == v, true)
    | none => (c, false)

/-- Lines pass through a core's L1 one after another, each with room made for it; one for which there is none is served at its home slice. -/
def State.l1Pass (s : State) (core attr pa n : Nat) (f : Caches → Nat → Caches) : Caches :=
  if attr = 1 then s.caches
  else (linesOf pa n).foldl (fun c l =>
    let r := c.makeRoom core (s.core core).scr (s.pinnedL1 core) s.time l
    if r.2 then f r.1 l else r.1) s.caches

/-- A core loads lines through its L1. -/
def State.l1Load (s : State) (core attr pa n : Nat) : State :=
  let s1 := if attr = 1 then s else s.touchWays core (linesOf pa n)
  { s1.touchBanks pa n with caches := s.l1Pass core attr pa n fun c l => c.load core attr [l] }

/-- A core stores to lines through its L1. -/
def State.l1Store (s : State) (core attr pa n : Nat) : State :=
  let s1 := if attr = 1 then s else s.touchWays core (linesOf pa n)
  { s1.touchBanks pa n with caches := s.l1Pass core attr pa n fun c l => c.store core attr [l] }

/-- An access at the home slice recalls the CACHED copies of its lines (R245). -/
def State.recall (s : State) (pa n : Nat) : State :=
  { s.touchBanks pa n with caches := s.caches.recall (linesOf pa n) }

/-- The same for a read. -/
def State.readHome (s : State) (pa n : Nat) : State :=
  { s.touchBanks pa n with caches := s.caches.writeBack (linesOf pa n) }

/-- A store to physical bytes by an agent of the device; one to control space has no effect (R41). An agent that is no gang stores at the
home slice, which recalls the lines (R245, R247). -/
def State.writePhys (s : State) (agent : Option (Nat × Nat)) (pa : Nat) (bs : List Byte) : State :=
  if regionOf pa = .control then s
  else (if agent.isNone then s.recall pa bs.length else s.touchBanks pa bs.length).poke agent pa bs

/-- A load byte as a core may find it in an RO line it holds: of each aligned 8 bytes, the value before a change or the value after it
(R247). -/
def State.roByte (s : State) (core pa : Nat) : Nat :=
  match s.caches.old.find? fun x => x.1 == pa / 8 with
  | some (_, v) =>
    if s.caches.holds core (pa / 128) && Config.staleWord s.idCount s.time (pa / 8) && !s.memBad pa then v.toNat >>> (8 * (pa % 8)) % 256
    else (s.byte pa).toNat
  | none => (s.byte pa).toNat

/-- The number in n bytes of an RO page as a core loads them (R247). -/
def State.roN (s : State) (core : Nat) : Nat → Nat → Nat
  | _, 0 => 0
  | pa, n + 1 => s.roByte core pa + 256 * s.roN core (pa + 1) n

/-- The number that a load of n bytes by a core returns, from a page of an attribute. -/
def State.loadN (s : State) (core attr pa n : Nat) : Nat :=
  if attr = 2 && s.caches.old != [] then s.roN core pa n else s.readPhys pa n

/-! ## Speculation at issue (R365 to R371) -/

/-- Whether an access that issues now would be speculative, in the window now open or in one it opens (R365). -/
def Gang.speculates (h : Gang) : Bool := h.window.isSome || h.accessPending

/-- Whether a range overlaps an operation of the gang that its bank has not performed: a later load waits for it, as program
order asks (R267). Log 15. -/
def State.ownPending (s : State) (gid gang pa n : Nat) : Bool :=
  let mine := fun (b : BankReq) => b.gid == gid && b.gang == gang && pa < b.pa + 16 && b.pa < pa + n
  s.bankQ.any mine || (s.vat0.ordered ++ s.vat1.ordered).any fun e => e.held.any fun x => mine x.2


/-- The window that an access opens when an earlier one has not performed, with its checkpoint (R365). -/
def Gang.openWindow (h : Gang) : Gang :=
  match h.window with
  | some _ => h
  | none =>
    if h.accessPending then
      let pcs := h.frags.map (fun f => (f.entry, f.pc))
      { h with
        rolls := if h.rolledAt == pcs then h.rolls else 0,
        window := some {
          check := ⟨h.s, h.p, h.c, h.lmask, h.frags, h.tokens, h.joins, h.satf, h.v, h.vcount, h.fpend, h.handler, h.verr, h.serr, h.perr,
            h.traced⟩,
          shadow := [], marks := [], claims := [], watched := [], smarks := [], sclaims := [], held := [],
          before := (h.ops.filter (fun o => match o.wait with | .bank n => n != 0 | _ => false)).map (fun o => o.id),
          fault := none, accesses := [], awaited := false } }
    else h

/-- A change of the window now open. -/
def Gang.updWindow (h : Gang) (f : Window → Window) : Gang := { h with window := h.window.map f }

/-- Bytes of a window's held stores, latest last. -/
def Window.heldBytes (w : Window) : List HeldByte := w.held.flatMap (fun x => x.bytes)

/-- Whether a range overlaps a store that the gang's window holds (R367). -/
def Gang.overlapsHeld (h : Gang) (scratch : Bool) (a n : Nat) : Bool :=
  match h.window with
  | none => false
  | some w => w.heldBytes.any (fun b => b.scratch == scratch && a ≤ b.addr && b.addr < a + n)

/-- The trap of a faulting access (R385, R392). -/
def accessTrap (k : Access) (f : Nat × Nat) (lanes : BitVec 64) (va : Nat) : Trap :=
  ⟨f.1, f.2, lanes, true, va % 2 ^ 56, k.akind⟩

/-- A window's note of an access that a fragment issues (R370, R371). -/
def Gang.noteAccess (h : Gang) (f : Fragment) : Gang := h.updWindow (fun w => { w with accesses := w.accesses ++ [(f.entry, f.pc)] })

/-- A load that faults: in serial mode it waits for the access before it; inside a window, or where it opens one, it holds its fault,
of which the first stands; else it traps (R365, R370, R371). -/
def State.loadFault (s : State) (c : Ctx) (t : Trap) : Out :=
  if c.h.serialBlocked then .next (s.put c.g c.h (c.f.hold .access))
  else if c.h.speculates then
    let h := c.h.openWindow.updWindow (fun w =>
      { w with fault := match w.fault with
        | some x => some x
        | none => some ⟨c.f.entry, c.f.pc, (w.accesses.filter fun a => a == (c.f.entry, c.f.pc)).length⟩ })
    .next (s.put c.g h (c.f.hold .fault))
  else .next (s.takeTrap c.g c.h c.f c.f.pc t)

/-- Issues a load: serial mode and the window (R365, R370). `k` runs with the gang in which the access counts. -/
def issueLoad (s : State) (c : Ctx) (k : Ctx → Out) : Out :=
  if c.h.serialBlocked then .next (s.put c.g c.h (c.f.hold .access))
  else k { c with h := c.h.openWindow.noteAccess c.f }

/-- Issues a store: the same, and the hold queue of 32 entries (R367). -/
def issueStore (s : State) (c : Ctx) (k : Ctx → Out) : Out :=
  if c.h.serialBlocked then .next (s.put c.g c.h (c.f.hold .access))
  else
    let h := c.h.openWindow
    if (match h.window with | some w => decide (32 ≤ w.held.length) | none => false) then .next (s.put c.g c.h (c.f.hold .window))
    else k { c with h := h.noteAccess c.f }

/-! ## Room for marks and claims (R366, R367) -/

/-- Whether a line may be marked or claimed in a core's L1 beside some others that the same access would: not every way of its set is
(R366, R367). -/
def State.l1Room (s : State) (core : Nat) (others : List Nat) (line : Nat) : Bool :=
  let carve := (s.core core).scr
  let pinned := s.pinnedL1 core
  pinned.contains line
    || ((pinned ++ others.filter fun l => l != line && !pinned.contains l).filter fun l => l1Set carve l == l1Set carve line).length
      < l1Ways carve

/-- Entries of a slice's watch table in use: one for each line of each window (R366). -/
def State.watchUsed (s : State) (slice : Nat) : Nat :=
  s.groups.foldl (fun n g => g.gangs.foldl (fun n h => match h.window with
    | some w => n + (w.watched.filter fun l => homeSlice (128 * l) == slice).length
    | none => n) n) 0

/-- What keeps an access inside a window from making its marks or claims (R366, R367): its own window until it closes, where a watch
table is full, or ways of the L1. `lines` are the lines of its accesses with their attributes. -/
def State.noRoom (s : State) (c : Ctx) (lines : List (Nat × Nat)) : Option Wait :=
  if !c.h.speculates then none
  else
    let mine := match c.h.window with | some w => w.marks ++ w.claims | none => []
    let more := (lines.filter fun x => !mine.contains x.1).eraseDups
    let far := (more.filter fun x => x.2 == 1).map fun x => x.1
    let near := (more.filter fun x => x.2 == 0 || x.2 == 3).map fun x => x.1
    if far.any fun l =>
      4096 < s.watchUsed (homeSlice (128 * l)) + (far.filter fun m => homeSlice (128 * m) == homeSlice (128 * l)).length then
      some (if c.h.window.isSome then .window else .access)
    else if near.any fun l => !s.l1Room c.g.core near l then some (.room near)
    else none

/-- The lines of an access with its attribute. -/
def attrLines (attr pa n : Nat) : List (Nat × Nat) := (linesOf pa n).map fun l => (l, attr)

/-- A load of global memory inside a window marks its lines, but for RO lines: FAR lines in the watch table of their slice (R366). -/
def Gang.markLoad (h : Gang) (attr pa n : Nat) : Gang :=
  if attr = 2 then h
  else h.updWindow (fun w =>
    { w with marks := (linesOf pa n ++ w.marks).eraseDups,
             watched := if attr = 1 then (linesOf pa n ++ w.watched).eraseDups else w.watched })

/-- A load of the scratchpad inside a window marks its words (R366). -/
def Gang.markScratch (h : Gang) (a n : Nat) : Gang :=
  h.updWindow (fun w => { w with smarks := (wordsOf a n ++ w.smarks).eraseDups })

/-- Whether marking more scratchpad words would pass 256 (R366). -/
def Gang.scratchFull (h : Gang) (more : List Nat) : Bool :=
  match h.window with
  | none => false
  | some w => 256 < (more ++ w.smarks ++ w.sclaims).eraseDups.length

/-- A store inside a window: one entry of the hold queue, and its claims; `far` are the FAR lines among them (R367). -/
def Gang.holdStore (h : Gang) (x : Held) (far : List Nat) : Gang :=
  let lines : List Nat := (x.bytes.filter (fun b => !b.scratch)).map (fun b => b.addr / 128)
  let words : List Nat := (x.bytes.filter (fun b => b.scratch)).map (fun b => b.addr / 8)
  h.updWindow (fun w =>
    { w with held := w.held ++ [x], claims := (lines ++ w.claims).eraseDups, sclaims := (words ++ w.sclaims).eraseDups,
             watched := (far ++ w.watched).eraseDups })

/-- The bytes of a value as held stores. -/
def heldOf (scratch : Bool) (a : Nat) (bs : List Byte) : List HeldByte :=
  (List.range bs.length).map (fun i => ⟨scratch, a + i, bs.getD i 0⟩)

/-- A claim of CACHED or PRIVATE lines takes them owned into the core's L1, from the L1s of other cores: the windows there that have marked or
claimed them roll back. A claim that a watch table or the scratchpad's core keeps is no access: the store performs when it is written
(R361, R367, R369). -/
def State.claimLines (s : State) (agent : Option (Nat × Nat)) (core attr pa n : Nat) : State :=
  if attr = 0 || attr = 3 then s.rollbackWhere agent fun g w => g.core != core && w.conflicts (linesOf pa n) true else s

end Sys2Proof.Machine
end

