-- ==== Sys2Proof/Machine/ScalarMemory.lean ====
section
/-! DEFINITION. Scalar memory words, PARK, LAUNCH and HINT (R62, R63, R149, R156 to R158, R166 to R168, R175 to R177, R394). -/

namespace Sys2Proof.Machine

open Sys2Proof.Bits

/-- The address of a scalar access: base plus the sign-extended offset, modulo 2^64 (R156). -/
def Gang.scalarAddr (h : Gang) (a : SReg) (i : BitVec 12) : Nat := (h.readS a.val + i.signExtend 64).toNat

/-- The agent of an access made by a gang (R369). -/
def Ctx.agent (c : Ctx) : Option (Nat × Nat) := some (c.g.gid, c.h.id)

/-- The enabled lanes of the issuing fragment, which a scalar word's fault names (R385). -/
def Ctx.lanes (c : Ctx) : BitVec 64 := c.h.enabled c.f

/-- What makes a load of global memory wait at issue: I/O space inside a window, a store its own window holds, a request of its own gang
on the bytes, or no room for its marks (R267, R366, R367, R372). -/
def State.loadWaits (s : State) (c : Ctx) (attr pa n : Nat) : Option Wait :=
  if c.h.speculates && isIO pa then some (if c.h.window.isSome then .window else .access)
  else if c.h.overlapsHeld false pa n then some .window
  else if s.ownPending c.g.gid c.h.id pa n then some (.own pa n)
  else if attr = 2 then none
  else s.noRoom c (attrLines attr pa n)

/-- SLD: the control aperture, the faults of the apertures, or a load of 8 bytes (R156 to R158, R237, R372). -/
def execSld (d a : SReg) (i : BitVec 12) (s : State) : Out :=
  withCur s fun c =>
    let va := c.h.scalarAddr a i
    let g := c.g.orErr (c.h.sourceErr [a])
    let fault := fun (f : Nat × Nat) => s.loadFault { c with g := g } (accessTrap .load f c.lanes va)
    if inAperture va then
      if va % 8 != 0 then fault (0x28, 0)
      else if inCopyAperture va then fault (0x24, 5)
      else if inControlAperture va then
        irrevocable s fun _ =>
          .next (s.put g ((c.h.countDone).writeS d.val (s.readControl (va - controlAperture))) (c.f.advance 1))
      else fault (0x26, 0)
    else
      match s.check c.g.who .load va 8 with
      | .error f => (s.noteWalk c.g.who va).loadFault { c with g := g } (accessTrap .load f c.lanes va)
      | .ok (pa, attr) =>
        let s1 := s.noteWalk c.g.who va
        match s1.loadWaits c attr pa 8 with
        | some w => .next (s1.put c.g c.h (c.f.hold w))
        | none =>
          issueLoad s1 c fun c1 =>
            let h := (c1.h.markLoad attr pa 8).countDone
            let v := BitVec.ofNat 64 (s1.loadN c.g.core attr pa 8)
            let g1 := g.orErr (s1.memErrBits pa 8)
            .next (((s1.put g1 (h.writeS d.val v) (c.f.advance 1)).conflict c.agent pa 8 false).l1Load c.g.core attr pa 8)

/-- A copy handed to a channel (R286, R288). -/
def Ctx.newCopy (c : Ctx) (s : State) (ch : Nat) (word : Word) : Copy where
  id := s.idCount
  engine := c.g.core / 8
  ch := ch
  state := .waiting
  gid := c.g.gid
  gang := c.h.id
  batch := c.h.batch
  word := word
  tref := c.g.tref
  fmt := c.f.fmtf
  tplBase := c.g.kernel.ctbase
  tplZero := c.g.kernel.ctbase == 0
  tpl := none
  c0 := field 23 6 word.toNat
  c1 := field 41 24 word.toNat
  satf := 0
  leaseKey := 0
  leaseLines := []
  leaseUs := 0
  orphan := false
  handle := none
  rerun := false

/-- Copies of a channel that hold one of its four places: accepted, and neither completed nor failed (R288). -/
def State.channelLoad (s : State) (engine ch : Nat) : Nat :=
  (s.copies.filter (fun c => c.engine == engine && c.ch == ch &&
    (match c.state with | .waiting | .running _ => true | _ => false))).length

/-- A copy accepted: it joins the gang's current batch, and the fragment goes on (R288, R291). -/
def State.acceptCopy (s : State) (c : Ctx) (ch : Nat) (word : Word) : State :=
  let h := { c.h with batches :=
    if c.h.batches.any (fun b => b.number == c.h.batch) then c.h.batches else c.h.batches ++ [⟨c.h.batch, false⟩] }
  let s1 := s.put c.g h (c.f.advance 1)
  { s1 with copies := s1.copies ++ [c.newCopy s ch word], idCount := s1.idCount + 1 }

/-- The copy word of a fragment that is blocked on a channel. -/
def Fragment.onChannel (f : Fragment) (engine ch : Nat) : Option Word :=
  match f.wait with
  | .channel e k word => if e = engine && k = ch then some word else none
  | _ => none

/-- Whether some fragment is already blocked on a channel: later copies queue behind it (R288). -/
def State.channelQueue (s : State) (engine ch : Nat) : Bool :=
  s.groups.any (fun g => g.gangs.any (fun h => h.frags.any (fun f => (f.onChannel engine ch).isSome)))

/-- A store of the copy word to the copy aperture: a COPY, after every earlier access of the gang (R286 to R289, R361). -/
def copyWord (s : State) (ch : Nat) (word : Word) (err : BitVec 9) : Out :=
  irrevocable s fun c =>
    let c1 := { c with g := c.g.orErr err }
    let e := c.g.core / 8
    if 4 ≤ s.channelLoad e ch || s.channelQueue e ch || s.loads 1 (unitArg e) then .next (s.put c1.g c.h (c.f.block (.channel e ch word) s.time))
    else .next (s.acceptCopy c1 ch word)

/-- What makes a store to global memory wait at issue: I/O space inside a window, or no room for its claims (R367, R372). -/
def State.storeWaits (s : State) (c : Ctx) (attr pa n : Nat) : Option Wait :=
  if c.h.speculates && isIO pa then some (if c.h.window.isSome then .window else .access)
  else s.noRoom c (attrLines attr pa n)

/-- The FAR lines of a store. -/
def farLines (attr pa n : Nat) : List Nat := if attr = 1 then linesOf pa n else []

/-- A held store's claims: the L1 takes the lines owned (R367, R369). -/
def State.holds (s : State) (c : Ctx) (attr pa n : Nat) : State := (s.claimLines c.agent c.g.core attr pa n).l1Store c.g.core attr pa n

/-- A scalar store at an address: a COPY in the copy aperture; else a store of 8 bytes, held inside a window, and irrevocable to
I/O space (R156 to R158, R237, R367). -/
def storeWord (v a : SReg) (i : BitVec 12) (s : State) : Out :=
  withCur s fun c =>
    let va := c.h.scalarAddr a i
    let g := c.g.orErr (c.h.sourceErr [v, a])
    let c0 := { c with g := g }
    let trap := fun (t : State) (f : Nat × Nat) => t.trap c0 (accessTrap .store f c.lanes va)
    if inAperture va then
      if va % 8 != 0 then trap s (0x28, 0)
      else if inCopyAperture va then copyWord s ((va - apertureBase) / 8) (c.h.readS v.val) (c.h.sourceErr [v, a])
      else if inControlAperture va then trap s (0x24, 3)
      else trap s (0x26, 0)
    else
      match s.check c.g.who .store va 8 with
      | .error f => trap (s.noteWalk c.g.who va) f
      | .ok (pa, attr) =>
        let s1 := s.noteWalk c.g.who va
        match s1.storeWaits c attr pa 8 with
        | some w => .next (s1.put c.g c.h (c.f.hold w))
        | none =>
          issueStore s1 c fun c1 =>
            let bs := toBytes 8 (c.h.readS v.val).toNat
            match c1.h.window with
            | none => .next (((s1.put g (c1.h.countDone) (c.f.advance 1)).writePhys c.agent pa bs).l1Store c.g.core attr pa 8)
            | some _ =>
              let x : Held := ⟨heldOf false pa bs, none⟩
              .next ((s1.put g (c1.h.holdStore x (farLines attr pa 8)) (c.f.advance 1)).holds c attr pa 8)

/-- SST (R156). -/
def execSst (v a : SReg) (i : BitVec 12) (s : State) : Out := storeWord v a i s

/-- A scratchpad offset's faults: the lowest cause first (R156, R158, R385). -/
def scratchFault (scrg off size : Nat) : Option (Nat × Nat) :=
  if off % size != 0 then some (0x28, 0)
  else if scrg * 4096 < off + size then some (0x29, 0)
  else none

/-- SCRE, when a scratchpad range touches an uncorrectable word (R407). -/
def Core.scratchErrBits (k : Core) (a n : Nat) : BitVec 9 :=
  if (wordsOf a n).any (fun w => k.scratchErr.contains w) then SCRE else 0

/-- SLDS (R156, R158). -/
def execSlds (d a : SReg) (i : BitVec 12) (s : State) : Out :=
  withCur s fun c =>
    let off := c.h.scalarAddr a i
    let g := c.g.orErr (c.h.sourceErr [a])
    match scratchFault c.g.kernel.scrg off 8 with
    | some f => s.loadFault { c with g := g } (accessTrap .load f c.lanes 0)
    | none =>
      let pa := c.g.window + off
      if c.h.overlapsHeld true pa 8 || c.h.scratchFull (wordsOf pa 8) then .next (s.put c.g c.h (c.f.hold .window))
      else
        issueLoad s c fun c1 =>
          let h := (c1.h.markScratch pa 8).countDone
          let k := s.core c.g.core
          .next (((s.put (g.orErr (k.scratchErrBits pa 8)) (h.writeS d.val (BitVec.ofNat 64 (k.scratchN pa 8))) (c.f.advance 1)).sconflict
            c.agent c.g.core pa 8 false).touchScratch c.g.core pa 8)

/-- SSTS (R156, R158). -/
def execSsts (v a : SReg) (i : BitVec 12) (s : State) : Out :=
  withCur s fun c =>
    let off := c.h.scalarAddr a i
    let g := c.g.orErr (c.h.sourceErr [v, a])
    match scratchFault c.g.kernel.scrg off 8 with
    | some f => s.trap { c with g := g } (accessTrap .store f c.lanes 0)
    | none =>
      let pa := c.g.window + off
      if c.h.scratchFull (wordsOf pa 8) then .next (s.put c.g c.h (c.f.hold .window))
      else
        issueStore s c fun c1 =>
          let bs := toBytes 8 (c.h.readS v.val).toNat
          match c1.h.window with
          | none => .next (((s.put g (c1.h.countDone) (c.f.advance 1)).spoke c.agent c.g.core pa bs).touchScratch c.g.core pa 8)
          | some _ =>
            let x : Held := ⟨heldOf true pa bs, none⟩
            .next ((s.put g (c1.h.holdStore x []) (c.f.advance 1)).touchScratch c.g.core pa 8)

/-- PARK: compares a word and parks until a write to it (R166, R167). -/
def execPark (a b : SReg) (dbl ne : Bool) (s : State) : Out :=
  irrevocable s fun _ => parkPoint s fun c =>
    let va := (c.h.readS a.val).toNat
    let size := if dbl then 8 else 4
    let g := c.g.orErr (c.h.sourceErr [a, b])
    match s.checkGlobal c.g.who .load va size with
    | .error f => (s.noteWalk c.g.who va).trap { c with g := g } (accessTrap .load f c.lanes va)
    | .ok (pa, attr) =>
      let s1 := s.noteWalk c.g.who va
      let x := s1.loadN c.g.core attr pa size
      let want := (c.h.readS b.val).toNat % 2 ^ (8 * size)
      let h := c.h.countDone
      let g1 := g.orErr (s1.memErrBits pa size)
      let s2 := if (x == want) != ne then s1.put g1 h (c.f.advance 1) else s1.put g1 h (c.f.park (.mem pa size) s.time)
      .next ((s2.conflict c.agent pa size false).l1Load c.g.core attr pa size)

/-! ## LAUNCH (R61 to R63, R175 to R177) -/

/-- Whether a kernel descriptor keeps every rule of R71 for a carve; `pixOk` permits PIX. -/
def kernelOk (n scr : Nat) (pixOk : Bool) : Bool :=
  let k := Kernel.ofBits 0 n
  field 511 504 n == 0 && field 447 440 n == 0 && field 383 376 n == 0 && field 319 312 n == 0 && field 255 35 n == 0
    && !n.testBit 33 && field 23 20 n == 0 && field 7 6 n == 0
    && k.ctbase.toNat % 64 == 0 && k.livbase.toNat % 64 == 0 && k.hndlr.toNat % 4 == 0 && k.entry.toNat % 4 == 0
    && 1 ≤ k.vc8 && k.vc8 ≤ 40 && k.scrg ≤ 256 && k.entry != 0
    && k.wmin ≤ k.wmax
    && 4 * (k.gqm1 + 1) ≤ 4 * 2 ^ (k.wmax + 1) * 32
    && 4 * (k.gqm1 + 1) * 8 * k.vc8 * 8 ≤ regionKiB scr * 1024
    && k.scrg * 4 ≤ 64 * scr
    && (pixOk || !k.pix)

/-- LAUNCH and LAUNCH.NW (R62, R63, R175, R176). -/
def execLaunch (a b : SReg) (nw : Bool) (k : CBit) (s : State) : Out :=
  let body := fun (c : Ctx) =>
    let x := c.h.readS a.val
    let y := c.h.readS b.val
    let g := c.g.orErr (c.h.sourceErr [a, b])
    let c0 := { c with g := g }
    let va := x.toNat
    if va % 64 != 0 || 2 ^ 56 ≤ va then s.trap c0 (Trap.inGang 0x07 0x01 c.lanes)
    else
      match s.checkGlobal c.g.who .load va 64 with
      | .error f => (s.noteWalk c.g.who va).loadFault c0 (accessTrap .load f c.lanes va)
      | .ok (pa, attr) =>
        let s1 := s.noteWalk c.g.who va
        match s1.loadWaits c attr pa 64 with
        | some w => .next (s1.put c.g c.h (c.f.hold w))
        | none =>
          issueLoad s1 c fun c1 =>
            let bits := s1.loadN c.g.core attr pa 64
            let h := (c1.h.markLoad attr pa 64).countDone
            let g1 := g.orErr (s1.memErrBits pa 64)
            let done := fun (t : State) => Host.Outcome.next ((t.conflict c.agent pa 64 false).l1Load c.g.core attr pa 64)
            if !kernelOk bits c.g.scr false then
              if h.window.isSome then .next (s1.put c.g c.h (c.f.hold (if c.h.window.isSome then .window else .access)))
              else done (s1.takeTrap g1 h c.f c.f.pc (Trap.inGang 0x07 0x02 c.lanes))
            else if (s1.launchesOf (c.g.core / 96)).length < 4096 then
              done ((s1.put g1 (h.writeC k true) (c.f.advance 1)).takeEntry c.g va bits y.toNat
                (if h.window.isSome then some (c.g.gid, c.h.id) else none))
            else if nw then done (s1.put g1 (h.writeC k false) (c.f.advance 1))
            else if h.window.isSome then .next (s1.put c.g c.h (c.f.hold (if c.h.window.isSome then .window else .access)))
            else done (s1.put g1 h (c.f.park (.launch va bits y.toNat k) s.time))
  if nw then withCur s body else parkPoint s body

/-! ## HINT (R168, R394) -/

/-- A liveness read of 64 bytes through the group's translation: none where it faults or meets an uncorrectable error (R394). -/
def State.readLive (s : State) (g : Group) (va : Nat) : Option Nat :=
  match s.checkGlobal g.who .load va 64 with
  | .error _ => none
  | .ok (pa, _) => if s.memErrBits pa 64 != 0 then none else some (s.readPhys pa 64)

/-- Whether HINT k is a pre-emption point, and the table it names where that can be read (R168, R394). -/
def State.hintPoint (s : State) (g : Group) (k : Nat) : Option (Option Nat) :=
  let base := g.kernel.livbase.toNat
  if base = 0 then none
  else
    match s.readLive g base with
    | none => none
    | some head => if 256 < head || head ≤ k then none else some (s.readLive g (base + 64 + 64 * k))

/-- What a liveness read leaves behind: its walk, and the banks that it wakes (R242, R263, R394). -/
def State.noteLive (s : State) (g : Group) (va : Nat) : State :=
  match s.checkGlobal g.who .load va 64 with
  | .error _ => s.noteWalk g.who va
  | .ok (pa, _) => (s.noteWalk g.who va).touchBanks pa 64

/-- The same of the reads that a HINT makes: the head, and its table where the HINT is a pre-emption point. -/
def State.noteHint (s : State) (g : Group) (k : Nat) : State :=
  let base := g.kernel.livbase.toNat
  if base = 0 then s
  else
    let s1 := s.noteLive g base
    if (s.hintPoint g k).isSome then s1.noteLive g (base + 64 + 64 * k) else s1

/-- HINT (R148, R168): no effect with no save pending; else it is deferred, and the fragment stops after the word. -/
def execHint (k : BitVec 8) (s : State) : Out :=
  withCur s fun c =>
    if c.g.savePending.isNone then .next (s.put c.g c.h (c.f.advance 1))
    else if c.h.window.isSome then .next (s.put c.g c.h (c.f.hold .window))
    else if c.h.serialBlocked then .next (s.put c.g c.h (c.f.hold .access))
    else
      let s1 := s.noteHint c.g k.toNat
      match s.hintPoint c.g k.toNat with
      | none => .next (s1.put c.g c.h (c.f.advance 1))
      | some t => .next (s1.put c.g c.h { c.f.advance 1 with hint := some (k.toNat, t) })

/-- PARK_REREAD: the restore or the wake-up of a parked word makes it issue and read again (R167). -/
def execParkReread (gid gang entry : Nat) (s : State) : Out :=
  match (s.group? gid).bind fun g => (g.gang? gang).bind fun h => (h.frag? entry).map fun f => (g, h, f) with
  | none => .fault .absent
  | some (g, h, f) =>
    match f.wait, h.claim.isNone with
    | .mem _ _, true => .next (s.put g h f.wake)
    | _, _ => .fault .absent

end Sys2Proof.Machine
end

