-- ==== Sys2Proof/Machine/LaneMemory.lean ====
section
/-! DEFINITION. Per-lane loads, stores and prefetches of global memory and of the scratchpad (R80, R260, R264 to R270, R366, R367). -/

namespace Sys2Proof.Machine

open Sys2Proof.Bits
open Sys2Proof.Types (width isSigned)

/-- The address of a lane: a plus the sign-extended offset, modulo 2^64 (R265). -/
def Issue.addr (i : Issue) (lane : Nat) : Nat :=
  wrap 64 ((i.read .n64 i.ln.a lane : Int) + toSigned 20 i.ln.x24.toNat)

/-- The bytes a lane accesses, by the size field (R265). -/
def Issue.accessSize (i : Issue) : Nat :=
  match i.ln.mod.toNat % 4 with
  | 0 => 8
  | 1 => width i.t / 8
  | _ => 16

/-- A lane's access that its checks let pass: the lane and the physical address (or scratchpad byte of the core), and the page attribute. -/
structure LaneAccess where
  lane : Nat
  pa : Nat
  attr : Nat
  deriving DecidableEq, Repr

/-- The lanes of an instruction split by their checks: the accesses that may be made, and the faults with their lanes and addresses. -/
def Issue.checkLanes (i : Issue) (lanes : List Nat) (chk : Nat → Except (Nat × Nat) (Nat × Nat)) :
    List LaneAccess × List (Nat × Nat × Nat × Nat) :=
  lanes.foldr (fun l r =>
    match chk (i.addr l) with
    | .ok (pa, attr) => (⟨l, pa, attr⟩ :: r.1, r.2)
    | .error (c, d) => (r.1, (l, i.addr l, c, d) :: r.2)) ([], [])

/-- The fault an instruction takes for the faults of its lanes: the lowest cause, the lanes that met it, the address of the
lowest of them (R385, R386, R392). -/
def laneFault (k : Access) (fs : List (Nat × Nat × Nat × Nat)) : Option Trap :=
  match fs with
  | [] => none
  | f :: rest =>
    let cause := rest.foldl (fun m x => min m x.2.2.1) f.2.2.1
    match fs.filter (fun x => x.2.2.1 == cause) with
    | [] => none
    | g :: more =>
      some ⟨cause, g.2.2.2, BitVec.ofNat 64 (maskOf ((g :: more).map (fun x => x.1))), true, g.2.1 % 2 ^ 56, k.akind⟩

/-- Whether a lane is a helper lane (R80). -/
def Issue.isHelper (i : Issue) (l : Nat) : Bool := i.h.helper.getLsbD l

/-- Active lanes that are not helper lanes. -/
def Issue.workers (i : Issue) : List Nat := i.lanes.filter (fun l => !i.isHelper l)

/-- The walker's reports for the addresses of some lanes (R242). -/
def Issue.noteWalks (i : Issue) (s : State) (lanes : List Nat) : State :=
  lanes.foldl (fun t l => t.noteWalk i.g.who (i.addr l)) s

/-- The register writes of a load in a lane, from the number its bytes hold (R266). -/
def Issue.loadWrites (i : Issue) (lane bits : Nat) : List ((Nat × Nat) × Word) :=
  let d := vnum i.ln.d
  match i.ln.mod.toNat % 4 with
  | 0 => [((d, lane), BitVec.ofNat 64 bits)]
  | 1 => [((d, lane), if isSigned i.t then sext (width i.t) bits else BitVec.ofNat 64 bits)]
  | _ => [((d, lane), BitVec.ofNat 64 bits), ((d + 1, lane), BitVec.ofNat 64 (bits / 2 ^ 64))]

/-- The destination registers of a load (R265). -/
def Issue.loadDests (i : Issue) : List Nat :=
  let d := vnum i.ln.d
  if i.ln.mod.toNat % 4 = 2 then [d, d + 1] else [d]

/-- The bytes a lane stores (R266). -/
def Issue.storeBytes (i : Issue) (lane : Nat) : List Byte :=
  match i.ln.mod.toNat % 4 with
  | 0 => toBytes 8 (i.read i.t i.ln.b lane)
  | 1 => toBytes (width i.t / 8) (i.read i.t i.ln.b lane)
  | _ => toBytes 8 (i.readGroup i.ln.b 0 lane) ++ toBytes 8 (i.readGroup i.ln.b 1 lane)

/-- The agent of a lane instruction's accesses. -/
def Issue.agent (i : Issue) : Option (Nat × Nat) := some (i.g.gid, i.h.id)

/-- Waits at issue, with nothing done. -/
def Issue.wait (i : Issue) (s : State) (w : Wait) : Out :=
  match s.ctx? with
  | some c => .next (s.put c.g c.h (i.f.hold w))
  | none => .fault .noFragment

/-- The same of accesses to the scratchpad, which have no virtual address (R392). -/
def scratchTrap (k : Access) (fs : List (Nat × Nat × Nat × Nat)) : Option Trap := (laneFault k fs).map fun t => { t with addr := 0 }

/-- An outstanding operation whose accesses meet some arrays: it lands no sooner than their wake-ups end (R263). -/
def VOp.stalled (o : VOp) (s : State) (arrs : List GatedArray) : VOp := { o with due := max o.due (s.wakeEnd arrs) }

/-- A load of some lanes whose checks have passed: window, marks, values, and the outstanding result (R266, R268, R366). `read` gives
a lane's number, `mark` the gang with its marks, `arrs` the arrays it meets. -/
def Issue.load (i : Issue) (s : State) (acc : List LaneAccess) (zero : List Nat) (err : BitVec 9)
    (mark : Gang → LaneAccess → Gang) (read : LaneAccess → Nat) (touch : State → LaneAccess → State) (arrs : LaneAccess → List GatedArray) : Out :=
  issueLoad s i.ctx fun c1 =>
    match c1.h.shadow i.loadDests with
    | none => i.wait s .window
    | some h0 =>
      let h := (acc.foldl mark h0).countDone
      let w : Writes := { Writes.none with v := acc.flatMap (fun a => i.loadWrites a.lane (read a)) ++ zero.flatMap (fun l => i.loadWrites l 0) }
      let j := { i with g := i.g.orErr err, h := h }
      .next (acc.foldl touch (j.start s ((j.vop s .time w i.loadDests).stalled (acc.foldl touch s) (acc.flatMap arrs))))

/-- What makes a load of some lanes wait at issue: the first thing that holds one of them (R267, R366, R367, R372). -/
def Issue.loadWaits (i : Issue) (s : State) (acc : List LaneAccess) (n : Nat) : Option Wait :=
  match acc.findSome? fun a => s.loadWaits i.ctx 2 a.pa n with
  | some w => some w
  | none => s.noRoom i.ctx ((acc.filter fun a => a.attr != 2).flatMap fun a => attrLines a.attr a.pa n)

/-- VLD (R266, R268, R269). -/
def execVld (f : Lane) (s : State) : Out :=
  laneWord .vld f s ownLane fun i =>
    let n := i.accessSize
    let r := i.checkLanes i.lanes (fun va => s.checkGlobal i.g.who .load va n)
    let s1 := i.noteWalks s i.lanes
    match laneFault .load (r.2.filter (fun x => !i.isHelper x.1)) with
    | some t => s1.loadFault i.ctx t
    | none =>
      match i.loadWaits s1 r.1 n with
      | some w => i.wait s1 w
      | none =>
        i.load s1 r.1 (r.2.map (fun x => x.1)) (r.1.foldl (fun e a => e ||| s1.memErrBits a.pa n) 0)
          (fun h a => h.markLoad a.attr a.pa n) (fun a => s1.loadN i.g.core a.attr a.pa n)
          (fun t a => (t.conflict i.agent a.pa n false).l1Load i.g.core a.attr a.pa n) (fun a => banksOf a.pa n)

/-- VLDS (R265, R266, R268, R269). -/
def execVlds (f : Lane) (s : State) : Out :=
  laneWord .vlds f s ownLane fun i =>
    let n := i.accessSize
    let core := s.core i.g.core
    let r := i.checkLanes i.lanes (fun off =>
      match scratchFault i.g.kernel.scrg off n with
      | some e => .error e
      | none => .ok (i.g.window + off, 0))
    match scratchTrap .load (r.2.filter (fun x => !i.isHelper x.1)) with
    | some t => s.loadFault i.ctx t
    | none =>
      if r.1.any (fun a => i.h.overlapsHeld true a.pa n) || i.h.scratchFull (r.1.flatMap (fun a => wordsOf a.pa n)) then
        i.wait s .window
      else
        i.load s r.1 (r.2.map (fun x => x.1)) (r.1.foldl (fun e a => e ||| core.scratchErrBits a.pa n) 0)
          (fun h a => h.markScratch a.pa n) (fun a => core.scratchN a.pa n)
          (fun t a => (t.sconflict i.agent i.g.core a.pa n false).touchScratch i.g.core a.pa n) (fun a => rangesOf i.g.core a.pa n)

/-- A store of some lanes whose checks have passed: performed at once, or held by the window, which takes the lines it claims (R266, R268,
R367). `write` stores a lane's bytes, `take` has the L1 take its lines owned, `claim` makes its claims, and `arrs` names the arrays that a lane
meets (R263). -/
def Issue.store (i : Issue) (s : State) (scratch : Bool) (acc : List LaneAccess) (write : State → LaneAccess → List Byte → State)
    (take claim : State → LaneAccess → State) (arrs : LaneAccess → List GatedArray) : Out :=
  issueStore s i.ctx fun c1 =>
    match c1.h.window with
    | none =>
      let j := { i with h := c1.h.countDone }
      .next (acc.foldl (fun t a => take (write t a (i.storeBytes a.lane)) a)
        (j.start s ((j.vop s .time .none []).stalled (acc.foldl take s) (acc.flatMap arrs))))
    | some _ =>
      let x : Held := ⟨acc.flatMap (fun a => heldOf scratch a.pa (i.storeBytes a.lane)), some s.idCount⟩
      let far := acc.flatMap fun a => if scratch then [] else farLines a.attr a.pa i.accessSize
      let j := { i with h := c1.h.holdStore x far }
      .next (acc.foldl take (acc.foldl claim (j.start s (j.vop s (.bank 1) .none []))))

/-- What makes a store of some lanes wait at issue. -/
def Issue.storeWaits (i : Issue) (s : State) (acc : List LaneAccess) (n : Nat) : Option Wait :=
  match acc.findSome? fun a => s.storeWaits i.ctx 2 a.pa n with
  | some w => some w
  | none => s.noRoom i.ctx (acc.flatMap fun a => attrLines a.attr a.pa n)

/-- VST (R266, R268, R269). -/
def execVst (f : Lane) (s : State) : Out :=
  laneWord .vst f s ownLane fun i =>
    let n := i.accessSize
    let r := i.checkLanes i.workers (fun va => s.checkGlobal i.g.who .store va n)
    let s1 := i.noteWalks s i.workers
    match laneFault .store r.2 with
    | some t => s1.trap i.ctx t
    | none =>
      match i.storeWaits s1 r.1 n with
      | some w => i.wait s1 w
      | none =>
        i.store s1 false r.1 (fun t a bs => t.writePhys i.agent a.pa bs) (fun t a => t.l1Store i.g.core a.attr a.pa n)
          (fun t a => t.claimLines i.agent i.g.core a.attr a.pa n) (fun a => banksOf a.pa n)

/-- VSTS (R265, R266, R268, R269). -/
def execVsts (f : Lane) (s : State) : Out :=
  laneWord .vsts f s ownLane fun i =>
    let n := i.accessSize
    let r := i.checkLanes i.workers (fun off =>
      match scratchFault i.g.kernel.scrg off n with
      | some e => .error e
      | none => .ok (i.g.window + off, 0))
    match scratchTrap .store r.2 with
    | some t => s.trap i.ctx t
    | none =>
      if i.h.scratchFull (r.1.flatMap (fun a => wordsOf a.pa n)) then i.wait s .window
      else i.store s true r.1 (fun t a bs => t.spoke i.agent i.g.core a.pa bs)
        (fun t a => t.touchScratch i.g.core a.pa n) (fun t _ => t) (fun a => rangesOf i.g.core a.pa n)

/-- A prefetch of a lane fills the core's L1, where its page is CACHED or RO and .HOME does not forbid it, or else, with .HOME or on a FAR page, the
vat cache of its home slice; an address that faults fetches nothing, but has been walked (R242, R263, R270). -/
def Issue.prefetch (i : Issue) (s : State) (lane : Nat) : State :=
  let va := i.addr lane - i.addr lane % 128
  let home := i.ln.mod.getLsbD 0
  let s1 := s.noteWalk i.g.who va
  match s.checkGlobal i.g.who .load va 128 with
  | .ok (pa, attr) =>
    if isIO pa then s1
    else if (attr = 0 || attr = 2) && !home then s1.l1Load i.g.core attr pa 128
    else if attr = 1 || home then s1.touchBanks pa 128
    else s1
  | .error _ => s1

/-- VPREF: no fault, no value, no place in the global order (R270). -/
def execVpref (f : Lane) (s : State) : Out :=
  laneWord .vpref f s ownLane fun i =>
    let s1 := i.lanes.foldl i.prefetch s
    .next (s1.put i.g (i.count (s.core i.g.core).cycle).h (i.f.advance 3))

end Sys2Proof.Machine
end

