-- ==== Sys2Proof/Machine/Sync.lean ====
section
/-! DEFINITION. Futures and quires: the eight synchronisation words, what a bank does for them, and the arrival of a completed matrix instruction (R257 to R259, R323, R374 to R380). -/

namespace Sys2Proof.Machine

open Sys2Proof.Bits

/-- A quire's fields (R258). -/
structure Quire where
  phase : Nat
  bytes : Int
  exp : Nat
  arr : Nat
  deriving DecidableEq, Repr

/-- Reads a quire from its 128 bits (R258). -/
def Quire.ofNat (n : Nat) : Quire := ⟨field 127 112 n, toSigned 48 (field 111 64 n), field 63 32 n, field 31 0 n⟩

/-- The 128 bits of a quire (R258). -/
def Quire.toNat (q : Quire) : Nat := q.phase * 2 ^ 112 + wrap 48 q.bytes * 2 ^ 64 + q.exp * 2 ^ 32 + q.arr

/-- settle() of R377. -/
def Quire.settle (q : Quire) : Quire :=
  if q.arr = q.exp && q.bytes = 0 then { q with phase := (q.phase + 1) % 2 ^ 16, arr := 0 } else q

/-- QARR at the bank: the quire afterwards, or none where it is refused (R377). -/
def Quire.arrive (q : Quire) : Option Quire := if q.exp ≤ q.arr then none else some { q with arr := q.arr + 1 }.settle

/-- QBYT at the bank (R377). -/
def Quire.addBytes (q : Quire) (d : Int) : Option Quire :=
  let n := q.bytes + d
  if n < -(2 ^ 47 : Int) || (2 ^ 47 : Int) ≤ n then none else some { q with bytes := n }.settle

/-- passed(p) of R377. -/
def Quire.passed (q : Quire) (p : Nat) : Bool :=
  let d := (q.phase + 2 ^ 16 - p % 2 ^ 16) % 2 ^ 16
  1 ≤ d && d ≤ 32767

/-- Whether a synchronisation word holds its fragment until its bank answers (R375). -/
def SyncOp.returns : SyncOp → Bool
  | .take _ | .peek _ _ | .qwait _ => true
  | _ => false

/-- What the answer to a synchronisation word writes, as `VOp.dests` numbers s registers and c bits (R95, R375). -/
def SyncOp.dests : SyncOp → List Nat
  | .take d => if d = 0 then [] else [384 + d]
  | .peek d c => (if d = 0 then [] else [384 + d]) ++ [cnum c]
  | _ => []

/-- A synchronisation word's request is sent to the bank of its object, as an access that the gang has issued and that has not performed
(R365, R375). -/
def State.sendSync (s : State) (c : Ctx) (f : Fragment) (va pa : Nat) (w : SyncOp) : State :=
  let o : VOp :=
    { id := s.idCount, set := 0, quads := c.f.qset, wait := .bank 1, due := 0, writes := .none, dests := w.dests, lanes := 0,
      inWindow := false, trace := false }
  let r : BankReq :=
    { gid := c.g.gid, gang := c.h.id, op := s.idCount, lane := 0, va := va, pa := pa, ty := .n64, what := .sync c.f.entry w, fmtf := c.f.fmtf,
      dest := none, due := s.time + Config.latency s.idCount }
  let s1 := s.put c.g { c.h with ops := c.h.ops ++ [o] } f
  { s1 with idCount := s1.idCount + 1, bankQ := s1.bankQ ++ [r] }

/-- A synchronisation word at issue: irrevocable; translated and checked as R259 says, where a fault is precise; then its access is on its way
to its bank, and the fragment of a word that does not return goes on (R374, R375). -/
def syncWord (s : State) (a : SReg) (srcs : List SReg) (w : Ctx → SyncOp) : Out :=
  irrevocable s fun c =>
    let va := (c.h.readS a.val).toNat
    let c1 := { c with g := c.g.orErr (c.h.sourceErr (a :: srcs)) }
    let s1 := s.noteWalk c.g.who va
    match s.checkGlobal c.g.who .sync va 16 with
    | .error f => s1.trap c1 (accessTrap .sync f c.lanes va)
    | .ok (pa, _) => .next (s1.sendSync c1 (if (w c).returns then c.f.hold (.bank s.idCount) else c.f.advance 1) va pa (w c))

/-- An uncorrectable object: an update makes no change (R407). -/
def State.objBad (s : State) (pa : Nat) : Bool := s.memErrBits pa 16 != 0

/-- An access of a synchronisation word at the home slice of its object: it recalls the line, and rolls back the windows that have marked or
claimed it (R245, R369). -/
def State.syncAccess (s : State) (agent : Option (Nat × Nat)) (pa : Nat) : State := (s.conflict agent pa 16 true).recall pa 16

/-- The register that an FTAKE parked on an object waits to write. -/
def Fragment.takes (f : Fragment) (pa : Nat) : Option Nat :=
  match f.wait with
  | .obj q (.take d) => if q = pa && f.served.isNone then some d else none
  | _ => none

/-- One parked FTAKE of a gang returns the value, and its fragment goes on, in the checkpoint of an open window as well (R369, R376); while
a CLAIM of the gang waits it stays parked, and goes on with the value at the grant (R174). -/
def Gang.deliver (h : Gang) (pa : Nat) (v : Word) (f : Fragment) : Gang :=
  match f.takes pa with
  | some d =>
    if h.claim.isNone then h.outside (fun x => x.entry == f.entry && x.takes pa == some d) (fun x => x.advance 1) (some (d, v)) none
    else h.setFrag { f with served := some v }
  | none => h

/-- A future is filled: every FTAKE of a resident group that waits on it returns the value; those of saved groups test their conditions
again at the restore (R149, R376, R380). -/
def State.deliverAll (s : State) (pa : Nat) (v : Word) : State :=
  { s with groups := s.groups.map fun g =>
      if g.place = .resident then { g with gangs := g.gangs.map fun h => h.frags.foldl (fun x f => x.deliver pa v f) h } else g }

/-- Whether a fragment is a QWAIT on an object, for a phase that a quire has passed. -/
def Fragment.waitsPhase (f : Fragment) (pa : Nat) (q : Quire) : Bool :=
  match f.wait with
  | .obj p (.phase n) => p == pa && q.passed n
  | _ => false

/-- Writes an object: the PARKs on its bytes wake, and of the waiters those that the update serves: `served` does it (R167, R376, R377). -/
def State.setObject (s : State) (pa n : Nat) (served : State → State) : State :=
  served ((s.setBytes pa (toBytes 16 n)).wakeWhere fun f => f.isPark && f.waitsOn pa 16)

/-- The bank has applied a synchronisation word's access: its gang's part, and what it leaves in ERRSUM (R370, R375). -/
def State.syncDone (s : State) (r : BankReq) (err : BitVec 9) (answer : Gang → Gang) : State :=
  match s.group? r.gid with
  | none => s
  | some g =>
    match g.gang? r.gang with
    | none => s
    | some h => s.setGroup ((g.orErr err).setGang (answer { h with ops := h.ops.filter fun o => o.id != r.op }.countDone))

/-- The bank's update of an object: the write, unless it is refused with SYNE or the object is uncorrectable (R375, R376, R377, R407). -/
def State.updateObject (s : State) (r : BankReq) (new : Option Nat) (served : State → State) : State :=
  let s1 := s.syncAccess (some (r.gid, r.gang)) r.pa
  if s.objBad r.pa then s1.syncDone r MEME id
  else
    match new with
    | none => s1.syncDone r SYNE id
    | some n => (s1.syncDone r 0 id).setObject r.pa n served

/-- An update of a quire wakes the QWAITs for which passed() now holds (R377, R382). -/
def quireServed (pa new : Nat) (s : State) : State := s.wakeWhere fun f => f.waitsPhase pa (Quire.ofNat new)

/-- Where a word that finds its condition false waits: an entry of the slice's waiter table, or, when it holds 2,048, a resend after 1,024
cycles of its core (R378). The entries of words of saved groups, which the rule does not mention, stay in use until their restore (DESIGN
CHOICE, log 113). -/
def State.waiterFor (s : State) (core va pa : Nat) (k : Waiter) : Wait :=
  let waiters := s.groups.foldl (fun n g => g.gangs.foldl (fun n h => h.frags.foldl (fun n f =>
    match f.wait with
    | .obj q _ => if homeSlice q = homeSlice pa && f.served.isNone then n + 1 else n
    | _ => n) n) n) 0
  if waiters < 2048 then .obj pa k else .resend ((s.core core).cycle + 1024) va k

/-- The fragment that an answer of a bank finds waiting for it. -/
def Fragment.awaits (f : Fragment) (entry op : Nat) : Bool := f.entry == entry && f.wait == .bank op

/-- The bank answers a word that goes on, with what it returns (R376, R377): a fragment that is parked, of a gang whose CLAIM waits, stays parked
until the grant (R174, log 107). -/
def Gang.answered (h : Gang) (r : BankReq) (entry : Nat) (k : Waiter) (v : Word) : Gang :=
  if h.claim.isSome && h.frags.any fun f => f.awaits entry r.op && f.state == .parked then
    h.outside (fun f => f.awaits entry r.op) (fun f => { f with wait := .obj r.pa k, served := some v }) none none
  else
    h.outside (fun f => f.awaits entry r.op) (fun f => f.advance 1) (match k with | .take d => some (d, v) | .phase _ => none) none

/-- FTAKE or QWAIT at the bank: its fragment goes on, with sd := VALUE for FTAKE, or it parks (R376 to R378). -/
def State.waitObject (s : State) (r : BankReq) (entry old : Nat) (k : Waiter) : State :=
  let go := match k with
    | .take _ => old.testBit 64
    | .phase p => (Quire.ofNat old).passed p
  let w := s.waiterFor (((s.group? r.gid).map fun g => g.core).getD 0) r.va r.pa k
  (s.syncAccess (some (r.gid, r.gang)) r.pa).syncDone r (s.memErrBits r.pa 16) fun h =>
    if go then h.answered r entry k (BitVec.ofNat 64 old)
    else h.outside (fun f => f.awaits entry r.op) (fun f => f.park w s.time) none none

/-- What a bank does for a synchronisation word, of the fragment in an entry (R375 to R377); FFILL leaves reserved bits as they are. -/
def State.performSync (s : State) (r : BankReq) (entry : Nat) (w : SyncOp) : State :=
  let old := s.readPhys r.pa 16
  let quire := fun (q : Option Quire) => s.updateObject r (q.map Quire.toNat) (quireServed r.pa ((q.map Quire.toNat).getD old))
  match w with
  | .finit => s.updateObject r (some 0) id
  | .ffill v =>
    s.updateObject r (if old.testBit 64 then none else some (old / 2 ^ 64 * 2 ^ 64 + 2 ^ 64 + v.toNat)) fun t => t.deliverAll r.pa v
  | .take d => s.waitObject r entry old (.take d)
  | .peek d c =>
    (s.syncAccess (some (r.gid, r.gang)) r.pa).syncDone r (s.memErrBits r.pa 16) fun h =>
      h.outside (fun f => f.awaits entry r.op) (fun f => f.advance 1) (some (d, BitVec.ofNat 64 old)) (some (c, old.testBit 64))
  | .qinit v => quire (some ⟨field 63 48 v.toNat, 0, field 31 0 v.toNat, 0⟩)
  | .qarr => quire (Quire.ofNat old).arrive
  | .qbyt v => quire ((Quire.ofNat old).addBytes v.toInt)
  | .qwait p => s.waitObject r entry old (.phase p)

/-- FINIT (R360, R376). -/
def execFinit (a : SReg) (s : State) : Out := syncWord s a [] fun _ => .finit

/-- FFILL (R376). -/
def execFfill (a b : SReg) (s : State) : Out := syncWord s a [b] fun c => .ffill (c.h.readS b.val)

/-- FTAKE (R376). -/
def execFtake (d a : SReg) (s : State) : Out := irrevocable s fun _ => parkPoint s fun _ => syncWord s a [] fun _ => .take d.val

/-- FPEEK (R376). -/
def execFpeek (d a : SReg) (k : CBit) (s : State) : Out := syncWord s a [] fun _ => .peek d.val k

/-- QINIT (R377). -/
def execQinit (a b : SReg) (s : State) : Out := syncWord s a [b] fun c => .qinit (c.h.readS b.val)

/-- QARR (R377). -/
def execQarr (a : SReg) (s : State) : Out := syncWord s a [] fun _ => .qarr

/-- QBYT (R377). -/
def execQbyt (a b : SReg) (s : State) : Out := syncWord s a [b] fun c => .qbyt (c.h.readS b.val)

/-- QWAIT (R377). -/
def execQwait (a b : SReg) (s : State) : Out :=
  irrevocable s fun _ => parkPoint s fun _ => syncWord s a [b] fun c => .qwait ((c.h.readS b.val).toNat % 2 ^ 16)

/-- What a waiting word asks of its bank. -/
def Waiter.op : Waiter → SyncOp
  | .take d => .take d
  | .phase p => .qwait p

/-- WAITER_RESEND: the request of a word that the waiter table had no entry for is sent again, with the translation of its address as it is
then, whose fault is precise at the word; no slot is taken (R244, R378). -/
def execWaiterResend (gid gang entry : Nat) (s : State) : Out :=
  match (s.group? gid).bind fun g => (g.gang? gang).bind fun h => (h.frag? entry).map fun f => Ctx.mk g h f with
  | none => .fault .absent
  | some c =>
    match c.f.wait, c.h.claim.isNone && c.g.place == .resident with
    | .resend _ va k, true =>
      let s1 := s.noteWalk c.g.who va
      (match s.checkGlobal c.g.who .sync va 16 with
       | .error f => s1.trap c (accessTrap .sync f c.lanes va)
       | .ok (pa, _) => .next (s1.sendSync c { c.f with wait := .bank s.idCount } va pa k.op))
    | _, _ => .fault .absent

/-- The arrival of a .POST at a quire, reported in the group's ERRSUM when it is refused (R323, R375). -/
def State.postArrival (s : State) (gid pa : Nat) : State :=
  let err := fun (x : BitVec 9) => ({ s with groups := s.groups.map (fun (g : Group) => if g.gid = gid then g.orErr x else g) } : State)
  if s.objBad pa then (err MEME).syncAccess none pa
  else
    match (Quire.ofNat (s.readPhys pa 16)).arrive with
    | none => (err SYNE).syncAccess none pa
    | some q => (s.syncAccess none pa).setObject pa q.toNat (quireServed pa q.toNat)

end Sys2Proof.Machine
end

