-- ==== Sys2Proof/Machine/Atomics.lean ====
section
/-! DEFINITION. Atomics, compare-and-swap and far operations; the banks that perform them; ordered contributions (R254 to R256, R271 to R276, R407). -/

namespace Sys2Proof.Machine

open Sys2Proof.Bits
open Sys2Proof.Types (width isF isSigned)

/-- The new value of an atomic: pattern and SATF bits (R271). -/
def atomicOp (op : Nat) (c : Num.Ctl) (t : TyCode) (x b : Nat) : Nat × Nat :=
  let w := width t
  let isMin := if isF t then Num.minMax c.flush true false t x b else if intOf t b < intOf t x then b else x
  let isMax := if isF t then Num.minMax c.flush true true t x b else if intOf t x < intOf t b then b else x
  match op with
  | 0 => if isF t then Num.addBits c t x b else ((x + b) % 2 ^ w, 0)
  | 1 => (isMin, 0)
  | 2 => (isMax, 0)
  | 3 => (if isF t then Num.minMax c.flush false false t x b else min x b, 0)
  | 4 => (if isF t then Num.minMax c.flush false true t x b else max x b, 0)
  | 5 => (x &&& b, 0)
  | 6 => (x ||| b, 0)
  | 7 => (x ^^^ b, 0)
  | 8 => (b, 0)
  | _ => (if b ≤ x then 0 else x + 1, 0)

/-- The new value of a reduce of forms 0 to 2 (R274). -/
def farReduce (form : Nat) (c : Num.Ctl) (t : TyCode) (x b : Nat) : Nat × Nat :=
  match form with
  | 0 => foldOp 0 c t x b
  | 1 => foldOp 1 c t x b
  | _ => foldOp 2 c t x b

/-- Scale-accumulate (R274). -/
def scaleAcc (c : Num.Ctl) (t : TyCode) (x b a : Nat) : Nat × Nat :=
  if isF t then Num.fmaBits c t x b a else ((x * b + a) % 2 ^ width t, 0)

/-- What a request that is not ordered leaves in memory, with its SATF bits; none where it writes nothing. -/
def BankReq.result (r : BankReq) (x : Nat) : Option (Nat × Nat) :=
  let c := Num.ctlOf r.fmtf.toNat
  match r.what with
  | .atom op b => some (atomicOp op c r.ty x b)
  | .cas b v => if x = b then some (v, 0) else none
  | .far form b v => some (if form = 4 then scaleAcc c r.ty x b v else farReduce form c r.ty x b)
  | .farCas b v _ => if x = b then some (v, 0) else none
  | .ordered form b _ _ => some (farReduce form c r.ty x b)
  | .sync _ _ => none

/-- Whether a request's SATF bits are set when it performs, and also in the checkpoint (R274); those of an atomic wait for the result. -/
def BankReq.isFar (r : BankReq) : Bool :=
  match r.what with
  | .atom _ _ | .cas _ _ => false
  | _ => true

/-- The register writes a request makes when its result lands, from the old value (R271, R272, R274). -/
def BankReq.writes (r : BankReq) (x : Nat) (flags : Nat) : Writes :=
  let v := match r.dest with | some d => [((d, r.lane), BitVec.ofNat 64 x)] | none => []
  let bit : Word := BitVec.ofNat 64 (2 ^ r.lane)
  let p := match r.what with | .farCas b _ p => [(p, bit, if x = b then bit else 0)] | _ => []
  { v := v, p := p, s := [], satf := if r.isFar then 0 else BitVec.ofNat 4 flags }

/-- SATF bits of a gang set now, and in its checkpoint where a window is open (R274). -/
def Gang.orSatfBoth (h : Gang) (x : BitVec 4) : Gang :=
  (h.orSatf x).updWindow (fun w => { w with check := { w.check with satf := w.check.satf ||| x } })

/-- One lane of an outstanding operation has performed: its writes join those that will land; the last makes the operation ready. -/
def VOp.performed (o : VOp) (w : Writes) : VOp :=
  { o with
    writes := ⟨o.writes.v ++ w.v, o.writes.p ++ w.p, o.writes.s ++ w.s, o.writes.satf ||| w.satf⟩,
    wait := match o.wait with | .bank (n + 2) => .bank (n + 1) | .bank _ => .time | x => x }

/-- A request has performed at its bank: its gang's part (R254, R271, R274). -/
def State.bankDone (s : State) (r : BankReq) (w : Writes) (flags : Nat) (err : BitVec 9) : State :=
  match s.group? r.gid with
  | none => s
  | some g =>
    match g.gang? r.gang with
    | none => s
    | some h =>
      let ops := h.ops.map (fun o => if o.id = r.op then o.performed w else o)
      let last := !(ops.any (fun o => o.id == r.op && (match o.wait with | .bank _ => true | _ => false)))
      let h1 := { h with ops := ops }
      let h2 := if r.isFar then h1.orSatfBoth (BitVec.ofNat 4 flags) else h1
      s.setGroup ((g.orErr err).setGang (if last then h2.countDone else h2))

/-- A bank performs a lane's request at the home slice, which first recalls the line (R245, R254, R407). One that stores nothing, after a failed
compare or on an uncorrectable line, conflicts as an access but wakes nobody (log 77). -/
def State.performLane (s : State) (r : BankReq) : State :=
  let n := width r.ty / 8
  let agent := some (r.gid, r.gang)
  let s1 := (s.conflict agent r.pa n true).recall r.pa n
  if s.memErrBits r.pa n != 0 then
    let w : Writes := { r.writes (2 ^ 64 - 1) 0 with p := (r.writes 0 0).p.map (fun x => (x.1, x.2.1, 0)) }
    s1.bankDone r w 0 MEME
  else
    let x := s.readPhys r.pa n
    match r.result x with
    | none => s1.bankDone r (r.writes x 0) 0 0
    | some (y, flags) => (s1.writePhys agent r.pa (toBytes n y)).bankDone r (r.writes x flags) flags 0

/-- A bank performs a request: a lane's, or that of a synchronisation word (R254, R375). -/
def State.perform (s : State) (r : BankReq) : State :=
  match r.what with
  | .sync entry w => s.performSync r entry w
  | _ => s.performLane r

/-- The bytes of an object that a request is for. -/
def BankReq.size (r : BankReq) : Nat :=
  match r.what with
  | .sync _ _ => 16
  | _ => width r.ty / 8

/-! ## The instructions (R271 to R274) -/

/-- The low sub-element of an operand in a lane. -/
def Issue.value (i : Issue) (t : TyCode) (o : Operand) (lane : Nat) : Nat := i.read t o lane % 2 ^ width t

/-- An atomic, compare-and-swap or far operation: it issues in no window, and once every earlier access of the gang has performed; the
checks, and one request to its bank for each active lane (R254, R269, R273, R365). -/
def bankWord (op : LOp) (ln : Lane) (s : State) (dests : List Nat) (dest : Option Nat) (what : Issue → Nat → BankOp) : Out :=
  irrevocable s fun _ => laneWord op ln s ownLane fun i =>
    let r := i.checkLanes i.workers (fun va => s.checkGlobal i.g.who .atomic va (width i.t / 8))
    let s1 := i.noteWalks s i.workers
    match laneFault .atomic r.2 with
    | some t => s1.trap i.ctx t
    | none =>
      let reqs := r.1.map fun a =>
        { gid := i.g.gid, gang := i.h.id, op := s.idCount, lane := a.lane, va := i.addr a.lane, pa := a.pa, ty := i.t,
          what := what i a.lane, fmtf := i.f.fmtf, dest := dest, due := s.time + Config.latency (s.idCount + a.lane) : BankReq }
      let helpers := i.lanes.filter i.isHelper
      let bits : Word := BitVec.ofNat 64 (maskOf helpers)
      let w : Writes :=
        { v := match dest with | some d => helpers.map (fun l => ((d, l), (0 : Word))) | none => [],
          p := (dests.filter (fun d => 448 ≤ d)).map (fun d => (d - 448, bits, (0 : Word))), s := [], satf := 0 }
      let wait := if reqs = [] then .time else .bank reqs.length
      let s2 := i.start s1 (i.vop s wait w dests)
      .next { s2 with bankQ := s2.bankQ ++ reqs }

/-- VATOM (R271). -/
def execVatom (f : Lane) (s : State) : Out :=
  let dest := if f.x24.getLsbD 20 then none else some (vnum f.d)
  bankWord .vatom f s dest.toList dest fun i l => .atom f.mod.toNat (i.value i.t f.b l)

/-- VCAS (R272). -/
def execVcas (f : Lane) (s : State) : Out :=
  bankWord .vcas f s [vnum f.d] (some (vnum f.d)) fun i l => .cas (i.value i.t f.b l) (i.value i.t f.c l)

/-- VFAR (R274, R275). -/
def execVfar (f : Lane) (s : State) : Out :=
  let m := f.mod.toNat
  let dests := if m = 3 then [448 + pnum f.d] else []
  bankWord .vfar f s dests none fun i l =>
    if m = 3 then .farCas (i.value i.t f.b l) (i.value i.t f.c l) (pnum f.d)
    else if 8 ≤ m then
      let c := i.read .n64 f.c l
      .ordered (m - 8) (i.value i.t f.b l) (c % 2 ^ 32) (c / 2 ^ 32)
    else .far m (i.value i.t f.b l) (if m = 4 then i.value i.t f.c l else 0)

/-! ## The banks -/

/-- Whether a request is ordered. -/
def BankReq.isOrdered (r : BankReq) : Bool :=
  match r.what with
  | .ordered _ _ _ _ => true
  | _ => false

/-- The stack whose slices a physical address is homed on. -/
def homeStack (pa : Nat) : StackId := Fin.ofNat 2 (homeSlice pa / 64)

/-- What the bank does with an ordered contribution on arrival (R275). -/
inductive Arrival where
  /-- it waits in its sender; its entry may have been created -/
  | waits (v : Vat)
  | discards (v : Vat)
  | holds (v : Vat)
  deriving DecidableEq, Repr

/-- The index and count of an ordered request. -/
def BankReq.place (r : BankReq) : Nat × Nat :=
  match r.what with
  | .ordered _ _ idx n => (idx, n)
  | _ => (0, 0)

/-- The arrival rule of R275. -/
def Vat.arrive (v : Vat) (r : BankReq) : Arrival :=
  let slice := homeSlice r.pa
  let here := v.ordered.filter (fun e => e.slice == slice)
  let idx := r.place.1
  let n := r.place.2
  let found := here.find? (fun e => e.target == r.pa)
  if found.isNone && 64 ≤ here.length then .waits v
  else
    let e := found.getD ⟨slice, r.pa, n, 0, []⟩
    let rest := v.ordered.filter (fun x => x.target != r.pa)
    if n != e.count || n = 0 || n ≤ idx || idx < e.next || e.held.any (fun h => h.1 == idx) then
      .discards { v with ordered := if found.isSome then v.ordered else (if n = 0 then rest else e :: rest) }
    else if e.next + 64 ≤ idx || 1024 ≤ here.foldl (fun a x => a + x.held.length) 0 then
      .waits { v with ordered := if found.isSome then v.ordered else e :: rest }
    else .holds { v with ordered := { e with held := (idx, r) :: e.held } :: rest }

/-- Whether a request travels to its bank: an ordered one that the bank could not take stays in its sender (R275). -/
def State.sent (s : State) (r : BankReq) : Bool :=
  !r.isOrdered || match (s.vat (homeStack r.pa)).arrive r with
    | .waits v => v != s.vat (homeStack r.pa)
    | _ => true

/-- The core whose gang sent a request. -/
def State.sender (s : State) (r : BankReq) : Nat := ((s.group? r.gid).map fun g => g.core).getD 0

/-- The port at which a request arrives: that of its core, or, from the other stack, that of UCIe (R255). -/
def State.port (s : State) (r : BankReq) : Nat :=
  if s.sender r / 96 = homeSlice r.pa / 64 then s.sender r else 192

/-- Whether an earlier request must perform first: of the same lane, in its program order (R267, R359); of another lane of the same
instruction, on overlapping bytes, unless its index gives its turn (R273, R275). Log 15. -/
def BankReq.after (r q : BankReq) : Bool :=
  q.gid == r.gid && q.gang == r.gang
    && ((q.op != r.op && q.lane == r.lane)
      || (q.op == r.op && !q.isOrdered && q.pa < r.pa + r.size && r.pa < q.pa + q.size))

/-- Requests that nothing before them holds back, of those a condition takes: a lane's order, and the order in which one port sends to one
bank (R255). -/
def State.freeReqs (s : State) (p : BankReq → Bool) (seen : List BankReq) : List BankReq → List BankReq
  | [] => []
  | r :: rest =>
    let held := seen.any fun q => r.after q || (s.sent q && s.port q == s.port r && bankOf q.pa == bankOf r.pa)
    if p r && !held then r :: s.freeReqs p (r :: seen) rest else s.freeReqs p (r :: seen) rest

/-- The order in which banks accept requests: by base-die cycle, then by port (R254, R255). The times of travel are free (log 4). -/
def State.accepted (s : State) (r : BankReq) : List Nat := [r.due / 625, s.port r]

/-- The request that its bank accepts first. -/
def State.earliest (s : State) (rs : List BankReq) : Option BankReq := leastBy s.accepted rs

/-- Whether a request stalls on a bank whose wake-up it has begun, or another has: it keeps its place before those that come later (R255,
R263). -/
def State.stalls (s : State) (r : BankReq) : Bool := s.waking.any fun x => x.1 == bankOf r.pa

/-- The next request that a bank performs. -/
def State.nextRequest (s : State) : Option BankReq := s.earliest (s.freeReqs (fun r => !r.isOrdered && !s.stalls r) [] s.bankQ)

/-- Removes a request from the queue. -/
def State.dropRequest (s : State) (r : BankReq) : State := { s with bankQ := s.bankQ.erase r }

/-- A request that meets a gated bank wakes it, and stalls until the wake-up ends (R263). -/
def State.unlessGated (s : State) (r : BankReq) (k : Out) : Out :=
  if s.isGated (bankOf r.pa) then .next (s.touchBanks r.pa 1) else k

/-- BANK_REQUEST (R254). -/
def execBankRequest (s : State) : Out :=
  match s.nextRequest with
  | none => .fault .absent
  | some r => s.unlessGated r (.next ((s.dropRequest r).perform r))

/-- Applies the contributions of a target that are next in turn (R275). Fuel counts the 64 indices that can be held. -/
def State.applyOrdered (s : State) (st : StackId) (target : Nat) : Nat → State
  | 0 => s
  | n + 1 =>
    let v := s.vat st
    match v.ordered.find? (fun e => e.target == target) with
    | none => s
    | some e =>
      let rest := v.ordered.filter (fun x => x.target != target)
      match e.held.find? (fun h => h.1 == e.next) with
      | none => if e.next = e.count then s.setVat st { v with ordered := rest } else s
      | some (_, r) =>
        let e1 := { e with next := e.next + 1, held := e.held.filter (fun h => h.1 != e.next) }
        ((s.setVat st { v with ordered := e1 :: rest }).perform r).applyOrdered st target n

/-- Ordered requests of a stack that are free to arrive, in order of arrival. -/
def State.orderedArrivals (s : State) (st : StackId) : List BankReq :=
  s.freeReqs (fun r => r.isOrdered && homeStack r.pa == st) [] s.bankQ

/-- The next ordered contribution that does not wait in its sender. -/
def State.nextOrdered (s : State) (st : StackId) : Option BankReq :=
  s.earliest ((s.orderedArrivals st).filter fun r => s.sent r && !s.stalls r)

/-- ORDERED_CONTRIBUTION (R275). -/
def execOrderedContribution (st : StackId) (s : State) : Out :=
  match s.nextOrdered st with
  | none => .fault .absent
  | some r =>
    s.unlessGated r <|
      let s1 := s.dropRequest r
      match (s.vat st).arrive r with
      | .waits v => .next (s.setVat st v)
      | .discards v => .next ((s1.setVat st v).bankDone r .none 0 ORDE)
      | .holds v => .next ((s1.setVat st v).applyOrdered st r.pa 66)

end Sys2Proof.Machine
end

