-- ==== Sys2Proof/Machine/Frames.lean ====
section
/-! DEFINITION. Frames in flight: footprints, the tile scoreboard, transient rings, the order of work, and the promise (R25 to R37, R53, R54, R57 to R59, R410, R411). -/

namespace Sys2Proof.Machine

open Sys2Proof.Bits

/-! ## Looking up frames, passes and tiles -/

/-- The frame in a slot. -/
def State.frameAt (s : State) (slot : Nat) : Option Frame := s.frames.find? (fun f => f.slot == slot)

/-- A pass of the frame in a slot. -/
def State.passAt (s : State) (slot pass : Nat) : Option Pass := (s.frameAt slot).bind fun f => f.passes[pass]?

/-- A tile. -/
def State.tileAt (s : State) (t : TileRef) : Option Tile := (s.passAt t.slot t.pass).bind fun p => p.tiles[t.tile]?

/-- A change of one pass. -/
def State.updPass (s : State) (slot pass : Nat) (f : Pass → Pass) : State :=
  s.updFrame slot fun x => { x with passes := x.passes.modify pass f }

/-- The stacks that AFF names (R16). -/
def affStacks (aff : Nat) : List Nat := [0, 1].filter (fun b => aff.testBit b)

/-- The stack that holds a tile's counter and on which it launches (R54). -/
def PassRec.stackOf (p : PassRec) (tile : Nat) : Nat := if p.aff = 3 then tile % 2 else if p.aff = 2 then 1 else 0

/-- Tiles of a pass. -/
def PassRec.tiles (p : PassRec) : Nat := p.gx * p.gy

/-- The pixel size of a tile, as logarithms, and its column and row. -/
def PassRec.column (p : PassRec) (tile : Nat) : Nat := tile % p.gx
def PassRec.row (p : PassRec) (tile : Nat) : Nat := tile / p.gx

/-! ## Footprints (R22, R25) -/

/-- span of R25, as first and last index. -/
def spanOf (c : Nat) (s : Int) : Nat × Nat :=
  if 0 ≤ s then (c <<< s.toNat, (c <<< s.toNat) + 2 ^ s.toNat - 1) else (c >>> (-s).toNat, c >>> (-s).toNat)

/-- The indices below `n` of a span shifted by `d`. -/
def shifted (n : Nat) (r : Nat × Nat) (d : Int) : List Nat :=
  (List.range (r.2 + 1 - r.1)).filterMap fun i =>
    let x : Int := (r.1 + i : Nat) + d
    if 0 ≤ x && x < n then some x.toNat else none

/-- The signed log2 ratios of a window deckle (R22). -/
def Edge.sx (e : Edge) : Int := toSigned 4 (field 31 28 e.deckle)
def Edge.sy (e : Edge) : Int := toSigned 4 (field 35 32 e.deckle)

/-- The producer tiles, as linear indices, that consumer tile `c` reads: each once (R25). -/
def Edge.footprint (e : Edge) (prod cons : PassRec) (c : Nat) : List Nat :=
  match e.dkind with
  | 1 => List.range prod.tiles
  | 2 => ((e.table.getD c []).map fun p => p.2 * prod.gx + p.1).eraseDups
  | _ =>
    let cx := cons.column c
    let cy := cons.row c
    ((List.range 25).flatMap fun b =>
      if e.deckle.testBit b then
        (shifted prod.gy (spanOf cy e.sy) ((b / 5 : Nat) - 2)).flatMap fun py =>
          (shifted prod.gx (spanOf cx e.sx) ((b % 5 : Nat) - 2)).map fun px => py * prod.gx + px
      else []).eraseDups

/-- The record of a pass of a frame. -/
def Frame.rcd (f : Frame) (p : Nat) : PassRec := (f.passes[p]?.map fun x => x.rcd).getD ⟨0, false, 0, 0, 0, 0, 0, 0, 0, 0, 0, 0, 0, 0, 0, 0, 0, 0⟩

/-- The footprint of an edge of a frame. -/
def Frame.footprint (f : Frame) (e : Edge) (c : Nat) : List Nat := e.footprint (f.rcd e.prod) (f.rcd e.cons) c

/-- count(P, c) of R26. -/
def Frame.count (f : Frame) (p c : Nat) : Nat :=
  (f.edges.filter fun e => e.cons == p).foldl (fun n e => n + (if e.dkind = 1 then 1 else (f.footprint e c).length)) 0

/-- Consumer tiles of an edge that read producer tile `p`. -/
def Frame.readers (f : Frame) (e : Edge) (p : Nat) : List Nat :=
  (List.range (f.rcd e.cons).tiles).filter fun c => (f.footprint e c).contains p

/-- lastreaders(p) of R31. -/
def Frame.lastReaders (f : Frame) (r : Ring) (p : Nat) : Nat :=
  (f.edges.filter fun e => e.res == r.res).foldl (fun n e => n + (f.readers e p).length) r.exported.toNat

/-- Whether a pass holds tile counters: it has read edges (R54). -/
def Frame.counted (f : Frame) (p : Nat) : Bool := f.edges.any fun e => e.cons == p

/-! ## Decrements (R26 to R28, R31, R411) -/

/-- Lowers the counter of a tile; at zero the tile is released (R27). -/
def Tile.lower (t : Tile) : Tile :=
  let n := t.counter - 1
  { t with counter := n, state := if n = 0 && t.state = .waiting then .released else t.state }

/-- Lowers the counters of some tiles of a pass. -/
def Frame.lowerTiles (f : Frame) (pass : Nat) (cs : List Nat) : Frame :=
  { f with passes := f.passes.modify pass fun p => { p with tiles := cs.foldl (fun ts c => ts.modify c Tile.lower) p.tiles } }

/-- Lowers the edge counter of a whole edge on a stack: its new value (R26). -/
def lowerEdge (l : List (Nat × Nat × Nat)) (edge st : Nat) : List (Nat × Nat × Nat) × Nat :=
  (l.map fun x => if x.1 = edge && x.2.1 = st then (x.1, x.2.1, x.2.2 - 1) else x,
   ((l.find? fun x => x.1 == edge && x.2.1 == st).map fun x => x.2.2 - 1).getD 1)

/-- The decrements that one edge of a retired producer tile makes on a stack (R27). -/
def Frame.applyEdge (f : Frame) (st tile edge : Nat) (e : Edge) : Frame :=
  let cons := f.rcd e.cons
  if e.dkind = 1 then
    match f.passes[e.cons]? with
    | none => f
    | some p =>
      let r := lowerEdge p.edgeCounters edge st
      let f1 := { f with passes := f.passes.modify e.cons fun p => { p with edgeCounters := r.1 } }
      if r.2 = 0 then f1.lowerTiles e.cons ((List.range cons.tiles).filter fun c => cons.stackOf c == st) else f1
  else f.lowerTiles e.cons ((f.readers e tile).filter fun c => cons.stackOf c == st)

/-- The decrements of R27 of a producer tile on one stack, edge by edge. -/
def Frame.lowerAll (f : Frame) (st pass tile : Nat) : Frame :=
  ((List.range f.edges.length).zip f.edges).foldl (fun g ie => if ie.2.prod = pass then g.applyEdge st tile ie.1 ie.2 else g) f

/-- The last-reader decrements of a retired consumer tile in a ring; slots at zero are freed (R31). -/
def Ring.lower (r : Ring) (f : Frame) (pass tile : Nat) : Ring :=
  let es := f.edges.filter fun e => e.res == r.res && e.cons == pass
  let reads := es.flatMap fun e => f.footprint e tile
  let held := r.held.map fun sl => { sl with readers := sl.readers - reads.count sl.tile }
  { r with held := held.filter fun sl => sl.readers != 0 || reads.count sl.tile == 0 }

/-- The producer tile's own slot becomes read-only, and is freed if nothing reads it (R31, R34). -/
def Ring.retire (r : Ring) (tile : Nat) : Ring :=
  let held := r.held.map fun sl => if sl.tile = tile then { sl with retired := true } else sl
  { r with held := held.filter fun sl => sl.tile != tile || sl.readers != 0 }

/-- What the graph unit of a stack does when it applies a retirement (R27, R31, R411). -/
def State.decrementOn (s : State) (st : Nat) (t : TileRef) (serial : Nat) : State :=
  match s.frames.find? fun f => f.serial == serial with
  | none => s
  | some f =>
    let s1 := s.updFrame f.slot fun x => x.lowerAll st t.pass t.tile
    { s1 with rings := s1.rings.map fun r => if r.frame = serial && r.stack = st then r.lower f t.pass t.tile else r }

/-! ## Starting a tile (R30, R31, R58, R340) -/

/-- The lowest number below n not in a list. -/
def lowestFree (n : Nat) (used : List Nat) : Option Nat := (List.range n).find? fun i => !used.contains i

/-- The ring with a tile mapped to the lowest free slot, or, where it has none, to the lowest free overflow entry (R30). -/
def Ring.take (r : Ring) (f : Frame) (tile : Nat) : Option Ring :=
  if r.held.any fun sl => sl.tile == tile then some r
  else
    let used := fun (b : Bool) => (r.held.filter fun sl => sl.isOvf == b).map fun sl => sl.index
    let mk := fun (i : Nat) (b : Bool) =>
      { r with held := r.held ++ [⟨i, b, tile, f.lastReaders r tile, r.exported, false⟩] }
    match lowestFree r.slots (used false) with
    | some i => some (mk i false)
    | none => (lowestFree r.ovfn (used true)).map fun i => mk i true

/-- All rings of a tile's pass with the tile mapped, or none where one is full (R30). -/
def takeSlots (f : Frame) (pass tile : Nat) : List Ring → Option (List Ring)
  | [] => some []
  | r :: rs =>
    match takeSlots f pass tile rs with
    | none => none
    | some more => if r.frame = f.serial && r.prod = pass then (r.take f tile).map fun x => x :: more else some (r :: more)

/-- Whether an earlier released tile of the pass has still to start: it starts first, on whichever stack where the pass fills rings
(`ringed`), whose slots both stacks' tiles take, else on the same stack (R29, R30). -/
def Pass.earlierWaits (p : Pass) (ringed : Bool) (tile : Nat) : Bool :=
  (List.range tile).any fun i =>
    (ringed || p.rcd.stackOf i == p.rcd.stackOf tile) && (p.tiles[i]?.any fun t => t.state == .released)

/-- Whether a pass of a frame produces a transient (R19). -/
def State.ringed (s : State) (slot pass : Nat) : Bool :=
  (s.frameAt slot).any fun f => s.rings.any fun r => r.frame == f.serial && r.prod == pass

/-- The state with a released tile started: slots taken, nets bound, the engine's meter running; none where it may not start (R30, R58, R340). -/
def State.startTile (s : State) (t : TileRef) : Option State :=
  match s.frameAt t.slot with
  | none => none
  | some f =>
    match f.passes[t.pass]? with
    | none => none
    | some p =>
      match p.tiles[t.tile]? with
      | none => none
      | some x =>
        if x.state != .released then none
        else
          (takeSlots f t.pass t.tile s.rings).map fun rs =>
            let s1 := { s with rings := rs }
            let s2 := s1.updPass t.slot t.pass fun p =>
              { p with bound := match p.bound with | some b => some b | none => some (s.nets.map fun n => n.cur) }
            s2.updTile t fun x =>
              { x with state := .started, began := if 2 ≤ p.rcd.kind then some s.nstime else none }

/-! ## The order of work (R59) -/

/-- Core time delivered to a pass on a stack in the current quantum, ns. -/
def State.delivered (s : State) (serial pass st : Nat) : Nat :=
  (s.groups.filter fun g => g.place == .resident && g.frame == serial && g.tref.pass == pass && g.core / 96 == st).foldl
    (fun a g => a + s.quantumTime g) 0

/-- Whether a pass has a reservation on a stack in the current quantum that is not yet delivered: core time, or bytes of GDDR 7 (R56, R59). -/
def State.undelivered (s : State) (serial pass st : Nat) : Bool :=
  s.reserved.any fun r => r.frame == serial && r.pass == pass && r.stack == st && r.quantum == s.nstime / 50000
    && (decide (r.spent + s.delivered serial pass st < r.ns)
      || decide ((Config.movedBytes serial pass st r.quantum s.nstime : Int) < r.bytes))

/-- Whether a pass has moved more bytes than its GBYTES: when, is the device's own, and not before a tile of it has started (R57). -/
def State.overBytes (s : State) (f : Frame) (pass : Nat) : Bool :=
  (f.passes[pass]?).any fun p => decide (p.rcd.gbytes < Config.passBytes f.serial pass) && decide (Config.overAt f.serial pass ≤ s.nstime)
    && p.tiles.any fun x => x.state == .started || x.state == .retired

/-- Whether a pass has lost its promise through itself: a tile of it, or its bytes (R57). -/
def State.lapsedSelf (s : State) (f : Frame) (pass : Nat) : Bool :=
  (f.passes[pass]?).any fun p => p.promised && (p.lapsedOwn || s.overBytes f pass)

/-- Whether a pass has lost its promise through an ancestor (R57). -/
def State.lapsedAbove (s : State) (f : Frame) (pass : Nat) : Bool :=
  (f.passes[pass]?).any fun p => p.promised && (p.lapsed
    || (List.range pass).any fun a => s.overBytes f a && (f.descendants a).contains pass)

/-- Whether a pass still carries its promise (R57). -/
def State.kept (s : State) (f : Frame) (pass : Nat) : Bool :=
  (f.passes[pass]?).any (fun p => p.promised) && !s.lapsedSelf f pass && !s.lapsedAbove f pass

/-- The class of a tile's work on a stack (R59). -/
def State.workClass (s : State) (f : Frame) (p : Pass) (pass tile st : Nat) : Nat :=
  if p.tiles[tile]?.any fun t => t.overrun then 3
  else if s.kept f pass && s.undelivered f.serial pass st then 1 else 2

/-- The key by which R59 orders a tile's work; `sub` orders the groups of a tile. Smaller goes first. -/
def State.workKey (s : State) (t : TileRef) (st sub : Nat) : List Nat :=
  match s.frameAt t.slot with
  | none => [4]
  | some f =>
    match f.passes[t.pass]? with
    | none => [4]
    | some p =>
      let c := s.workClass f p t.pass t.tile st
      [c, if c = 1 then p.lft else 0, 15 - f.prio, f.tacc, t.pass, t.tile, f.serial, sub]

/-- The tiles of frames in flight, launched on a stack, that a condition takes. -/
def State.tilesWhere (s : State) (st : Nat) (c : Pass → Tile → Bool) : List TileRef :=
  s.frames.flatMap fun f => ((List.range f.passes.length).zip f.passes).flatMap fun ip =>
    ((List.range ip.2.tiles.length).zip ip.2.tiles).filterMap fun it =>
      if ip.2.rcd.stackOf it.1 = st && c ip.2 it.2 then some ⟨f.slot, ip.1, it.1⟩ else none

/-- The released tiles of a stack that may start now, in the order of R29, R30 and R59. -/
def State.readyTiles (s : State) (st : Nat) (kindOk : Nat → Bool) : List TileRef :=
  let ts := (s.tilesWhere st fun p x => kindOk p.rcd.kind && x.state == .released).filter fun t =>
    !((s.passAt t.slot t.pass).any fun p => p.earlierWaits (s.ringed t.slot t.pass) t.tile)
  sortBy (fun t => s.workKey t st 0) ts

/-! ## The promise (R57, R58) -/

/-- A tile's core time, or time on its engine, ns (R58). -/
def State.tileMeter (s : State) (t : TileRef) : Nat :=
  match s.tileAt t with
  | none => 0
  | some x =>
    (s.groups.filter fun g => g.place == .resident && g.tref == t).foldl (fun a g => a + (s.time - g.since) / 1000) x.meter
      + (match x.began with | some b => s.nstime - b | none => 0)

/-- A tile leaves its engine: its meter stops with the time there charged (R58). -/
def Tile.leave (x : Tile) (now : Nat) : Tile :=
  { x with meter := x.meter + (match x.began with | some b => now - b | none => 0), began := none }

/-- The engine's work on a tile is finished, whose meter stops (R58, R409). -/
def Tile.finish (x : Tile) (now : Nat) : Tile := { x.leave now with engineDone := true }

/-- TILE_OVERRUN (R57, R58). -/
def execTileOverrun (slot pass tile : Nat) (s : State) : Out :=
  let t : TileRef := ⟨slot, pass, tile⟩
  match s.passAt slot pass, s.tileAt t with
  | some p, some x =>
    if x.state = .started && !x.overrun && p.rcd.budget < s.tileMeter t then
      .next ((s.updTile t fun x => { x with overrun := true }).lapse slot pass)
    else .fault .absent
  | _, _ => .fault .absent

/-! ## Exported transients (R37) -/

/-- GXREL_WRITE: a slot whose count comes to zero is freed, its producer tile retired or not (R31, R37, R46). Where exported transients of several
frames have the same WINVA, the write acts on each (DESIGN CHOICE, log 118). -/
def State.releaseExport (s : State) (win : Nat) : State :=
  let hit := fun (r : Ring) => r.exported && r.winva.toNat / 65536 == win
  if s.rings.any hit then
    let rs := s.rings.map fun r =>
      if hit r then
        { r with held := (r.held.map fun sl =>
            if sl.extra then { sl with readers := sl.readers - 1, extra := false } else sl).filter fun sl => sl.readers != 0 }
      else r
    { s with rings := rs.filter fun r => !(r.held.isEmpty && !(s.frames.any fun f => f.serial == r.frame)) }
  else { s with gu := { s.gu with xmiss := true } }

end Sys2Proof.Machine
end

