-- ==== Sys2Proof/Machine/Queues.lean ====
section
/-! DEFINITION. Node tables and the queues of record-pass nodes (R280, R345, R347, R351). -/

namespace Sys2Proof.Machine

open Sys2Proof.Bits

/-- A node entry of a pass's node table, as a number of 512 bits (R345). -/
def Pass.node (p : Pass) (i : Nat) : Nat := p.nodes.getD (i + 1) 0

/-- Fields of a node entry (R345). -/
def nodeType (n : Nat) : Nat := field 2 0 n
def nodeSize (n : Nat) : Nat := field 11 10 n
def nodeScr (n : Nat) : Nat := field 20 16 n
def nodeAccs (n : Nat) : Nat := field 24 21 n
def nodeCull (n : Nat) : Nat := field 39 38 n
def nodeBlend (n : Nat) : Nat := field 41 40 n
def nodeZmode (n : Nat) : Nat := field 43 42 n
def nodeCap (n : Nat) : Nat := field 63 48 n
def nodePitch (n : Nat) : Nat := field 383 368 n
def nodeZbase (n : Nat) : Nat := field 455 400 n
def nodeAddr (n : Nat) : Nat := field 511 456 n

/-- The target of output q of a node, where the output is valid (R345). -/
def nodeOut (n q : Nat) : Option Nat :=
  let b := n >>> (128 + 8 * q)
  if q < 16 && b.testBit 7 then some (b % 16) else none

/-- The number of nodes, and the entry node (R345). -/
def Pass.nodeCount (p : Pass) : Nat := p.nodes.headD 0 % 16 + 1
def Pass.entryNode (p : Pass) : Nat := p.nodes.headD 0 / 16 % 16

/-! ## Queues -/

/-- The started tile of a record pass. -/
def State.recTile? (s : State) (t : TileRef) : Option RecTile := s.recTiles.find? fun r => r.tref == t

/-- A change of a started record-pass tile. -/
def State.updRecTile (s : State) (t : TileRef) (f : RecTile → RecTile) : State :=
  { s with recTiles := s.recTiles.map fun r => if r.tref = t then f r else r }

/-- The queue of a node. -/
def RecTile.queue (r : RecTile) (n : Nat) : List NodeRec := Table.get [] r.queues n

/-- Replaces the queue of a node. -/
def RecTile.setQueue (r : RecTile) (n : Nat) (q : List NodeRec) : RecTile := { r with queues := Table.set [] r.queues n q }

/-- Adds to a statistics counter of a tile (R358). -/
def RecTile.count (r : RecTile) (k n : Nat) : RecTile := { r with stats := r.stats.modify k fun x => (x + n) % 2 ^ 64 }

/-- Moves the records of one waiting emit into their queue, as far as there is room (R280). -/
def RecTile.moveEmit (r : RecTile) (p : Pass) (e : EmitWait) : RecTile × EmitWait :=
  let q := r.queue e.node
  let room := nodeCap (p.node e.node) - q.length
  let go := (e.recs.take room)
  let arrived := (List.range go.length).map fun i => { go.getD i ⟨[], 0, 0⟩ with arrival := r.arrivals + i }
  ({ r.setQueue e.node (q ++ arrived) with arrivals := r.arrivals + go.length }, { e with recs := e.recs.drop room })

/-- Whether an emit waits behind an earlier one: for the same queue, or of the same gang (R280). -/
def EmitWait.behind (e q : EmitWait) : Bool :=
  q.node == e.node || (match e.source, q.source with
    | some a, some b => a.1 == b.1 && a.2.1 == b.2.1
    | _, _ => false)

/-- Moves waiting emits in order; one that is tentative waits for its window, and `held` are the earlier ones that wait. Answers the
tile, the emits left, and the operations whose records have all entered. -/
def RecTile.moveEmits (p : Pass) : RecTile → List EmitWait → List EmitWait → RecTile × List EmitWait × List (Nat × Nat × Nat)
  | r, _, [] => (r, [], [])
  | r, held, e :: es =>
    if e.tentative || held.any e.behind then
      let x := moveEmits p r (e :: held) es
      (x.1, e :: x.2.1, x.2.2)
    else
      let m := r.moveEmit p e
      if m.2.recs = [] then
        let x := moveEmits p m.1 held es
        (x.1, x.2.1, e.source.toList ++ x.2.2)
      else
        let x := moveEmits p m.1 (e :: held) es
        (x.1, m.2 :: x.2.1, x.2.2)

/-- An EMIT whose records have all entered may land (R280). -/
def State.emitDone (s : State) (x : Nat × Nat × Nat) : State :=
  match s.group? x.1 with
  | none => s
  | some g =>
    match g.gang? x.2.1 with
    | none => s
    | some h => s.setGroup (g.setGang { h with ops := h.ops.map fun o => if o.id = x.2.2 then { o with wait := .time } else o })

/-- Moves the waiting emits of a tile into its queues. -/
def State.drain (s : State) (t : TileRef) : State :=
  match s.recTile? t, s.passAt t.slot t.pass with
  | some r, some p =>
    let x := RecTile.moveEmits p r [] r.emits
    x.2.2.foldl State.emitDone (s.updRecTile t fun _ => { x.1 with emits := x.2.1 })
  | _, _ => s

/-- Moves the waiting emits of every tile. -/
def State.drainAll (s : State) : State := s.recTiles.foldl (fun u r => u.drain r.tref) s

/-- Records emitted by a fixed-function node or an EMIT join those that wait, and enter as far as there is room. -/
def State.emitRecords (s : State) (t : TileRef) (e : EmitWait) : State :=
  (s.updRecTile t fun r => { r with emits := r.emits ++ [e] }).drain t

end Sys2Proof.Machine
end

