-- ==== Sys2Proof/Machine/Landing.lean ====
section
/-! DEFINITION. When variable-latency results land, and how a speculation window ends: commit, held fault, serial mode (R106, R192, R365 to R371). -/

namespace Sys2Proof.Machine

open Sys2Proof.Bits

/-- A gang of a group, by their numbers. -/
def State.gangOf? (s : State) (gid gang : Nat) : Option (Group × Gang) :=
  (s.group? gid).bind fun g => (g.gang? gang).map fun h => (g, h)

/-- Writes made in a checkpoint as well: those of an instruction issued before the window (R369). -/
def Checkpoint.apply (k : Checkpoint) (w : Writes) : Checkpoint :=
  let v := w.v.foldl (fun t x => if k.lmask.getLsbD x.1.2 then Table.set 0 t (vkey x.1.1 x.1.2) x.2 else t) k.v
  let p := w.p.foldl (fun t x =>
    if x.1 = 0 then t
    else Table.set 0 t x.1 ((Table.get 0 t x.1 &&& ~~~(x.2.1 &&& k.lmask)) ||| (x.2.2 &&& x.2.1 &&& k.lmask))) k.p
  let ss := w.s.foldl (fun t x => if x.1 = 0 then t else Table.set 0 t x.1 x.2) k.s
  { k with
    v := v, p := p, s := ss, satf := k.satf ||| w.satf,
    verr := k.verr.filter fun key => !(w.v.any fun x => k.lmask.getLsbD x.1.2 && vkey x.1.1 x.1.2 == key),
    perr := k.perr.filter fun key => !(w.p.any fun x => x.1 == key / 64 && (x.2.1 &&& k.lmask).getLsbD (key % 64)),
    serr := k.serr.filter fun r => !(w.s.any fun x => x.1 == r) }

/-- An operation lands: its results are written, its flags set, and its counter counts down, which may complete a fusion
(R106, R140, R192); a VTRACE that no counter counts is outstanding no more (R397, log 93). -/
def Gang.land (h : Gang) (o : VOp) : Gang :=
  let h1 := { h with ops := h.ops.filter (fun x => x.id != o.id),
                     traced := h.traced.filter fun x => x.1 != o.id || x.2.1 != 0 }.apply o.writes
  let h2 := if o.inWindow then h1 else h1.updWindow (fun w => { w with check := w.check.apply o.writes })
  h2.fusionAll

/-- VAR_RESULT_LAND (R106). -/
def execVarResultLand (gid gang op : Nat) (s : State) : Out :=
  match s.gangOf? gid gang with
  | none => .fault .absent
  | some (g, h) =>
    match h.ops.find? (fun o => o.id == op) with
    | none => .fault .absent
    | some o => if o.wait = .time && (g.place = .resident || g.place = .exited) then .next (s.setGroup (g.setGang (h.land o))) else .fault .absent

/-- Whether every access issued before the checkpoint has performed (R368). -/
def Gang.earlierDone (h : Gang) (w : Window) : Bool :=
  h.ops.all (fun o => !(w.before.contains o.id) || (match o.wait with | .bank n => n == 0 | _ => true))

/-- Held bytes as runs of consecutive addresses: whether in the scratchpad, the first address, the bytes. -/
def runsOf : List HeldByte → List (Bool × Nat × List Byte)
  | [] => []
  | b :: bs =>
    match runsOf bs with
    | (sc, a, l) :: rest => if sc = b.scratch && a = b.addr + 1 then (sc, b.addr, b.val :: l) :: rest else (b.scratch, b.addr, [b.val]) :: (sc, a, l) :: rest
    | [] => [(b.scratch, b.addr, [b.val])]

/-- The held stores of a window written in queue order (R368). -/
def State.writeHeld (s : State) (agent : Option (Nat × Nat)) (core : Nat) (held : List Held) : State :=
  held.foldl (fun t x =>
    (runsOf x.bytes).foldl (fun u r => if r.1 then u.spoke agent core r.2.1 r.2.2 else u.poke agent r.2.1 r.2.2) t) s

/-- WINDOW_COMMIT (R63, R368). -/
def execWindowCommit (gid gang : Nat) (s : State) : Out :=
  match s.gangOf? gid gang with
  | none => .fault .absent
  | some (g, h) =>
    match h.window with
    | none => .fault .absent
    | some w =>
      if w.fault.isSome || !h.earlierDone w then .fault .absent
      else
        let stored := w.held.filterMap (fun x => x.op)
        let h1 := { h with
          window := none, rolls := 0, rolledAt := [],
          ops := h.ops.map (fun (o : VOp) =>
            let o1 := { o with inWindow := false }
            if stored.contains o.id then { o1 with wait := .time, due := s.time + Config.latency o.id } else o1) }
        let s1 := s.setGroup (g.setGang h1)
        let s2 := { s1 with
          launches := s1.launches.map (fun (e : LaunchEntry) => if e.tentative = some (gid, gang) then { e with tentative := none } else e),
          recTiles := s1.recTiles.map (fun (t : RecTile) =>
            { t with emits := t.emits.map (fun (e : EmitWait) => if e.source.any (fun (x : Nat × Nat × Nat) => x.1 == gid && x.2.1 == gang) then { e with tentative := false } else e) }) }
        .next (s2.writeHeld (some (gid, gang)) g.core w.held).drainAll

/-- SERIAL_MODE_END: as many accesses have performed as the mode was to last (R370). -/
def execSerialModeEnd (gid gang : Nat) (s : State) : Out :=
  match s.gangOf? gid gang with
  | none => .fault .absent
  | some (g, h) =>
    if h.serial = some (.count 0) then .next (s.setGroup (g.setGang { h with serial := none })) else .fault .absent

/-- HELD_FAULT_RESOLVE: the gang rolls back, and runs on in serial mode until the instruction that held the fault has issued (R371). The
accesses before it that have performed are those before the checkpoint, since none of the window performs before the commit (log 92). -/
def execHeldFaultResolve (gid gang : Nat) (s : State) : Out :=
  match s.gangOf? gid gang with
  | none => .fault .absent
  | some (_, h) =>
    match h.window with
    | none => .fault .absent
    | some w =>
      if w.fault.isNone || !h.earlierDone w then .fault .absent
      else
        let s1 := s.rollback gid gang
        match s1.gangOf? gid gang with
        | none => .fault .absent
        | some (g1, h1) => .next (s1.setGroup (g1.setGang { h1 with serial := w.fault.map Serial.upTo }))

end Sys2Proof.Machine
end

