-- ==== Sys2Proof/Machine/LaneConvert.lean ====
section
/-! DEFINITION. Dot products, conversions and block scales, opcodes 0x51 and 0x58 to 0x5A (R222 to R227). -/

namespace Sys2Proof.Machine

open Sys2Proof.Bits
open Sys2Proof.Types (width regWidth isSigned isInt isF isN isX)
open Sys2Proof.Num (Exact Pre)

/-- The elements of n registers of a group, lowest first, in a type's sub-elements (R179, R222). -/
def Issue.groupElems (i : Issue) (t : TyCode) (o : Operand) (n lane : Nat) : List Nat :=
  (List.range n).flatMap fun k => Machine.elems (regWidth t) (i.readGroup o k lane)

/-- Byte `k` of a scale register, a v or an s register (R222, R225). -/
def Issue.scaleByte (i : Issue) (o : Operand) (k lane : Nat) : Nat := (i.read .b64 o lane) >>> (8 * k) % 256

/-- The byte number x24[19:17]. -/
def scaleIndex (ln : Lane) : Nat := ln.x24.toNat >>> 17 % 8

/-- The elements of one block or unit of a VDOT operand before its scale, and whether a kx4 block was malformed (R182, R184, R223). -/
def blockExact (t : TyCode) (es : List Nat) (scale : Nat) : List Exact × Bool :=
  if isX t then Num.decodeBlock t es (if scale = 0xFF then 0xFF else 127) else (es.map (Num.decode t), false)

/-- One VDOT in a lane: the accumulator, its flags, and whether a block was malformed (R223). -/
def Issue.dot (i : Issue) (lane : Nat) : Nat × Nat × Bool :=
  let ln := i.ln
  let ta := i.t
  let tb := (Legal.bType ln ta (some i.fmt)).getD ta
  let x := isX ta || isX tb
  let na := if x then Legal.blockRegs ta else 1
  let nb := if x then Legal.blockRegs tb else 1
  let as := i.groupElems ta ln.a na lane
  let bs := i.groupElems tb ln.b nb lane
  if isInt ta then
    let acc := i.read .i32 ln.c lane % 2 ^ 32
    let r := Num.applyUnitInt i.ctl acc (List.zipWith (fun p q => (Num.intElem ta p, Num.intElem tb q)) as bs)
    (r.1, r.2, false)
  else
    let acc := i.read .f32 ln.c lane % 2 ^ 32
    let reg := Decode.operand (Legal.scaleCode ln)
    let k := scaleIndex ln
    let sa := if isX ta then i.scaleByte reg k lane else 127
    let sb := if isX tb then i.scaleByte reg (k + 1) lane else 127
    let a := blockExact ta as sa
    let b := blockExact tb bs sb
    let r := Num.applyUnit i.ctl acc (a.1.zip b.1) sa sb
    (r.1, r.2, a.2 || b.2)

/-- VDOT (R222, R223). -/
def execVdot (f : Lane) (s : State) : Out :=
  fixedLane .vdot f s fun i =>
    let bad := i.lanes.any (fun l => (i.dot l).2.2)
    (i.toV fun l => let r := i.dot l; some (r.1, r.2.1), if bad then FMTE else 0)

/-- The exact value of a source element: integers exactly, floating operands under FLUSH (R188, R224). -/
def Issue.exactOf (i : Issue) (t : TyCode) (x : Nat) : Exact :=
  if isInt t then Num.ofIntElem t x else Num.decodeFl i.ctl.flush t x

/-- Pairing of source and destination elements with the part field (R224): the destination register of a lane from its old value. -/
def partwise (ts td : TyCode) (part old src : Nat) (conv : Nat → Nat × Nat) : Nat × Nat :=
  let ws := width ts
  let wd := width td
  let es := 64 / ws
  let ed := 64 / wd
  if ed ≤ es then joinElems wd ((List.range ed).map fun k => conv (elem ws src (part * ed + k)))
  else
    let rs := (List.range es).map fun k => conv (elem ws src k)
    ((List.range es).foldl (fun o k => setElem wd o (part * es + k) (rs.getD k (0, 0)).1) old, orFlags rs)

/-- VCVT (R224). -/
def execVcvt (f : Lane) (s : State) : Out :=
  fixedLane .vcvt f s fun i =>
    let ts := Types.resolve i.fmt (Types.ofCode f.x24.toNat)
    (i.toV fun l =>
      some (partwise ts i.t (f.x24.toNat >>> 5 % 8) (i.h.readV (vnum f.d) l).toNat (i.read ts f.a l)
        (fun x => Num.convert i.ctl i.t (i.exactOf ts x).pre)), 0)

/-- The wide type of VCVTX and VSCALE. -/
def Issue.wide (i : Issue) : TyCode := Types.resolve i.fmt (Types.ofCode i.ln.x24.toNat)

/-- VCVTX of an 8-bit float type (R225). -/
def Issue.scaledConvert (i : Issue) (lane : Nat) : Nat × Nat :=
  let ln := i.ln
  let unp := ln.mod.getLsbD 0
  let sc := i.scaleByte (Decode.operand (Legal.scaleCode ln)) (scaleIndex ln) lane
  let ts := if unp then i.t else i.wide
  let td := if unp then i.wide else i.t
  let k : Int := if unp then (sc : Int) - 127 else 127 - (sc : Int)
  partwise ts td (ln.x24.toNat >>> 5 % 8) (i.h.readV (vnum ln.d) lane).toNat (i.read ts ln.a lane) fun x =>
    if sc = 0xFF then (Num.canonNan td, 0) else Num.roundF i.ctl td (((i.exactOf ts x).scale k).pre)

/-- Registers made of elements, `per` to a register. -/
def packRegs (w per : Nat) : Nat → List Nat → List Nat
  | 0, _ => []
  | n + 1, es => fromElems w (es.take per) :: packRegs w per n (es.drop per)

/-- The v writes of a lane to a group of registers from a first one. -/
def groupWrites (d lane : Nat) (regs : List Nat) : List ((Nat × Nat) × Word) :=
  (List.range regs.length).map fun k => ((d + k, lane), BitVec.ofNat 64 (regs.getD k 0))

/-- VCVTX of a block, packing (R226): writes of a lane, and SATF bits. -/
def Issue.packBlock (i : Issue) (lane : Nat) : List ((Nat × Nat) × Word) × Nat :=
  let ln := i.ln
  let k := scaleIndex ln
  let reg := Decode.operand (Legal.scaleCode ln)
  let xs := (i.groupElems i.wide ln.a 8 lane).map (i.exactOf i.wide)
  let r := Num.encodeBlock i.ctl i.t xs (i.scaleByte reg k lane)
  let w := regWidth i.t
  let regs := packRegs w (64 / w) (Legal.blockRegs i.t) r.1
  let d := vnum ln.d
  let sr := vnum reg
  let old := if d ≤ sr && sr < d + regs.length then regs.getD (sr - d) 0 else (i.h.readV sr lane).toNat
  (groupWrites d lane regs ++ [((sr, lane), BitVec.ofNat 64 (setElem 8 old k r.2.1))], r.2.2)

/-- VCVTX of a block, unpacking (R226): writes of a lane, SATF bits, and whether the block was malformed. -/
def Issue.unpackBlock (i : Issue) (lane : Nat) : List ((Nat × Nat) × Word) × Nat × Bool :=
  let ln := i.ln
  let es := i.groupElems i.t ln.a (Legal.blockRegs i.t) lane
  let b := Num.decodeBlock i.t es (i.scaleByte (Decode.operand (Legal.scaleCode ln)) (scaleIndex ln) lane)
  let rs := b.1.map fun x => Num.roundF i.ctl i.wide x.pre
  (groupWrites (vnum ln.d) lane (packRegs 16 4 8 (rs.map (fun r => r.1))), orFlags rs, b.2)

/-- VCVTX (R225, R226). -/
def execVcvtx (f : Lane) (s : State) : Out :=
  fixedLane .vcvtx f s fun i =>
    if !isX i.t then (i.toV fun l => some (i.scaledConvert l), 0)
    else if f.mod.getLsbD 0 then
      let rs := i.lanes.map i.unpackBlock
      ({ v := rs.flatMap (fun r => r.1), p := [], s := [], satf := BitVec.ofNat 4 (rs.foldl (fun a r => a ||| r.2.1) 0) },
        if rs.any (fun r => r.2.2) then FMTE else 0)
    else
      let rs := i.lanes.map i.packBlock
      ({ v := rs.flatMap (fun r => r.1), p := [], s := [], satf := BitVec.ofNat 4 (rs.foldl (fun a r => a ||| r.2) 0) }, 0)

/-- VSCALE (R227). -/
def execVscale (f : Lane) (s : State) : Out :=
  fixedLane .vscale f s fun i =>
    (i.toV fun l =>
      let xs := (i.groupElems i.wide f.a 8 l).map (i.exactOf i.wide)
      some (setElem 8 (i.h.readV (vnum f.d) l).toNat (scaleIndex f) (Num.chooseScale i.t xs), 0), 0)

end Sys2Proof.Machine
end

