-- ==== Sys2Proof/Machine/Ownership.lean ====
section
/-! DEFINITION. Ownership of the device, frame submission, translation invalidation, ordered-entry release, and leases (R41 to R48, R243, R244, R253, R276 to R279). -/

namespace Sys2Proof.Machine

open Sys2Proof.Bits

/-- Whether a master is the owner (R41, R43, R44). -/
def Owner.isOwner (o : Owner) (m : Master) : Bool := (o.state == .owned || o.state == .giving) && o.owner == m

/-- What a master sends the device; master 1, the PCIe port, is a master in endpoint mode only: in root-complex mode nothing comes from it
(R3, R41). -/
def asMaster (m : Master) (s : State) (k : State → Out) : Out := if m = 1 && s.cfg.rootComplex then .next s else k s

/-- A write by a master: only the owner's takes effect, and any other sets its bit in NOWR (R41). -/
def ownerWrite (m : Master) (s : State) (k : State → Out) : Out :=
  asMaster m s fun s =>
    if s.own.isOwner m then k s
    else .next { s with own := { s.own with nowr := s.own.nowr ||| (1#4 <<< m.val) } }

/-! ## OWNCTL (R44). A command that the table does not list for a state is ignored. -/

/-- OWNCTL_CLAIM (R44). -/
def execOwnctlClaim (m : Master) (s : State) : Out :=
  asMaster m s fun s => match s.own.state with
  | .elect => .next { s with own := { s.own with claims := s.own.claims ||| (1#4 <<< m.val) } }
  | .unowned => .next { s with own := { s.own with state := .owned, owner := m } }
  | _ => .next s

/-- OWNCTL_GIVE: a 1 s give timer starts (R44). -/
def execOwnctlGive (m t : Master) (s : State) : Out :=
  asMaster m s fun s => if s.own.state = .owned && s.own.owner = m && t ≠ m then
    .next { s with own := { s.own with state := .giving, target := t, giveEnd := s.time + 1000000000000 } }
  else .next s

/-- OWNCTL_ACCEPT (R44). TARGET keeps the master last named when no give is pending any more (DESIGN CHOICE, log 95). -/
def execOwnctlAccept (m : Master) (s : State) : Out :=
  asMaster m s fun s => if s.own.state = .giving && s.own.target = m then .next { s with own := { s.own with state := .owned, owner := m } }
  else .next s

/-- OWNCTL_CANCEL (R44). -/
def execOwnctlCancel (m : Master) (s : State) : Out :=
  asMaster m s fun s => if s.own.state = .giving && s.own.owner = m then .next { s with own := { s.own with state := .owned } }
  else .next s

/-- OWNCTL_FORCE: from master 2, where the configuration record permits it (R44). -/
def execOwnctlForce (m : Master) (s : State) : Out :=
  if m = 2 && s.cfg.force && (s.own.state = .owned || s.own.state = .giving) then
    .next { s with own := { s.own with state := .owned, owner := 2 } }
  else .next s

/-- The lowest master of a claim set. -/
def lowestClaim (c : BitVec 4) : Option Master := [0, 1, 2, 3].find? (fun m => c.getLsbD m.val)

/-- ELECTION_WINDOW_EXPIRY (R44). -/
def execElectionWindowExpiry (s : State) : Out :=
  if s.own.state = .elect && s.own.windowEnd ≤ s.time then
    match lowestClaim s.own.claims with
    | some m => .next { s with own := { s.own with state := .owned, owner := m } }
    | none => .next { s with own := { s.own with state := .unowned } }
  else .fault .absent

/-- GIVE_TIMER_EXPIRY: the giver keeps the device (R44). -/
def execGiveTimerExpiry (s : State) : Out :=
  if s.own.state = .giving && s.own.giveEnd ≤ s.time then .next { s with own := { s.own with state := .owned } }
  else .fault .absent

/-! ## Translation invalidation (R243, R244, R247) -/

/-- Whether an invalidation covers some byte of a range of addresses. -/
def Invalidation.covers (v : Invalidation) (va n : Nat) : Bool :=
  decide (65536 * v.first < va + n) && decide (va < 65536 * (v.first + v.pages))

/-- The physical 64 KiB pages to which TLBs or the tables translate the pages of an invalidation. -/
def State.pagesUnder (s : State) (v : Invalidation) : List Nat :=
  (List.range v.pages).flatMap fun i =>
    let va := 65536 * (v.first + i)
    let leaf := fun (lv e : Nat) => (entryAddr e + va % pageSize lv) / 65536
    ((s.caches.tlb.filter fun t => t.has va).map fun t => leaf t.level (t.leafAt va))
      ++ (match s.walk va with | .leaf lv e _ => [leaf lv e] | .fault _ _ => [])

/-- A TLBINV write: the translations that it covers leave every TLB, with ROD the RO lines that they name leave every L1, and BUSY is
set; while BUSY is set, only DROP (R243, R244, R247). `lines` says which RO lines ROD drops. -/
def State.tlbInvalidate (s : State) (v : Invalidation) (lines : Nat → Bool) : State :=
  if s.xl.inv.isSome then { s with xl := { s.xl with dropped := true } }
  else
    { s with
      xl := { s.xl with inv := some v },
      caches := { s.caches.drop (fun x => x.attr == 2 && lines x.line) with tlb := s.caches.tlb.filter fun e => !v.covers e.base e.size },
      groups := s.groups.map fun g => { g with gangs := g.gangs.map fun h => h.updWindow fun w => { w with awaited := true } } }

/-- TLBINV_RANGE: NPM1 + 1 pages from VAB on (R243, R244). -/
def execTlbinvRange (m : Master) (val : Word) (s : State) : Out :=
  ownerWrite m s fun s =>
    let n := val.toNat
    let v : Invalidation := ⟨field 55 16 n, field 15 4 n + 1, s.idCount⟩
    let pages := if n.testBit 2 then s.pagesUnder v else []
    .next (s.tlbInvalidate v fun line => pages.contains (line / 512))

/-- TLBINV_ALL: every page (R243, R244). -/
def execTlbinvAll (m : Master) (val : Word) (s : State) : Out :=
  ownerWrite m s fun s => .next (s.tlbInvalidate ⟨0, 2 ^ 40, s.idCount⟩ fun _ => val.toNat.testBit 2)

/-- Whether an access that a translation of an invalidation may have served has not performed: a request at or on its way to a bank, the
arrival at its quire of a macro-operation that is queued or saved, the acceptance record of a queued submission, or whatever a window open at
the TLBINV write holds (R244). -/
def State.awaits (s : State) (v : Invalidation) : Bool :=
  let late := fun (r : BankReq) => decide (r.op < v.before) && v.covers r.va r.size
  let posts := fun (l : List MacroOp) => l.any fun m => decide (m.op < v.before) && m.post.any fun p => v.covers p.1 16
  s.bankQ.any late
    || (s.cores.any fun k => posts k.2.macros) || (s.groups.any fun g => posts g.macros)
    || (s.gu.queue.any fun q => decide (q.id < v.before) && v.covers q.record.1 q.record.2)
    || (s.vat0.ordered ++ s.vat1.ordered).any (fun e => e.held.any fun x => late x.2)
    || s.groups.any fun g => g.gangs.any fun h => match h.window with | some w => w.awaited | none => false

/-- TLBINV_DONE: BUSY clears once the accesses that used such a translation have performed (R244). -/
def execTlbinvDone (s : State) : Out :=
  match s.xl.inv with
  | some v => if s.awaits v then .fault .absent else .next { s with xl := { s.xl with inv := none } }
  | none => .fault .absent

/-! ## Ordered entries (R276) -/

/-- ORDCLR_WRITE: each entry in the 16 bytes is freed at its home slice, whichever stack's register is written, and each contribution it
holds counts as applied, with ORDE (R276). -/
def execOrdclrWrite (m : Master) (_st : StackId) (val : Word) (s : State) : Out :=
  ownerWrite m s fun s =>
    let n := val.toNat
    if field 63 52 n != 0 || field 3 0 n != 0 then .next s
    else
      let hit := (s.vat0.ordered ++ s.vat1.ordered).filter (fun e => e.target / 16 == n / 16)
      let free := fun (v : Vat) => { v with ordered := v.ordered.filter (fun e => e.target / 16 != n / 16) }
      .next (hit.foldl (fun t e => e.held.foldl (fun u x => u.bankDone x.2 .none 0 ORDE) t) { s with vat0 := free s.vat0, vat1 := free s.vat1 })

/-! ## Leases (R253, R277 to R279) -/

/-- Vat pages a ring holds: all of its slots' while its frame is in flight, later those of slots still held (R37, R250). -/
def State.pagesHeld (s : State) (r : Ring) : List Nat :=
  if s.frames.any (fun f => f.serial == r.frame) then r.pages
  else (r.held.filter (fun sl => !sl.isOvf)).flatMap (fun sl => (r.pages.drop (sl.index * r.slotp)).take r.slotp)

/-- Pages of a stack's vat held by ring slots (R250). -/
def State.ringPages (s : State) (st : Nat) : Nat :=
  (s.rings.filter (fun r => r.stack == st)).foldl (fun a r => a + (s.pagesHeld r).length) 0

/-- Pages of a stack that serve as cache (R250, R253). Log 17. -/
def State.cachePages (s : State) (st : StackId) : Nat := 4096 - (s.vat st).dp - s.ringPages st.val

/-- The physical address to which an address translates, permissions apart (R277). -/
def State.mapped (s : State) (w : Who) (va : Nat) : Option Nat :=
  if 2 ^ 56 ≤ va || inAperture va then none
  else
    match s.ringAt va with
    | some r => (r.translate w .load va).toOption
    | none =>
      match s.leafOf w va with
      | .leaf lv e _ => some (entryAddr e + va % pageSize lv)
      | .fault _ _ => none

/-- The physical lines of a virtual range that map GDDR 7 (R277). -/
def State.leasable (s : State) (w : Who) (line n : Nat) : List Nat :=
  (List.range n).filterMap fun i =>
    match s.mapped w (128 * (line + i)) with
    | some pa => if regionOf pa = .gddr then some (pa / 128) else none
    | none => none

/-- The walks of the pages of a virtual range (R242, R277). -/
def State.notePages (s : State) (w : Who) (line n : Nat) : State :=
  (List.range ((line + n - 1) / 512 - line / 512 + 1)).foldl (fun t i => t.noteWalk w (65536 * (line / 512 + i))) s

/-- Lines homed on a stack. -/
def linesOn (st : StackId) (ls : List Nat) : List Nat := ls.filter (fun l => homeStack (128 * l) == st)

/-- Whether a stack can take some more leased lines (R253, R277). -/
def State.leaseFits (s : State) (st : StackId) (ls : List Nat) : Bool :=
  let v := s.vat st
  linesOn st ls == [] ||
    (v.leases.length < 256 && 2 * (v.pinned ++ linesOn st ls).eraseDups.length ≤ 512 * s.cachePages st)

/-- A lease refused on a stack (R279). -/
def State.refuse (s : State) (st : StackId) : State := s.setVat st { s.vat st with refd := true }

/-- A lease made on a stack that holds some of its lines. -/
def State.addLease (s : State) (st : StackId) (key : Nat) (ls : List Nat) (ends : Nat) : State :=
  if linesOn st ls == [] then s
  else s.setVat st { s.vat st with leases := (s.vat st).leases ++ [⟨key, linesOn st ls, ends⟩] }

/-- A lease of lines, whole on every stack or refused on every stack concerned (R277, R286). -/
def State.makeLease (s : State) (key : Nat) (ls : List Nat) (us : Nat) : State :=
  if s.leaseFits 0 ls && s.leaseFits 1 ls then
    let ends := s.nstime + 1000 * us
    (s.addLease 0 key ls ends).addLease 1 key ls ends
  else
    let s1 := if linesOn 0 ls == [] then s else s.refuse 0
    if linesOn 1 ls == [] then s1 else s1.refuse 1

/-- LEASE (R277): it never faults. -/
def execLease (a b : SReg) (s : State) : Out :=
  deferred s fun c =>
    let y := (c.h.readS b.val).toNat
    let us := field 63 40 y
    let n := field 31 0 y
    let s1 := s.put (c.g.orErr (c.h.sourceErr [a, b])) c.h (c.f.advance 1)
    if us = 0 || n = 0 || field 39 32 y != 0 then .next ((s1.refuse 0).refuse 1)
    else
      let line := (c.h.readS a.val).toNat / 128
      .next ((s1.notePages c.g.who line n).makeLease line (s.leasable c.g.who line n).eraseDups us)

/-- UNLEASE (R278). -/
def execUnlease (a : SReg) (s : State) : Out :=
  deferred s fun c =>
    let key := (c.h.readS a.val).toNat / 128
    let s1 := s.put (c.g.orErr (c.h.sourceErr [a])) c.h (c.f.advance 1)
    let drop := fun (v : Vat) => { v with leases := v.leases.filter (fun l => l.key != key) }
    .next { s1 with vat0 := drop s1.vat0, vat1 := drop s1.vat1 }

/-- LEASE_EXPIRY (R253). -/
def execLeaseExpiry (st : StackId) (s : State) : Out :=
  let v := s.vat st
  if v.leases.any (fun l => l.ends ≤ s.nstime) then
    .next (s.setVat st { v with leases := v.leases.filter (fun l => s.nstime < l.ends) })
  else .fault .absent

end Sys2Proof.Machine
end

