-- ==== Sys2Proof/Machine/Copies.lean ====
section
/-! DEFINITION. Couch-engine copies: templates, elements, batches, and the words that hand out copies and wait for them (R281 to R295, R441). -/

namespace Sys2Proof.Machine

open Sys2Proof.Bits
open Sys2Proof.Types (width isInt isF isN isX)
open Sys2Proof.Num (Exact)

/-! ## Templates (R281, R282) -/

/-- A copy template's fields (R281). -/
structure Template where
  bits : Nat
  deriving DecidableEq, Repr

namespace Template

/-- SBASE and DBASE. -/
def sbase (t : Template) : Nat := field 511 456 t.bits
def dbase (t : Template) : Nat := field 455 400 t.bits

/-- SSTRd, for d of 1 to 4; dimension 0 has none. -/
def sstr (t : Template) (d : Nat) : Int := if d = 0 then 0 else toSigned 36 (t.bits >>> (256 + 36 * (d - 1)))

/-- DSTRd. -/
def dstr (t : Template) (d : Nat) : Int := if d = 0 then 0 else toSigned 20 (t.bits >>> (176 + 20 * (d - 1)))

/-- The box size in dimension d. -/
def box (t : Template) (d : Nat) : Nat := t.bits >>> (136 + 8 * d) % 256 + 1

/-- EXTd, for d of 0 to 2. -/
def ext (t : Template) (d : Nat) : Nat :=
  match d with
  | 0 => field 103 84 t.bits
  | 1 => field 123 104 t.bits
  | 2 => field 135 124 t.bits
  | _ => 0

def lus (t : Template) : Nat := field 83 68 t.bits
def scoff (t : Template) : Nat := field 67 48 t.bits
def tscale (t : Template) : Nat := field 47 40 t.bits
def dty (t : Template) : TyCode := Types.ofCode (field 31 27 t.bits)
def sty (t : Template) : TyCode := Types.ofCode (field 26 22 t.bits)
def rm (t : Template) : Nat := field 21 20 t.bits
def sat (t : Template) : Bool := t.bits.testBit 19
def scm (t : Template) : Nat := field 18 17 t.bits
def tr (t : Template) : Bool := t.bits.testBit 16
def ndim (t : Template) : Nat := field 15 13 t.bits
def dsp (t : Template) : Nat := field 9 8 t.bits
def ssp (t : Template) : Nat := field 5 4 t.bits

/-- Rounding and saturation of the template's conversions; FLUSH does not apply (R284). -/
def ctl (t : Template) : Num.Ctl := ⟨t.rm, t.sat, false⟩

/-- Rounding and saturation of a copy's conversions to an X type, which are VCVTX's: those of FMT, as the fragment that handed the copy out
held it. A copy pass has no fragment, and takes its template's (DESIGN CHOICE, log 89). Subnormals are kept (R185, R226, R284). -/
def xctl (t : Template) (c : Copy) : Num.Ctl :=
  match c.tpl with
  | some _ => t.ctl
  | none => ⟨(Num.ctlOf c.fmt.toNat).rm, (Num.ctlOf c.fmt.toNat).sat, false⟩

/-- No reserved bit is set. -/
def reservedZero (t : Template) : Bool :=
  field 39 32 t.bits == 0 && field 12 10 t.bits == 0 && field 7 6 t.bits == 0 && field 3 0 t.bits == 0

/-- The dimension, type, scale, space and unused-field rule of R282. -/
def shapeOk (t : Template) : Bool :=
  let x := isX t.dty
  1 ≤ t.ndim && t.ndim ≤ 5 && (!t.tr || 2 ≤ t.ndim)
    && (List.range 5).all (fun d => d < t.ndim || (t.box d == 1 && t.sstr d == 0 && t.dstr d == 0))
    && (3 ≤ t.ndim || t.ext 2 == 0)
    && (isInt t.sty || isF t.sty || isN t.sty)
    && (isInt t.dty || isF t.dty || isN t.dty || (x && (t.sty == .f16 || t.sty == .bf16 || t.sty == .f32)))
    && t.scm != 3 && (t.scm != 1 || !isInt t.dty) && (t.scm != 2 || x)
    && (t.scm == 1 || t.tscale == 0) && (x || t.scoff == 0)
    && (if t.dsp == 2 then t.lus != 0 else t.lus == 0)
    && t.ssp ≤ 1 && t.dsp ≤ 2

/-- Bytes of a source element. -/
def ssize (t : Template) : Nat := width t.sty / 8

/-- Bytes of a destination element. -/
def dsize (t : Template) : Nat := width t.dty / 8

/-- The alignment of the destination: of its elements, or 8 for an X type (R282). -/
def dalign (t : Template) : Nat := if isX t.dty then 8 else t.dsize

/-- The destination's size in a dimension (R283). -/
def dbox (t : Template) (d : Nat) : Nat := if t.tr && d ≤ 1 then t.box (1 - d) else t.box d

/-- The number of elements. -/
def count (t : Template) : Nat := t.box 0 * t.box 1 * t.box 2 * t.box 3 * t.box 4

/-- The box, alignment and block rule of R282. -/
def fitOk (t : Template) : Bool :=
  t.count ≤ 65536 && t.sbase % t.ssize == 0 && t.dbase % t.dalign == 0
    && [1, 2, 3, 4].all (fun d => t.sstr d % t.ssize == 0 && t.dstr d % t.dalign == 0)
    && (!isX t.dty || t.dbox 0 % 32 == 0)

/-- Coordinates of element n of a box, dimension 0 fastest. -/
def coords (b : Nat → Nat) (n : Nat) : List Nat :=
  [n % b 0, n / b 0 % b 1, n / (b 0 * b 1) % b 2, n / (b 0 * b 1 * b 2) % b 3, n / (b 0 * b 1 * b 2 * b 3) % b 4]

/-- Source coordinates from an origin (R283). -/
def source (c0 c1 c2 : Int) (i : List Nat) : List Int :=
  [c0 + i.getD 0 0, c1 + i.getD 1 0, c2 + i.getD 2 0, i.getD 3 0, i.getD 4 0]

/-- Whether source coordinates lie beyond the edge (R283). -/
def edge (t : Template) (g : List Int) : Bool :=
  [0, 1, 2].any fun d => t.ext d != 0 && !(decide (0 ≤ g.getD d 0) && decide (g.getD d 0 < t.ext d))

/-- The address or offset of a source element, modulo 2^64 (R283). -/
def sourceAddr (t : Template) (g : List Int) : Nat :=
  wrap 64 ((t.sbase : Int) + g.getD 0 0 * t.ssize + g.getD 1 0 * t.sstr 1 + g.getD 2 0 * t.sstr 2 + g.getD 3 0 * t.sstr 3
    + g.getD 4 0 * t.sstr 4)

/-- Destination coordinates of box coordinates (R283). -/
def dest (t : Template) (i : List Nat) : List Nat :=
  if t.tr then [i.getD 1 0, i.getD 0 0, i.getD 2 0, i.getD 3 0, i.getD 4 0] else i

/-- Box coordinates of destination coordinates. -/
def undest (t : Template) (j : List Nat) : List Nat := t.dest j

/-- The address of a destination row: everything but dimension 0 (R284). -/
def rowAddr (t : Template) (doff : Nat) (j : List Nat) : Int :=
  (t.dbase : Int) + 64 * doff + (j.getD 1 0 : Int) * t.dstr 1 + (j.getD 2 0 : Int) * t.dstr 2 + (j.getD 3 0 : Int) * t.dstr 3
    + (j.getD 4 0 : Int) * t.dstr 4

/-- The address of a destination element that is not of an X type (R284). -/
def destAddr (t : Template) (doff : Nat) (j : List Nat) : Nat := wrap 64 (t.rowAddr doff j + (j.getD 0 0 : Int) * t.dsize)

/-- The linear index of a destination row (R284). -/
def rowIndex (t : Template) (j : List Nat) : Nat :=
  j.getD 1 0 + t.dbox 1 * (j.getD 2 0 + t.dbox 2 * (j.getD 3 0 + t.dbox 3 * j.getD 4 0))

/-- The address of block k of a row, and of its scale byte (R284). -/
def blockAddr (t : Template) (doff : Nat) (j : List Nat) (k : Nat) : Nat := wrap 64 (t.rowAddr doff j + (k * 4 * width t.dty : Nat))
def scaleAddr (t : Template) (doff : Nat) (j : List Nat) (k : Nat) : Nat :=
  wrap 64 ((t.dbase : Int) + (64 * doff + t.scoff + t.rowIndex j * (t.dbox 0 / 32) + k : Nat))

end Template

/-- The origin and destination offset of a copy (R286, R290). -/
def Copy.origin (c : Copy) : Int × Int × Int :=
  if c.tpl.isSome then (c.c0, c.c1, 0) else (toSigned 18 c.c0, toSigned 18 c.c1, (field 63 56 c.word.toNat : Int))

def Copy.doff (c : Copy) : Nat := if c.tpl.isSome then 0 else field 55 42 c.word.toNat

/-- Source coordinates of element n of a copy's box. -/
def Copy.coords (c : Copy) (i : List Nat) : List Int :=
  Template.source c.origin.1 c.origin.2.1 c.origin.2.2 i

/-- The byte ranges a copy would touch in the scratchpad window: offset and length (R282). -/
def Copy.scratchRanges (c : Copy) (t : Template) : List (Nat × Nat) :=
  let is := (List.range t.count).map (Template.coords t.box)
  (if t.ssp = 1 then (is.filter (fun i => !t.edge (c.coords i))).map (fun i => (t.sourceAddr (c.coords i), t.ssize)) else []) ++
  (if t.dsp = 1 then
    if isX t.dty then
      let js := ((List.range t.count).map (Template.coords t.dbox)).filter (fun j => j.getD 0 0 % 32 == 0)
      js.flatMap fun j =>
        [(t.blockAddr c.doff j (j.getD 0 0 / 32), 4 * width t.dty), (t.scaleAddr c.doff j (j.getD 0 0 / 32), 1)]
    else is.map (fun i => (t.destAddr c.doff (t.dest i), t.dsize))
   else [])

/-- The status of the first rule of R282 that a copy breaks, if any. `window` is the size of the group's scratchpad window. -/
def Copy.badStatus (c : Copy) (t : Template) (window : Nat) : Option Nat :=
  if !t.reservedZero then some 0x01
  else if !t.shapeOk then some 0x02
  else if !t.fitOk then some 0x03
  else if (c.scratchRanges t).any (fun r => window < r.1 + r.2) then some 0x04
  else none

/-- The status of an access that faults (R294). -/
def copyStatus (cause : Nat) : Nat :=
  match cause with
  | 0x22 | 0x23 => 0x10
  | 0x24 | 0x25 | 0x2B => 0x11
  | 0x2A => 0x12
  | _ => 0x13

/-! ## Running a copy (R283, R284, R288, R289) -/

/-- A copy as it runs: the state, and the flags, error bits and leased lines so far. -/
structure Run where
  s : State
  satf : Nat
  err : BitVec 9
  lines : List Nat
  deriving DecidableEq, Repr

/-- Where a copy's scratchpad offsets lie: the core, the base of the group's window, its size. -/
def State.copyWindow (s : State) (c : Copy) : Nat × Nat × Nat :=
  match s.group? c.gid with
  | some g => (g.core, g.window, g.kernel.scrg * 4096)
  | none => (0, 0, 0)

/-- The agent of a copy's translations: its pass, and no core. -/
def State.copyWho (s : State) (c : Copy) : Who := ⟨none, some (s.frameSerial c.tref.slot, c.tref.pass)⟩

/-- Reads an element: its bits, or the status, address and kind of the fault. -/
def Run.read (r : Run) (c : Copy) (scratch : Bool) (a n : Nat) : Except (Nat × Nat × Nat) (Run × Nat) :=
  let w := r.s.copyWindow c
  if scratch then
    let k := r.s.core w.1
    .ok ({ r with s := r.s.sconflict none w.1 (w.2.1 + a) n false, err := r.err ||| (if (wordsOf (w.2.1 + a) n).any (fun x => k.scratchErr.contains x) then SCRE else 0) },
      k.scratchN (w.2.1 + a) n)
  else
    match r.s.checkGlobal (r.s.copyWho c) .copyRead a n with
    | .error f => .error (copyStatus f.1, a % 2 ^ 56, 4)
    | .ok (pa, _) =>
      let s1 := r.s.noteWalk (r.s.copyWho c) a
      .ok ({ r with s := (s1.conflict none pa n false).readHome pa n, err := r.err ||| s1.memErrBits pa n }, s1.readPhys pa n)

/-- Writes bytes of an element. -/
def Run.write (r : Run) (c : Copy) (scratch : Bool) (a : Nat) (bs : List Byte) : Except (Nat × Nat × Nat) Run :=
  let w := r.s.copyWindow c
  if scratch then .ok { r with s := r.s.spoke none w.1 (w.2.1 + a) bs }
  else
    match r.s.checkGlobal (r.s.copyWho c) .copyWrite a bs.length with
    | .error f => .error (copyStatus f.1, a % 2 ^ 56, 5)
    | .ok (pa, _) =>
      .ok { r with s := (r.s.noteWalk (r.s.copyWho c) a).writePhys none pa bs,
                   lines := if regionOf pa = .gddr then pa / 128 :: r.lines else r.lines }

/-- Writes bytes in pieces of at most 8. Fuel counts pieces. -/
def Run.writePieces (r : Run) (c : Copy) (scratch : Bool) : Nat → Nat → List Byte → Except (Nat × Nat × Nat) Run
  | 0, _, _ => .ok r
  | n + 1, a, bs =>
    if bs = [] then .ok r
    else
      match r.write c scratch a (bs.take 8) with
      | .error e => .error e
      | .ok r1 => r1.writePieces c scratch n (a + 8) (bs.drop 8)

/-- The source element of box coordinates: its bits, none beyond the edge (R283). -/
def Run.element (r : Run) (c : Copy) (t : Template) (i : List Nat) : Except (Nat × Nat × Nat) (Run × Option Nat) :=
  let g := c.coords i
  if t.edge g then .ok (r, none)
  else
    match r.read c (t.ssp == 1) (t.sourceAddr g) t.ssize with
    | .error e => .error e
    | .ok (r1, x) => .ok (r1, some x)

/-- An element converted for an I, F or N destination: its bits and SATF bits (R284). -/
def Template.conv (t : Template) (x : Option Nat) : Nat × Nat :=
  if t.dty = t.sty && t.scm = 0 then (x.getD 0, 0)
  else
    let e : Exact := match x with | some b => Num.exactOf t.sty b | none => .fin false 0 0
    let y : Exact := if t.scm = 1 then (if t.tscale = 0xFF then .nan else e.scale (127 - (t.tscale : Int))) else e
    Num.convert t.ctl t.dty y.pre

/-- The bytes of a block of 32 elements packed in memory (R179). -/
def packBlockBytes (t : TyCode) (es : List Nat) : List Byte := toBytes (4 * width t) (fromElems (width t) es)

/-- The elements of a copy that is not to an X type, in order. -/
def Run.elements (r : Run) (c : Copy) (t : Template) : List Nat → Except (Run × Nat × Nat × Nat) Run
  | [] => .ok r
  | n :: rest =>
    let i := Template.coords t.box n
    match r.element c t i with
    | .error e => .error (r, e)
    | .ok (r1, x) =>
      let y := t.conv x
      match r1.write c (t.dsp == 1) (t.destAddr c.doff (t.dest i)) (toBytes t.dsize y.1) with
      | .error e => .error (r1, e)
      | .ok r2 => ({ r2 with satf := r2.satf ||| y.2 } : Run).elements c t rest

/-- The 32 source values of a block, its elements at destination coordinates j with j0 from 32·k (R284). -/
def Run.blockValues (r : Run) (c : Copy) (t : Template) : List (List Nat) → Except (Run × Nat × Nat × Nat) (Run × List Exact)
  | [] => .ok (r, [])
  | j :: rest =>
    match r.element c t (t.undest j) with
    | .error e => .error (r, e)
    | .ok (r1, x) =>
      match r1.blockValues c t rest with
      | .error e => .error e
      | .ok (r2, xs) => .ok (r2, (match x with | some b => Num.exactOf t.sty b | none => .fin false 0 0) :: xs)

/-- The blocks of a copy to an X type, in order (R284). -/
def Run.blocks (r : Run) (c : Copy) (t : Template) : List Nat → Except (Run × Nat × Nat × Nat) Run
  | [] => .ok r
  | n :: rest =>
    let j := Template.coords t.dbox (32 * n)
    let k := j.getD 0 0 / 32
    match r.blockValues c t ((List.range 32).map fun m => (j.getD 0 0 + m) :: j.drop 1) with
    | .error e => .error e
    | .ok (r1, xs) =>
      let sc := match t.scm with | 1 => t.tscale | 2 => Num.chooseScale t.dty xs | _ => 127
      let b := Num.encodeBlock (t.xctl c) t.dty xs sc
      match r1.writePieces c (t.dsp == 1) 5 (t.blockAddr c.doff j k) (packBlockBytes t.dty b.1) with
      | .error e => .error (r1, e)
      | .ok r2 =>
        match r2.write c (t.dsp == 1) (t.scaleAddr c.doff j k) [BitVec.ofNat 8 b.2.1] with
        | .error e => .error (r2, e)
        | .ok r3 => ({ r3 with satf := r3.satf ||| b.2.2 } : Run).blocks c t rest

/-- All of a copy: what it has done, and how it failed if it did (R283, R293). The elements are taken in rising order (log 18). -/
def Run.go (r : Run) (c : Copy) (t : Template) : Except (Run × Nat × Nat × Nat) Run :=
  if isX t.dty then r.blocks c t (List.range (t.count / 32)) else r.elements c t (List.range t.count)

/-- The address of a copy's template, which the record of a failure that no gang can meet names (R288, R441). -/
def Copy.tplAddr (c : Copy) : Nat := if c.tplZero then 0 else c.tplBase.toNat + 64 * (c.word.toNat % 64)

/-- Reads a copy's template as an element is read: the template, or the status and address of its failure (R288, R290). -/
def Run.template (r : Run) (c : Copy) : Except (Nat × Nat × Nat) (Run × Template) :=
  match c.tpl with
  | some b => .ok (r, ⟨b⟩)
  | none =>
    if c.tplZero then .error (0x01, 0, 7)
    else
      match r.read c false c.tplAddr 64 with
      | .error e => .error e
      | .ok (r1, x) => .ok (r1, ⟨x⟩)

/-! ## Batches (R291 to R294) -/

/-- Copies of a gang's batch that have neither completed nor been dropped. -/
def State.batchCopies (s : State) (gid gang n : Nat) : List Copy :=
  s.copies.filter (fun c => c.gid == gid && c.gang == gang && c.tpl.isNone && c.batch == n)

/-- Whether a copy has failed. -/
def Copy.failed (c : Copy) : Bool := match c.state with | .failed _ _ _ => true | _ => false

/-- The first failed copy, in the order of acceptance, of the oldest unfinished sealed batch, where that is a failed batch (R293). -/
def State.oldestFailed (s : State) (gid : Nat) (h : Gang) : Option Copy :=
  match h.unfinished with
  | [] => none
  | b :: _ =>
    let cs := s.batchCopies gid h.id b.number
    if cs.all Copy.failed then leastBy (fun c => [c.id]) cs else none

/-- Sealed batches with no copy left finish, oldest first (R291). Fuel counts batches. -/
def finishBatches (s : State) (gid : Nat) (h : Gang) : Nat → Gang
  | 0 => h
  | n + 1 =>
    match h.batches with
    | b :: rest =>
      if b.isSealed && (s.batchCopies gid h.id b.number).isEmpty then finishBatches s gid { h with batches := rest } n else h
    | [] => h

/-- What becomes of a fragment that a YIELD.B or a SEAL has stopped, if anything: it goes on, or tests again where the oldest batch has
failed (R291 to R293). A WAITB stays ready in its place and tests by itself. -/
def wakeBatch (unfinished : Nat) (failed : Bool) (f : Fragment) : Option Fragment :=
  match f.wait with
  | .batchesTo n pc => if unfinished ≤ n then some { f.jump pc with readyAt := none, served := none } else if failed then some f.wake else none
  | .seal => if unfinished < 15 || failed then some f.wake else none
  | _ => none

/-- The batches of a gang brought up to date, with the fragments that wait on them, in the checkpoint of an open window as well (R292,
R369). -/
def State.settleBatches (s : State) (gid gang : Nat) : State :=
  match s.gangOf? gid gang with
  | none => s
  | some (g, h) =>
    let h1 := finishBatches s gid h 16
    let u := h1.unfinished.length
    let failed := (s.oldestFailed gid h1).isSome
    s.setGroup (g.setGang (
      if h1.claim.isSome then h1.wakeWhere fun f => (wakeBatch u failed f).isSome
      else h1.outside (fun f => (wakeBatch u failed f).isSome) (fun f => (wakeBatch u failed f).getD f) none none))

/-- A copy leaves the machine: completed or dropped. -/
def State.dropCopy (s : State) (c : Copy) : State :=
  ({ s with copies := s.copies.filter (fun x => x.id != c.id) }).settleBatches c.gid c.gang

/-- The copy fault, precise at the word (R293, R294): an in-gang status drops the copy as completed. -/
def copyFault (s : State) (c : Ctx) (cp : Copy) : Out :=
  match cp.state with
  | .failed status addr akind =>
    let byOwner := decide (0x10 ≤ status)
    let t : Trap := ⟨0x08, status, c.h.enabled c.f, byOwner, if byOwner then addr else 0, if byOwner then akind else 7⟩
    if c.h.window.isSome then .next (s.put c.g c.h (c.f.hold .window))
    else
      let s1 := s.takeTrap c.g c.h c.f c.f.pc t
      .next (if byOwner then s1 else s1.dropCopy cp)
  | _ => .next s

/-! ## The words (R288, R291, R292) -/

/-- COPY: SST sv, [sa + 8·N] (R287, R288). -/
def execCopy (v a : SReg) (ch : Fin 16) (s : State) : Out := storeWord v a (BitVec.ofNat 12 (8 * ch.val)) s

/-- SEAL (R291, R293). -/
def execSeal (s : State) : Out :=
  deferred s fun c =>
    if !(c.h.batches.any (fun b => b.number == c.h.batch)) then .next (s.put c.g c.h (c.f.advance 1))
    else if 15 ≤ c.h.unfinished.length then
      match s.oldestFailed c.g.gid c.h with
      | some cp => copyFault s c cp
      | none => .next (s.put c.g c.h (c.f.block .seal s.time))
    else
      let h := { c.h with batches := c.h.batches.map (fun b => { b with isSealed := true }), batch := (c.h.batch + 1) % 16 }
      .next ((s.put c.g h (c.f.advance 1)).settleBatches c.g.gid c.h.id)

/-- WAITB (R292, R293). -/
def execWaitb (n : Fin 16) (s : State) : Out :=
  withCur s fun c =>
    if c.h.unfinished.length ≤ n.val then .next (s.put c.g c.h (c.f.advance 1))
    else
      match s.oldestFailed c.g.gid c.h with
      | some cp => copyFault s c cp
      | none => .next (s.put c.g c.h (c.f.hold (.batches n.val)))

/-- YIELD.B (R292, R293). -/
def execYieldB (n : Fin 16) (off : BitVec 21) (s : State) : Out :=
  parkPoint s fun c =>
    if c.h.unfinished.length ≤ n.val then .next (s.put c.g c.h (c.f.jump (c.f.target off)))
    else
      match s.oldestFailed c.g.gid c.h with
      | some cp => copyFault s c cp
      | none => .next (s.put c.g c.h (c.f.park (.batchesTo n.val (c.f.target off)) s.time))

/-! ## The couch engines (R288, R289) -/

/-- The fragment that blocked first on a channel, with its place. -/
def State.firstBlocked (s : State) (engine ch : Nat) : Option (Ctx × Word) :=
  leastBy (fun x => [x.1.f.parkedAt]) ((s.groups.filter (fun g => g.place == .resident)).flatMap fun g => g.gangs.flatMap fun h =>
    h.frags.filterMap fun f => (f.onChannel engine ch).map fun w => (Ctx.mk g h f, w))

/-- Changes a copy. -/
def State.setCopy (s : State) (c : Copy) : State :=
  { s with copies := s.copies.map (fun x => if x.id = c.id then c else x) }

/-- A copy that runs again and waits for a place of a channel. -/
def State.firstQueued (s : State) (engine ch : Nat) : Option Copy :=
  s.copies.find? fun c => c.engine == engine && c.ch == ch && c.state == .queued

/-- COPY_ACCEPT: a place that is free goes to a copy that runs again, and else to the COPY that blocked first (R288, R294), once the engine
has its image (R435). -/
def execCopyAccept (engine ch : Nat) (s : State) : Out :=
  if 4 ≤ s.channelLoad engine ch || s.loads 1 (unitArg engine) then .fault .absent
  else
    match s.firstQueued engine ch, s.firstBlocked engine ch with
    | some c, _ => .next (s.setCopy { c with state := .waiting })
    | none, some (c, word) => .next (s.acceptCopy { c with f := { c.f with readyAt := none } } ch word)
    | none, none => .fault .absent

/-- The next copy of a channel: the first accepted one, when none is running (R288). An engine that takes an image runs the copies it has
accepted first (R435). -/
def State.nextCopy (s : State) (engine ch : Nat) : Option Copy :=
  let mine := s.copies.filter (fun c => c.engine == engine && c.ch == ch)
  if mine.any (fun c => match c.state with | .running _ => true | _ => false) then none
  else mine.find? (fun c => c.state == .waiting)

/-- The tile of a copy pass leaves its engine: its time there joins its meter (R58). -/
def State.leaveEngine (s : State) (t : TileRef) : State :=
  s.updTile t fun x => x.leave s.nstime

/-- A copy fails: its place frees, waiters test again, and one that no gang can meet takes the owner route; a copy-pass tile is metered
no more until its copy runs again (R58, R288, R293, R441). -/
def State.failCopy (s : State) (c : Copy) (e : Nat × Nat × Nat) : State :=
  let c1 := { c with state := .failed e.1 e.2.1 e.2.2, rerun := false }
  let s1 := ((s.setCopy c1).settleBatches c.gid c.gang).orphanFault c1
  if c.tpl.isSome then s1.leaveEngine c.tref else s1

/-- ERRSUM bits of the group that issued a copy. -/
def State.copyErr (s : State) (c : Copy) (e : BitVec 9) : State :=
  { s with groups := s.groups.map (fun g => if g.gid = c.gid && c.tpl.isNone then g.orErr e else g) }

/-- COPY_RUN: the template is read and checked and the box is moved (R282 to R284, R288). -/
def execCopyRun (engine ch : Nat) (s : State) : Out :=
  match s.nextCopy engine ch with
  | none => .fault .absent
  | some c =>
    match (Run.mk s 0 0 []).template c with
    | .error e => .next (s.failCopy c e)
    | .ok (r0, t) =>
      match c.badStatus t (s.copyWindow c).2.2 with
      | some st => .next ((r0.s.copyErr c r0.err).failCopy c (st, c.tplAddr, 7))
      | none =>
        match r0.go c t with
        | .error (r, e) => .next ((r.s.copyErr c r.err).failCopy c e)
        | .ok r =>
          let j0 := wrap 64 (t.rowAddr c.doff [0, 0, 0, 0, 0])
          let c1 := { c with
            state := .running (s.time + Config.latency c.id), satf := BitVec.ofNat 4 r.satf,
            leaseKey := j0 / 128, leaseLines := if t.dsp = 2 then r.lines.eraseDups else [], leaseUs := t.lus }
          .next ((r.s.copyErr c r.err).setCopy c1)

/-- COPY_COMPLETE: flags, lease, batch and waiters; a copy-pass tile's work is done (R285, R286, R290, R291). -/
def execCopyComplete (engine ch : Nat) (s : State) : Out :=
  match s.copies.find? (fun c => c.engine == engine && c.ch == ch && (match c.state with | .running _ => true | _ => false)) with
  | none => .fault .absent
  | some c =>
    let s1 := if c.leaseLines == [] then s else s.makeLease c.leaseKey c.leaseLines c.leaseUs
    let s2 := match c.tpl with
      | some _ => s1.updTile c.tref (fun t => { t with satf := t.satf ||| c.satf }.finish s.nstime)
      | none =>
        match s1.gangOf? c.gid c.gang with
        | some (g, h) => s1.setGroup (g.setGang (h.orSatfBoth c.satf))
        | none => s1
    .next (s2.dropCopy c)

end Sys2Proof.Machine
end

