-- ==== Sys2Proof/Machine/NetMath.lean ====
section
/-! DEFINITION. The arithmetic of a radiance-cache net: sizes, grid, harmonics, layers, gradients and the Adam step (R333 to R335, R341). -/

namespace Sys2Proof.Num

open Sys2Proof.Bits

/-! ## exp, rounded once (R335) -/

/-- A dyadic in units of 2^-p, rounded down. -/
def floorAt (neg : Bool) (m : Nat) (e : Int) (p : Nat) : Int :=
  let k : Int := e + p
  if 0 ≤ k then signed neg (m <<< k.toNat) else (signed neg m) / ((2 ^ (-k).toNat : Nat) : Int)

/-- The exponent n and an enclosure of exp(x) * 2^(p - n), in units of one. -/
def expParts (neg : Bool) (m : Nat) (e : Int) (p : Nat) : Int × Nat × Nat :=
  let x := floorAt neg m e p
  let l : Int := ln2At p
  let n := x / l
  let drift : Int := n.natAbs + 2
  let lo := x - n * l - drift
  let hi := x + 1 - n * l + drift
  let low := if lo < 0 then ((2 ^ p : Nat) + lo - 1).toNat else expSum (p + 4) 1 (2 ^ p) lo.toNat p
  (n, low, expSum (p + 4) 1 (2 ^ p) hi.toNat p + 2 * p + 16)

/-- exp, exact, rounded once to nearest even. -/
def expBits (t : TyCode) (x : Exact) : Nat :=
  match x with
  | .nan => canonNan t
  | .inf true => 0
  | .inf false => infBits t false
  | .fin neg m e =>
    if m = 0 then (roundF rne t (.val false 1 0 false)).1
    else if 10 < (Nat.log2 m : Int) + e then (roundF rne t (.val false 1 (if neg then -100000 else 100000) false)).1
    else (settle rne t false (fun p => (expParts neg m e p).2) (fun p => (expParts neg m e p).1 - p)).1

/-! ## Real spherical harmonics (R335) -/

/-- c of Y(l, m)^2 = c · P^2 / (π · |d|^(2l)), for harmonic number k = m + l of degree l. -/
def shConst (l k : Nat) : Nat × Nat :=
  match l, k with
  | 0, _ => (1, 4)
  | 1, _ => (3, 4)
  | 2, 2 => (5, 16)
  | 2, 4 => (15, 16)
  | 2, _ => (15, 4)
  | 3, 0 => (35, 32) | 3, 1 => (105, 4) | 3, 2 => (21, 32) | 3, 3 => (7, 16) | 3, 4 => (21, 32) | 3, 5 => (105, 16)
  | 3, _ => (35, 32)
  | _, 0 => (315, 16) | _, 1 => (315, 32) | _, 2 => (45, 16) | _, 3 => (45, 32) | _, 4 => (9, 256) | _, 5 => (45, 32)
  | _, 6 => (45, 64) | _, 7 => (315, 32)
  | _, _ => (315, 256)

/-- P of harmonic number k = m + l of degree l; s is x^2 + y^2 + z^2. -/
def shPoly (l k : Nat) (x y z s : Int) : Int :=
  match l, k with
  | 0, _ => 1
  | 1, 0 => y | 1, 1 => z | 1, _ => x
  | 2, 0 => x * y | 2, 1 => y * z | 2, 2 => 3 * z * z - s | 2, 3 => x * z | 2, _ => x * x - y * y
  | 3, 0 => y * (3 * x * x - y * y) | 3, 1 => x * y * z | 3, 2 => y * (5 * z * z - s) | 3, 3 => z * (5 * z * z - 3 * s)
  | 3, 4 => x * (5 * z * z - s) | 3, 5 => (x * x - y * y) * z | 3, _ => x * (x * x - 3 * y * y)
  | _, 0 => x * y * (x * x - y * y)
  | _, 1 => y * (3 * x * x - y * y) * z
  | _, 2 => x * y * (7 * z * z - s)
  | _, 3 => y * z * (7 * z * z - 3 * s)
  | _, 4 => 35 * z * z * z * z - 30 * z * z * s + 3 * s * s
  | _, 5 => x * z * (7 * z * z - 3 * s)
  | _, 6 => (x * x - y * y) * (7 * z * z - s)
  | _, 7 => x * (x * x - 3 * y * y) * z
  | _, _ => x * x * x * x - 6 * x * x * y * y + y * y * y * y

/-- A harmonic at an integer direction that is not zero, rounded once to f16. -/
def shBits (l k : Nat) (x y z : Int) : Nat :=
  let s := x * x + y * y + z * z
  let v := shPoly l k x y z s
  if v = 0 then 0
  else
    let c := shConst l k
    let num := c.1 * (v * v).toNat
    let den := c.2 * s.toNat ^ l
    (settle rne .f16 (decide (v < 0))
      (fun p => (isqrt ((num <<< (2 * p + 1100)) / (den * (piBits + 1))), isqrt ((num <<< (2 * p + 1100)) / (den * piBits)) + 1))
      (fun p => -(p : Int))).1

/-- The direction as integers with one exponent, or none where every harmonic above degree 0 is NaN; zero stays zero (R335). -/
def direction (d : List Nat) : Option (Int × Int × Int) :=
  let es := d.map (decode .f32)
  if es.any (fun e => e == .nan) then none
  else
    match (es.filter (fun e => match e with | .inf _ => true | _ => false)).length with
    | 0 =>
      let f := fun (e : Exact) => match e with | .fin n m x => signed n (m <<< (x + 149).toNat) | _ => 0
      some (f (es.getD 0 .nan), f (es.getD 1 .nan), f (es.getD 2 .nan))
    | 1 =>
      let f := fun (e : Exact) => match e with | .inf n => (if n then (-1 : Int) else 1) | _ => 0
      some (f (es.getD 0 .nan), f (es.getD 1 .nan), f (es.getD 2 .nan))
    | _ => none

/-- The harmonics of degrees 0 to `deg`, as f16, in order (R335). -/
def harmonics (deg : Nat) (d : List Nat) : List Nat :=
  (List.range (deg + 1)).flatMap fun l => (List.range (2 * l + 1)).map fun k =>
    if l = 0 then shBits 0 0 1 0 0
    else
      match direction d with
      | none => canonNan .f16
      | some (x, y, z) => if x = 0 && y = 0 && z = 0 then 0 else shBits l k x y z

/-! ## The descriptor and its sizes (R333, R334) -/

/-- A net descriptor. -/
structure NetDesc where
  bits : Nat
  deriving DecidableEq, Repr

namespace NetDesc

def eps (d : NetDesc) : Nat := field 383 352 d.bits
def b2 (d : NetDesc) : Nat := field 351 320 d.bits
def b1 (d : NetDesc) : Nat := field 319 288 d.bits
def lr (d : NetDesc) : Nat := field 287 256 d.bits
def grw (d : NetDesc) : Nat := field 227 224 d.bits
def res0 (d : NetDesc) : Nat := field 223 212 d.bits
def nhid (d : NetDesc) : Nat := field 210 208 d.bits
def nmat (d : NetDesc) : Nat := field 207 204 d.bits
def shdeg (d : NetDesc) : Nat := field 203 201 d.bits
def logt (d : NetDesc) : Nat := field 200 196 d.bits
def levels (d : NetDesc) : Nat := field 195 192 d.bits + 1
def abase (d : NetDesc) : Nat := field 179 128 d.bits
def rbase (d : NetDesc) : Nat := field 115 64 d.bits
def pbase (d : NetDesc) : Nat := field 51 0 d.bits

/-- Din and Dp. -/
def din (d : NetDesc) : Nat := 2 * d.levels + (d.shdeg + 1) ^ 2 + d.nmat
def dp (d : NetDesc) : Nat := 16 * ceilDiv d.din 16

/-- GH, WH and PBYTES. -/
def gridHalves (d : NetDesc) : Nat := 2 * d.levels * 2 ^ d.logt
def weightHalves (d : NetDesc) : Nat := 64 * d.dp + 64 + (d.nhid - 1) * 4160 + 195
def params (d : NetDesc) : Nat := d.gridHalves + d.weightHalves
def pbytes (d : NetDesc) : Nat := 128 * ceilDiv (2 * d.params) 128

/-- N(l). -/
def resolution (d : NetDesc) : Nat → Nat
  | 0 => d.res0
  | l + 1 => min 65535 (d.resolution l * (16 + d.grw) / 16)

/-- The layers: the index of the first parameter, inputs, outputs. -/
def layers (d : NetDesc) : List (Nat × Nat × Nat) :=
  let first := d.gridHalves
  let second := first + 64 * d.dp + 64
  (first, d.dp, 64) :: (List.range (d.nhid - 1)).map (fun i => (second + 4160 * i, 64, 64))
    ++ [(second + 4160 * (d.nhid - 1), 64, 3)]

/-- The regions of R334: both versions, the ring, the optimiser state; base and size. -/
def regions (d : NetDesc) : List (Nat × Nat) :=
  [(d.pbase, d.pbytes), (d.pbase + d.pbytes, d.pbytes), (d.rbase, 48 * 65536), (d.abase, 64 + 12 * d.params)]

/-- Whether every field lies in its range and no reserved bit is set (R333, R334). -/
def fieldsOk (d : NetDesc) : Bool :=
  let pos := fun x => match decode .f32 x with | .fin false m _ => m != 0 | _ => false
  let unit := fun x => match decode .f32 x with
    | .fin neg m e => m == 0 || (!neg && ltE (.fin false m e) (.fin false 1 0))
    | _ => false
  field 511 384 d.bits == 0 && field 255 228 d.bits == 0 && !d.bits.testBit 211 && field 191 180 d.bits == 0
    && field 127 116 d.bits == 0 && field 63 52 d.bits == 0
    && 1 ≤ d.res0 && 2 ≤ d.nhid && d.nhid ≤ 6 && d.nmat ≤ 8 && d.shdeg ≤ 4 && 10 ≤ d.logt && d.logt ≤ 19
    && d.abase % 64 == 0 && d.rbase % 128 == 0 && d.pbase % 128 == 0
    && pos d.lr && pos d.eps && unit d.b1 && unit d.b2

end NetDesc

/-- Whether two ranges of bytes overlap. -/
def overlaps (a b : Nat × Nat) : Bool := a.1 < b.1 + b.2 && b.1 < a.1 + a.2

/-- Whether no two ranges of a list overlap. -/
def disjoint : List (Nat × Nat) → Bool
  | [] => true
  | a :: as => as.all (fun b => !overlaps a b) && disjoint as

/-! ## Evaluation (R335) -/

/-- f32 operations rounded once to nearest even. -/
def f32 (x : Nat) : Exact := decode .f32 x
def fadd (x y : Nat) : Nat := rnd32 (addE 0 (f32 x) (f32 y))
def fsub (x y : Nat) : Nat := rnd32 (addE 0 (f32 x) (f32 y).neg)
def fmul (x y : Nat) : Nat := rnd32 (mulE (f32 x) (f32 y))
def fdiv (x y : Nat) : Nat := rnd32 (divE (f32 x) (f32 y))
def fsqrt (x : Nat) : Nat := rnd32 (sqrtE (f32 x))

/-- f32 to f16, and one f32 pattern of a number. -/
def toHalf (x : Nat) : Nat := (roundF rne .f16 (f32 x).pre).1
def ofHalf (x : Nat) : Nat := rnd32 (decode .f16 x).pre
def f32One : Nat := 0x3F800000
def f32Two : Nat := 0x40000000

/-- The exact sum of products. -/
def sumProducts : List (Exact × Exact) → Pre
  | [] => .val false 0 0 false
  | [p] => mulE p.1 p.2
  | p :: ps => addP 0 (mulE p.1 p.2) (sumProducts ps)

/-- One axis of a grid lookup: corner c, and the weights 1 − f and f as exact values. -/
def axis (n x : Nat) : Nat × Exact × Exact :=
  let v : Exact := match f32 x with
    | .nan => .fin false 0 0
    | .inf neg => if neg then .fin false 0 0 else .fin false 1 0
    | .fin neg m e => if neg then .fin false 0 0 else if ltE (.fin false 1 0) (.fin false m e) then .fin false 1 0 else .fin false m e
  let u := f32 (rnd32 (mulE v (.fin false n 0)))
  let c : Nat := match u with | .fin _ m e => min (roundNat 1 false m e false) (n - 1) | _ => 0
  let f := (fun (d : Int × Int) => ofInt d.1 d.2 false) (addDy (dyOf u) (-((c : Nat) : Int), 0))
  let g := (fun (d : Int × Int) => ofInt d.1 d.2 false) (addDy (1, 0) (dyOf f.neg))
  (c, g, f)

/-- The entry that a corner names in a level of resolution n. -/
def gridEntry (n logt cx cy cz : Nat) : Nat :=
  if (n + 1) ^ 3 ≤ 2 ^ logt then cx + (n + 1) * (cy + (n + 1) * cz)
  else (cx ^^^ (cy * 0x6A09E667 % 2 ^ 32) ^^^ (cz * 0xBB67AE85 % 2 ^ 32)) % 2 ^ logt

/-- The eight corners of a level: entry and weight. -/
def corners (n logt : Nat) (p : List Nat) : List (Nat × Nat) :=
  let ax := axis n (p.getD 0 0)
  let ay := axis n (p.getD 1 0)
  let az := axis n (p.getD 2 0)
  (List.range 8).map fun d =>
    let dx := d % 2
    let dy := d / 2 % 2
    let dz := d / 4
    let w := fun (a : Nat × Exact × Exact) (b : Nat) => if b = 0 then a.2.1 else a.2.2
    let xy := rnd32 (mulE (w ax dx) (w ay dy))
    (gridEntry n logt (ax.1 + dx) (ay.1 + dy) (az.1 + dz), rnd32 (mulE (f32 xy) (w az dz)))

/-- The corners of every level. -/
def NetDesc.allCorners (d : NetDesc) (p : List Nat) : List (List (Nat × Nat)) :=
  (List.range d.levels).map fun l => corners (d.resolution l) d.logt p

/-- The index of feature j of an entry of a level among the parameters. -/
def NetDesc.gridIndex (d : NetDesc) (l e j : Nat) : Nat := 2 * (l * 2 ^ d.logt + e) + j

/-- The input vector (R335). `par` gives a parameter's f16 pattern. -/
def NetDesc.inputs (d : NetDesc) (par : Nat → Nat) (cs : List (List (Nat × Nat))) (dir mats : List Nat) : List Nat :=
  let grid := ((List.range d.levels).zip cs).flatMap fun lc => (List.range 2).map fun j =>
    (roundF rne .f16 (sumProducts (lc.2.map fun c => (f32 c.2, decode .f16 (par (d.gridIndex lc.1 c.1 j)))))).1
  let v := grid ++ harmonics d.shdeg dir ++ mats.take d.nmat
  v ++ List.replicate (d.dp - v.length) 0

/-- A list cut into pieces of 32; the first number is fuel. -/
def pieces : Nat → List (Exact × Exact) → List (List (Exact × Exact))
  | 0, _ => []
  | _, [] => []
  | n + 1, l => l.take 32 :: pieces n (l.drop 32)

/-- Units of 32 products summed onto an f32 accumulator (R194, R335). -/
def dotUnits (acc : Nat) (ps : List (Exact × Exact)) : Nat :=
  (pieces ps.length ps).foldl (fun a u => (applyUnit rne a u 127 127).1) acc

/-- One output of a layer, an f32 pattern (R335). A NaN weight or bias of an output row reaches that output alone, as the arithmetic has it, though
R335 also says that a NaN reaches every output (DESIGN CHOICE, log 121). -/
def layerOut (par : Nat → Nat) (l : Nat × Nat × Nat) (x : List Exact) (j : Nat) : Nat :=
  dotUnits (ofHalf (par (l.1 + l.2.1 * l.2.2 + j)))
    (((List.range l.2.1).map fun k => decode .f16 (par (l.1 + l.2.1 * j + k))).zip x)

/-- ReLU of a pre-activation, rounded to f16. -/
def relu (z : Nat) : Nat :=
  match f32 z with
  | .nan => canonNan .f16
  | .inf neg => if neg then 0 else infBits .f16 false
  | .fin neg _ _ => if neg then 0 else toHalf z

/-- Runs the layers: for each its inputs and its pre-activations. -/
def runLayers (par : Nat → Nat) : List (Nat × Nat × Nat) → List Nat → List (List Nat × List Nat)
  | [], _ => []
  | l :: ls, x =>
    let zs := (List.range l.2.2).map (layerOut par l (x.map (decode .f16)))
    (x, zs) :: runLayers par ls (zs.map relu)

/-- The three outputs z of a net on an input vector. -/
def netOutputs (runs : List (List Nat × List Nat)) : List Nat := ((runs.getLast?).map (fun r => r.2)).getD []

/-- The radiance: three f16 patterns (R335). -/
def NetDesc.radiance (d : NetDesc) (par : Nat → Nat) (pos dir mats : List Nat) : List Nat :=
  (netOutputs (runLayers par d.layers (d.inputs par (d.allCorners pos) dir mats))).map (fun z => expBits .f16 (f32 z))

/-! ## Samples (R339) -/

/-- A training sample's fields. -/
structure Sample where
  bits : Nat
  deriving DecidableEq, Repr

def Sample.pos (x : Sample) : List Nat := [field 31 0 x.bits, field 63 32 x.bits, field 95 64 x.bits]
def Sample.dir (x : Sample) : List Nat := [field 127 96 x.bits, field 159 128 x.bits, field 191 160 x.bits]
def Sample.mats (x : Sample) : List Nat := (List.range 8).map fun i => x.bits >>> (192 + 16 * i) % 2 ^ 16
def Sample.target (x : Sample) : List Nat := (List.range 3).map fun i => x.bits >>> (320 + 16 * i) % 2 ^ 16

/-- The bits of a sample. -/
def Sample.make (pos dir mats target : List Nat) : Nat :=
  (pos ++ dir).foldr (fun x a => x % 2 ^ 32 + 2 ^ 32 * a) 0
    + ((mats.take 8 ++ List.replicate (8 - mats.length) 0) ++ target.take 3).foldr (fun x a => x % 2 ^ 16 + 2 ^ 16 * a) 0 * 2 ^ 192

/-! ## Training (R341) -/

/-- Contributions of a sample: (parameter, f32 or exact contribution). -/
abbrev Contribs := List (Nat × Pre)

/-- Back-propagation through layers, last first: `g` is the gradient at the layer's pre-activations. Answers the contributions and
the gradient at the input of the first layer. -/
def backLayers (par : Nat → Nat) : List ((Nat × Nat × Nat) × List Nat × List Nat) → List Nat → Contribs × List Nat
  | [], g => ([], g)
  | (l, x, _) :: rest, g =>
    let ws := (List.range l.2.2).flatMap fun j => (List.range l.2.1).map fun k =>
      (l.1 + l.2.1 * j + k, mulE (f32 (g.getD j 0)) (decode .f16 (x.getD k 0)))
    let bs := (List.range l.2.2).map fun j => (l.1 + l.2.1 * l.2.2 + j, (f32 (g.getD j 0)).pre)
    let gx := (List.range l.2.1).map fun k =>
      dotUnits 0 ((List.range l.2.2).map fun j => (decode .f16 (par (l.1 + l.2.1 * j + k)), f32 (g.getD j 0)))
    let below := match rest with
      | (_, _, zp) :: _ => (List.range l.2.1).map fun k =>
          match f32 (zp.getD k 0) with
          | .fin neg m _ => if neg || m = 0 then 0 else gx.getD k 0
          | .inf neg => if neg then 0 else gx.getD k 0
          | .nan => gx.getD k 0
      | [] => gx
    let r := backLayers par rest below
    (ws ++ bs ++ r.1, r.2)

/-- All contributions of a sample (R341). -/
def NetDesc.contribs (d : NetDesc) (par : Nat → Nat) (x : Sample) : Contribs :=
  let cs := d.allCorners x.pos
  let runs := runLayers par d.layers (d.inputs par cs x.dir x.mats)
  let gz := (netOutputs runs).zip x.target |>.map fun zt =>
    let r := expBits .f32 (f32 zt.1)
    let e := rnd32 (addE 0 (f32 r) (decode .f16 zt.2).neg)
    fmul (fmul f32Two e) r
  let b := backLayers par ((d.layers.zip runs).reverse) gz
  let grid := ((List.range d.levels).zip cs).flatMap fun lc => (List.range 2).flatMap fun j => lc.2.map fun c =>
    (d.gridIndex lc.1 c.1 j, (f32 (fmul c.2 (b.2.getD (2 * lc.1 + j) 0))).pre)
  b.1 ++ grid

/-- The exact sum of a sample's contributions to each parameter, by parameter in rising order. -/
def addContrib : List (Nat × Pre) → Nat → Pre → List (Nat × Pre)
  | [], i, x => [(i, x)]
  | (j, y) :: t, i, x => if j < i then (j, y) :: addContrib t i x else if j = i then (j, addP 0 y x) :: t else (i, x) :: (j, y) :: t

/-- Adds to the f32 pattern of one parameter in a sorted list; an unlisted one is +0. -/
def addGrad : List (Nat × Nat) → Nat → Nat → List (Nat × Nat)
  | [], i, x => [(i, fadd 0 x)]
  | (j, y) :: t, i, x => if j < i then (j, y) :: addGrad t i x else if j = i then (j, fadd y x) :: t else (i, fadd 0 x) :: (j, y) :: t

/-- g after a sample (R341). -/
def addSample (g : List (Nat × Nat)) (s : List (Nat × Pre)) : List (Nat × Nat) :=
  s.foldl (fun a x => addGrad a x.1 (rnd32 x.2)) g

/-- The exact power of a value. -/
def powPre (x : Exact) (t : Nat) : Pre :=
  match x with
  | .fin n m e => .val (n && t % 2 == 1) (m ^ t) (e * t) false
  | _ => .nan false

/-- The Adam step of one parameter: g, and its master value, m and v; the new three (R341). -/
def NetDesc.adam (d : NetDesc) (t batch g master m v : Nat) : Nat × Nat × Nat :=
  let one := f32One
  let g1 := fdiv g (rnd32 (.val false batch 0 false))
  let m1 := fadd (fmul d.b1 m) (fmul (fsub one d.b1) g1)
  let v1 := fadd (fmul d.b2 v) (fmul (fsub one d.b2) (fmul g1 g1))
  let p1 := rnd32 (powPre (f32 d.b1) t)
  let p2 := rnd32 (powPre (f32 d.b2) t)
  let mh := fdiv m1 (fsub one p1)
  let vh := fdiv v1 (fsub one p2)
  (fsub master (fmul d.lr (fdiv mh (fadd (fsqrt vh) d.eps))), m1, v1)

end Sys2Proof.Num
end

