-- ==== Sys2Proof/Machine/Clock.lean ====
section
/-! DEFINITION. The elastic clock of a core: how long a cycle lasts, what its counters count, and the cycles of a core that holds nothing (R129 to R134). -/

namespace Sys2Proof.Machine

/-- The highest class in E1 to E4 in the current cycle; 0 where no lane instruction is in them (R129). -/
def Core.cycleClass (k : Core) : Nat :=
  k.stages.foldl (fun m x => if x.1 < k.cycle && k.cycle ≤ x.1 + 4 then max m x.2 else m) 0

/-- The length of the current cycle, ps (R129, R130). -/
def Core.cycleLength (k : Core) : Nat := k.periods.getD k.cycleClass 400

/-- The end of the current cycle: its counters, the next cycle's start, its phases, and its periods where a recalibration has come
(R127 to R134, R438). -/
def Core.endCycle (k : Core) (phase0 phase1 : Nat × Nat) : Core :=
  { k with
    cycle := k.cycle + 1, clscyc := k.clscyc.modify k.cycleClass fun n => n + 1,
    start := k.start + k.cycleLength, stages := k.stages.filter fun x => k.cycle ≤ x.1 + 3,
    phase0 := phase0, phase1 := phase1,
    lanesUsed := k.lanesHeld, lanesHeld := [0, 0, 0, 0], turn := none, periods := k.recal.getD k.periods, recal := none }

/-- Cycles of a core with no resident group: those in which E1 to E4 still drain, one by one. Fuel counts cycles. -/
def Core.drainTo (k : Core) (time : Nat) : Nat → Core
  | 0 => k
  | n + 1 => if k.start + k.cycleLength ≤ time then (k.endCycle (0, 0) (0, 0)).drainTo time n else k

/-- The cycles up to a time of a core that holds no group; each lasts the class 0 period once E1 to E4 are empty (R129, R131, R134). -/
def Core.idleTo (k : Core) (time : Nat) : Core :=
  let d := k.drainTo time 4
  let p := d.periods.getD 0 400
  let n := if d.stages = [] then (time - d.start) / p else 0
  { d with
    cycle := d.cycle + n, clscyc := d.clscyc.modify 0 fun x => x + n, start := d.start + n * p,
    phase0 := (0, 0), phase1 := (0, 0), lanesUsed := if n = 0 then d.lanesUsed else [0, 0, 0, 0], turn := if n = 0 then d.turn else none }

/-- A core that is about to take a group: its counters stand at the present time. -/
def State.clocked (s : State) (core : Nat) : State :=
  if (s.residents core).isEmpty then s.updCore core fun k => k.idleTo s.time else s

end Sys2Proof.Machine
end

