-- ==== Sys2Proof/Machine/Place.lean ====
section
/-! DEFINITION. Placement: what a core can take, the choice of width and core, the starting state of a group, recarving (R30, R61 to R88, R125). -/

namespace Sys2Proof.Machine

open Sys2Proof.Bits

/-! ## What a core holds (R67, R72) -/

/-- Gangs that occupy gang slots of a core. -/
def State.slotGangs (s : State) (core : Nat) : List Gang := (s.residents core).flatMap fun g => g.gangs.filter fun h => !h.exited

/-- The lowest window offset, a multiple of 4 KiB, at which a contiguous window of `units` 4 KiB units is free (R72). -/
def State.freeWindow (s : State) (core units : Nat) : Option Nat :=
  let used := fun (i : Nat) => (s.residents core).any fun g => g.window / 4096 ≤ i && i < g.window / 4096 + g.kernel.scrg
  ((List.range (16 * (s.core core).scr + 1 - units)).find? fun o => (List.range units).all fun i => !used (o + i)).map fun o => 4096 * o

/-- Accumulator tiles of a core that no group owns, rising (R72). -/
def State.freeTiles (s : State) (core : Nat) : List Nat :=
  (List.range 8).filter fun i => !((s.residents core).any fun g => g.tiles.contains i)

/-- What a group needs of a core (R72, R88). -/
structure Need where
  scr : Nat
  gangs : Nat
  entries : Nat
  bytes : Nat
  scrg : Nat
  accs : Nat
  deriving DecidableEq, Repr

/-- Whether a core can take a group: it has its carve, it is in no recarve and no drain, its claim queue is empty, and it has room (R69, R72,
R85, R436). -/
def State.canTake (s : State) (core : Nat) (n : Need) : Bool :=
  let k := s.core core
  k.scr == n.scr && k.recarve.isNone && !k.draining && k.claims.isEmpty
    && (s.slotGangs core).length + n.gangs ≤ 64 && (s.entriesUsed core).length + n.entries ≤ 128
    && n.bytes ≤ s.freePool core && (s.freeWindow core n.scrg).isSome && n.accs ≤ (s.freeTiles core).length

/-- Cores of a stack, rising. -/
def coresOf (st : Nat) : List Nat := (List.range Config.coresPerStack).map fun i => 96 * st + i

/-- The saved group for which a core evicts: one that is still ready to be restored there (R382). -/
def State.evictingFor (s : State) (core : Nat) : Option Group :=
  ((s.core core).evictFor.bind s.group?).filter fun g =>
    (match g.place with | .saved _ ready => ready | _ => false) && g.core / 96 == core / 96 && g.scr == (s.core core).scr && !(s.core core).draining

/-- A group that is saved is restored, or gone: no core evicts for it any more (R382). -/
def State.endEvicting (s : State) (gid : Nat) : State :=
  (s.cores.filter fun c => c.2.evictFor == some gid).foldl (fun t c => t.updCore c.1 fun k => { k with evictFor := none }) s

/-- The core that takes a group: the most free register bytes, then the lowest index (R73); a core that evicts for a saved group takes no
other until it has restored that one (R382, log 117). `who` is the saved group that asks. -/
def State.chooseFor (s : State) (st : Nat) (who : Option Nat) (n : Need) : Option Nat :=
  leastBy (fun c => [4194304 - s.freePool c, c]) ((coresOf st).filter fun c =>
    s.canTake c n && (s.evictingFor c).all fun g => who == some g.gid)

/-- The core that takes a new group. -/
def State.chooseCore (s : State) (st : Nat) (n : Need) : Option Nat := s.chooseFor st none n

/-! ## Width (R77) -/

/-- The width code before its bounds. -/
def State.historyWidth (s : State) (st : Nat) (k : Kernel) : Nat :=
  match Table.get none s.history (256 * st + historyIndex k.entry.toNat) with
  | some (tag, l) =>
    if tag = historyTag k.entry.toNat then (if l < 32 then 3 else if l < 64 then 2 else if l < 128 then 1 else 0) else k.wmax
  | none => k.wmax

/-- Raises a width code until a group needs at most 32 gangs (R77); a width code never passes 3. -/
def raiseWidth (gqm1 : Nat) : Nat → Nat → Nat
  | 0, w => w
  | n + 1, w => if 2 ^ (w + 1) * 32 < gqm1 + 1 then raiseWidth gqm1 n (w + 1) else w

/-- GANGW of a group at placement (R77). -/
def State.gangWidth (s : State) (st : Nat) (k : Kernel) : Nat :=
  8 * 2 ^ raiseWidth k.gqm1 3 (max k.wmin (min k.wmax (s.historyWidth st k)))

/-! ## The starting state of a group (R67, R76, R79, R125, R304) -/

/-- What is placed: a group of a pass, of a launch entry, or of a record-pass node. -/
structure Spec where
  tref : TileRef
  groupId : Nat
  node : Option Nat
  kernel : Kernel
  scr : Nat
  accs : Nat
  chk : Bool
  arg : Nat
  /-- lanes present, from lane 0 of the group on -/
  lanes : Nat
  /-- helper lanes of the group, and the records given to its lanes, or quads in a PIX kernel, in order -/
  helper : Nat
  records : List (List Byte)
  deriving DecidableEq, Repr

/-- Gangs of a group of some lanes in a width. -/
def Spec.gangs (p : Spec) (w : Nat) : Nat := max 1 (ceilDiv p.lanes w)

/-- What a group to be placed needs (R72). -/
def Spec.need (p : Spec) (w : Nat) : Need :=
  ⟨p.scr, p.gangs w, p.gangs w, 4 * ceilDiv p.lanes 4 * (8 * p.kernel.vc8) * 8, p.kernel.scrg, p.accs⟩

/-- Resident lanes that a gang counts for on a partition (R67, R125). -/
def Gang.lanesOn (h : Gang) (part : Nat) : Nat :=
  if h.width = 64 then (if part = h.home || part = h.home + 1 then 32 else 0)
  else if part = h.home then popcount 64 h.present.toNat else 0

/-- The home partition of a new gang (R67, R125). -/
def homeOf (hs : List Gang) (width : Nat) : Nat :=
  let l := fun (p : Nat) => hs.foldl (fun a h => a + h.lanesOn p) 0
  if width = 64 then (if l 0 + l 1 ≤ l 2 + l 3 then 0 else 2)
  else (leastBy (fun p => [l p, p]) (List.range 4)).getD 0

/-- A gang as it starts (R76, R79). -/
def Gang.start (id width slot home entry : Nat) (present helper : BitVec 64) (arg vcount : Nat) (pc : BitVec 56) : Gang where
  id := id
  width := width
  slot := slot
  home := home
  lmask := present
  helper := helper
  present := present
  v := []
  s := Table.set 0 [] 1 (BitVec.ofNat 64 arg)
  p := []
  c := 0
  satf := 0
  fltmask := 0
  trappc := 0
  trapcause := ⟨false, false, 0, 0⟩
  ckrb := 0
  vcount := vcount
  tokens := []
  joins := []
  frags := [{ entry := entry, state := .runnable, qset := quadsOf present, fmask := present, pc := BitVec.ofNat 54 (pc.toNat / 4),
              fmtf := Flags.fmtReset, ftok := 0, wait := .none, tested := false, nextCycle := 0, readyAt := none, parkedAt := 0, hint := none }]
  handler := none
  batch := 0
  batches := []
  claim := none
  ops := []
  fpend := []
  window := none
  rolls := 0
  rolledAt := []
  serial := none
  stop := none
  faddr := 0
  akind := 7
  faultTime := 0
  trapped := false
  trapEntry := entry
  saved := []
  records := []
  issued := 0
  masked := 0
  lastLane := 0
  wantsBaton := false
  awaitBaton := false
  verr := []
  serr := []
  perr := []

/-- The gangs of a group, one after another, on a core: home partitions by R67. R72 asks for a
free slot and a free split-table entry each, and does not say which: the lowest free of both (DESIGN CHOICE, log 96). -/
def Spec.makeGangs (p : Spec) (w cyc : Nat) (others : List Gang) (entries : List Nat) : Nat → List Gang
  | 0 => []
  | n + 1 =>
    let done := p.makeGangs w cyc others entries n
    let hs := others ++ done
    let slot := (lowestFree 64 (hs.map fun h => h.slot)).getD 0
    let entry := (lowestFree 128 (entries ++ done.flatMap fun h => h.frags.map fun f => f.entry)).getD 0
    let count := min w (p.lanes - n * w)
    let per := if p.kernel.pix then w / 4 else w
    let h := Gang.start n w slot (homeOf hs w) entry (BitVec.ofNat 64 (2 ^ count - 1)) (BitVec.ofNat 64 ((p.helper >>> (n * w)) % 2 ^ w))
      p.arg (8 * p.kernel.vc8) p.kernel.entry
    let rs := (p.records.drop (n * per)).take per
    done ++ [{ h with records := (List.range rs.length).zip rs, frags := h.frags.map fun f => { f with nextCycle := cyc } }]

/-- A core with the window and tiles of a new group as R79 and R304 leave them: bytes and elements of another frame's holder read zero. -/
def Core.hand (k : Core) (frame window scrg : Nat) (tiles : List Nat) : Core :=
  let foreign := (List.range scrg).filter fun i => Table.get 0 k.scratchHolder (window / 4096 + i) != frame + 1
  let clear := fun (a : Nat) => foreign.any fun i => a / 4096 == window / 4096 + i
  let other := tiles.filter fun i => Table.get 0 k.accHolder i != frame + 1
  { k with
    scratch := k.scratch.filter fun e => !clear e.1, scratchErr := k.scratchErr.filter fun e => !clear (8 * e),
    acc := k.acc.filter fun e => !other.contains (e.1 / 8192), accErr := k.accErr.filter fun e => !other.contains (e / 8192) }

/-- Places a group on a core (R72 to R79). Records that its window has no room for are cut at the window's end, which no rule forbids or
describes (DESIGN CHOICE, log 112). -/
def State.placeGroup (s0 : State) (core w : Nat) (p : Spec) : State :=
  let s := s0.clocked core
  let fr := s.frameAt p.tref.slot
  let serial := (fr.map fun f => f.serial).getD 0
  let rc := (fr.map fun f => f.rcd p.tref.pass)
  let window := (s.freeWindow core p.kernel.scrg).getD 0
  let tiles := (s.freeTiles core).take p.accs
  let k := (s.core core).hand serial window p.kernel.scrg tiles
  let cyc := k.cycle
  let g : Group :=
    { gid := s.gidCount, place := .resident, core := core, tref := p.tref, frame := serial,
      ftag := (fr.map fun f => f.ftag).getD 0, node := p.node, groupId := p.groupId,
      tilex := (rc.map fun r => r.column p.tref.tile).getD 0, tiley := (rc.map fun r => r.row p.tref.tile).getD 0,
      kernel := p.kernel, scr := p.scr, chk := p.chk, window := window, tiles := tiles, spare := 0, errsum := 0,
      gangs := p.makeGangs w cyc (s.slotGangs core) (s.entriesUsed core) (p.gangs w),
      savePending := none, handle := none, since := s.time, deliver := false, meter := 0, macros := [], chunks := [] }
  let bytes := (p.records.flatten).take (4096 * p.kernel.scrg)
  { s.setCore core (k.scratchWrite window bytes) with groups := s.groups ++ [g], gidCount := s.gidCount + 1 }

/-- Places a group on the core of its stack that R73 chooses, or none where no core can take it. -/
def State.tryPlace (s : State) (st : Nat) (p : Spec) : Option State :=
  let w := s.gangWidth st p.kernel
  (s.chooseCore st (p.need w)).map fun c => s.placeGroup c w p

/-! ## What is ready (R59, R61, R74) -/

/-- Group `i` of a compute tile. -/
def State.tileSpec (s : State) (t : TileRef) (i : Nat) : Option Spec :=
  (s.passAt t.slot t.pass).bind fun p => p.kernel.map fun k =>
    { tref := t, groupId := i, node := none, kernel := k, scr := p.rcd.scr, accs := p.rcd.accs, chk := p.rcd.chk,
      arg := p.rcd.argbase.toNat, lanes := 4 * (k.gqm1 + 1), helper := 0, records := [] }

/-- The next group of a launch entry (R175, R177). -/
def LaunchEntry.spec (e : LaunchEntry) : Spec where
  tref := e.tref
  groupId := 256 + e.placed
  node := none
  kernel := e.kernel
  scr := e.scr
  accs := e.accs
  chk := e.chk
  arg := e.carg.toNat
  lanes := 4 * (e.kernel.gqm1 + 1)
  helper := 0
  records := []

/-- Group `i` of a shader node with `recs` records; the entry node's group has none, and every lane (R347). -/
def State.nodeSpec (s : State) (t : TileRef) (node i : Nat) (recs : List (List Byte)) (helper : Nat) : Option Spec :=
  (s.passAt t.slot t.pass).bind fun p => (p.nodeKernels.getD node none).map fun k =>
    { tref := t, groupId := i % 256, node := some node, kernel := k, scr := nodeScr (p.node node), accs := nodeAccs (p.node node),
      chk := p.rcd.chk, arg := p.rcd.argbase.toNat,
      lanes := if recs = [] then 4 * (k.gqm1 + 1) else if k.pix then 4 * recs.length else recs.length,
      helper := helper, records := recs }

/-- The first group of a tile that is about to start: of its kernel, or of the entry node. -/
def State.firstSpec (s : State) (t : TileRef) : Option Spec :=
  (s.passAt t.slot t.pass).bind fun p => if p.rcd.kind = 1 then s.nodeSpec t p.entryNode 0 [] 0 else s.tileSpec t 0

/-- Starts a tile whose first group is placed at once (R30, R347); a commit takes effect and is done (R342). -/
def State.beginTile (s : State) (st : Nat) (t : TileRef) : Option State :=
  match s.passAt t.slot t.pass with
  | none => none
  | some p =>
    if p.rcd.kind = 5 then
      (s.startTile t).map fun s1 =>
        let n := p.rcd.kparam % 4
        let s2 := { s1 with nets := s1.nets.modify n fun x => if x.neww then { x with cur := !x.cur, neww := false } else x }
        s2.updTile t fun x => x.finish s.nstime
    else
      match s.firstSpec t with
      | none => none
      | some sp =>
        match s.startTile t with
        | none => none
        | some s1 =>
          (s1.tryPlace st sp).map fun s2 =>
            let s3 := s2.updTile t fun x => { x with placed := 1 }
            if p.rcd.kind = 1 then
              let fresh : RecTile := ⟨t, [], [], [], 0, [], [], [0, 0, 0, 0, 0, 0, 0, 0], Table.set 0 [] p.entryNode 1, false⟩
              { s3 with recTiles := s3.recTiles.filter (fun r => r.tref != t) ++ [fresh] }
            else s3

/-- The tile that starts next on a stack (R29, R30, R59). -/
def State.nextStart (s : State) (st : Nat) : Option TileRef :=
  (s.readyTiles st fun k => k ≤ 1 || k == 5).find? fun t => (s.beginTile st t).isSome

/-- TILE_START (R30, R342, R347). -/
def execTileStart (st : StackId) (s : State) : Out :=
  match (s.nextStart st.val).bind fun t => s.beginTile st.val t with
  | some s1 => .next s1
  | none => .fault .absent

/-- A group waiting to be placed: of a started tile, or of the entry at the head of the launch store (R61, R74). -/
inductive Waiting where
  | ofTile (t : TileRef) (i : Nat)
  | ofEntry (e : LaunchEntry)
  deriving DecidableEq, Repr

/-- The key of R59 of a waiting group. -/
def State.waitKey (s : State) (st : Nat) : Waiting → List Nat
  | .ofTile t i => s.workKey t st i
  | .ofEntry e => s.workKey e.tref st (256 + e.placed)

/-- The groups that wait on a stack, in the order of R59. -/
def State.waitingGroups (s : State) (st : Nat) : List Waiting :=
  let ts := (s.tilesWhere st fun p x => p.rcd.kind == 0 && x.state == .started && x.placed < p.rcd.ngroups).map fun t =>
    Waiting.ofTile t (((s.tileAt t).map fun x => x.placed).getD 0)
  let es := match s.launchesOf st with
    | e :: _ => if e.tentative.isNone then [Waiting.ofEntry e] else []
    | [] => []
  sortBy (s.waitKey st) (ts ++ es)

/-- The spec of a waiting group. -/
def State.waitSpec (s : State) : Waiting → Option Spec
  | .ofTile t i => s.tileSpec t i
  | .ofEntry e => some e.spec


/-- Places a waiting group. -/
def State.placeWaiting (s : State) (st : Nat) (w : Waiting) : Option State :=
  match s.waitSpec w with
  | none => none
  | some p =>
    (s.tryPlace st p).map fun s1 =>
      match w with
      | .ofTile t _ => s1.updTile t fun x => { x with placed := x.placed + 1 }
      | .ofEntry e =>
        if e.placed + 1 = e.groups then s1.freeLaunches fun x => x.id == e.id
        else { s1 with launches := s1.launches.map fun x => if x.id = e.id then { x with placed := x.placed + 1 } else x }

/-- The group placed next on a stack: the first in order that some core can take. -/
def State.nextPlace (s : State) (st : Nat) : Option Waiting := (s.waitingGroups st).find? fun w => (s.placeWaiting st w).isSome

/-- GROUP_PLACE (R61, R72 to R79). -/
def execGroupPlace (st : StackId) (s : State) : Out :=
  match (s.nextPlace st.val).bind fun w => s.placeWaiting st.val w with
  | some s1 => .next s1
  | none => .fault .absent

/-! ## Recarving (R69) -/

/-- An empty core: no resident group, no claim, and no recarve in progress (R69). -/
def State.coreEmpty (s : State) (core : Nat) : Bool :=
  (s.residents core).isEmpty && (s.core core).claims.isEmpty && (s.core core).recarve.isNone && !(s.core core).draining

/-- Cores of a stack in the middle of a recarve to some carve (R69). -/
def State.recarvingTo (s : State) (st scr : Nat) : Nat :=
  ((coresOf st).filter fun c => (s.core c).recarve.any fun r => r.2 == scr).length

/-- The empty core that a recarve to some carve takes: the lowest (R69). -/
def State.recarvable (s : State) (st scr : Nat) : Option Nat := (coresOf st).find? fun c => s.coreEmpty c && (s.core c).scr != scr

/-- The recarve that comes next for groups that are ready, in order: each that no core has room for takes a recarve under way to its carve, or
else the lowest empty core; `taken` lists the carves of recarves under way already counted (R69). Log 20. -/
def State.recarveFor (s : State) (st : Nat) (taken : List Nat) : List Need → Option (Nat × Nat)
  | [] => none
  | n :: rest =>
    if (s.chooseCore st n).isSome then s.recarveFor st taken rest
    else if taken.count n.scr < s.recarvingTo st n.scr then s.recarveFor st (n.scr :: taken) rest
    else
      match s.recarvable st n.scr with
      | some c => some (c, n.scr)
      | none => s.recarveFor st taken rest

/-- What a group to be placed on a stack needs, in the width it would have. -/
def State.needOf (s : State) (st : Nat) (p : Spec) : Need := p.need (s.gangWidth st p.kernel)

/-- A recarve begins: the L1 is invalidated, its dirty lines written back, the scratchpad region is zeroed, and the carve comes within 12 µs
(R69); when, is a free value (log 4). -/
def State.beginRecarve (s : State) (core scr : Nat) : State :=
  { s.updCore core fun k => { k with
      recarve := some (s.time + Config.latency s.free % 12000001, scr), scratch := [], scratchErr := [], scratchHolder := [] } with
    caches := s.caches.drop fun x => x.core == core,
    free := s.free + 1 }

/-- RECARVE_DONE (R69). -/
def execRecarveDone (core : Nat) (s : State) : Out :=
  match (s.core core).recarve with
  | some (due, scr) =>
    if due ≤ s.time then .next (s.updCore core fun k => { k with scr := scr, recarve := none }) else .fault .absent
  | none => .fault .absent

end Sys2Proof.Machine
end

