-- ==== Sys2Proof/Machine/Nets.lean ====
section
/-! DEFINITION. The radiance cache: nets and their control, queries and samples, training steps; direct vat pages (R250, R331 to R342). -/

namespace Sys2Proof.Machine

open Sys2Proof.Bits
open Sys2Proof.Num (NetDesc Sample)

/-! ## Control (R331 to R334) -/

/-- Whether a range lies in direct pages of a stack's vat (R250). -/
def State.directOn (s : State) (st : StackId) (r : Nat × Nat) : Bool :=
  vatBase st.val ≤ r.1 && r.1 + r.2 ≤ vatBase st.val + (s.vat st).dp * 65536

/-- The stack of a net: that of the vat its versions lie in (R334). -/
def netStack (d : NetDesc) : StackId := if d.pbase < vatBase 1 then 0 else 1

/-- Descriptors of the other nets that are enabled. -/
def State.otherNets (s : State) (n : Nat) : List NetDesc :=
  (List.range 4).filterMap fun k => if k != n && (s.net k).en then some ⟨(s.net k).desc⟩ else none

/-- Whether a descriptor is valid for net n (R334). -/
def State.netValid (s : State) (n : Nat) (d : NetDesc) : Bool :=
  let a := (d.abase, 64 + 12 * d.params)
  d.fieldsOk && ([0, 1] : List StackId).any (fun st => (d.regions.take 3).all (s.directOn st))
    && s.plainRange a.1 a.2 && Num.disjoint d.regions
    && (s.otherNets n).all fun e => d.regions.all fun x => e.regions.all fun y => !Num.overlaps x y

/-- The descriptor at a physical address, unless it maps to nothing or meets an uncorrectable error (R332). -/
def State.readNetDesc (s : State) (pa : Nat) : Option NetDesc :=
  if s.busError pa || s.memErrBits pa 64 != 0 then none else some ⟨s.readPhys pa 64⟩

/-- A write to GNETn: an enabling write whose descriptor is invalid or unreadable does nothing but set DBAD (R331, R332). -/
def gnetWrite (m : Master) (n : Fin 4) (val : Word) (en : Bool) (s : State) : Out :=
  ownerWrite m s fun s =>
    let x := s.net n.val
    let x1 := { x with wign := x.wign && !val.getLsbD 2, dbad := x.dbad && !val.getLsbD 1 }
    let put := fun (y : Net) => Host.Outcome.next { s with nets := s.nets.set n.val y }
    if !s.frames.isEmpty then put { x1 with wign := true }
    else
      let da := field 51 6 val.toNat
      if en then
        match s.readNetDesc (64 * da) with
        | none => put { x with dbad := true }
        | some d =>
          if s.netValid n.val d then
            put { x1 with daddr := BitVec.ofNat 46 da, en := true, cur := false, neww := false, tail := 0, fill := 0, drops := 0, desc := d.bits }
          else put { x with dbad := true }
      else put { x1 with daddr := BitVec.ofNat 46 da, en := false }

/-- GNET_ENABLE (R332). -/
def execGnetEnable (m : Master) (n : Fin 4) (val : Word) (s : State) : Out := gnetWrite m n val true s

/-- GNET_DISABLE (R332). -/
def execGnetDisable (m : Master) (n : Fin 4) (val : Word) (s : State) : Out := gnetWrite m n val false s

/-- Whether lowering DP of a stack would uncover an enabled net's regions (R332). -/
def State.uncovers (s : State) (st : StackId) (dp : Nat) : Bool :=
  (List.range 4).any fun n => (s.net n).en
    && (NetDesc.regions ⟨(s.net n).desc⟩).any fun r =>
      vatBase st.val ≤ r.1 && r.1 < vatBase (st.val + 1) && vatBase st.val + dp * 65536 < r.1 + r.2

/-- Zeroes a range of physical memory. -/
def State.zeroRange (s : State) (lo hi : Nat) : State :=
  { s with mem := s.mem.filter fun c => !(lo ≤ c.1 && c.1 < hi), memErr := s.memErr.filter fun e => !(lo ≤ 128 * e.1 && 128 * e.1 < hi) }

/-- VATDIR_WRITE: pages taken are zeroed; dirty lines they cached keep their values in GDDR 7 (R250, R332). -/
def execVatdirWrite (m : Master) (st : StackId) (val : Word) (s : State) : Out :=
  ownerWrite m s fun s =>
    let v := s.vat st
    let dp := min 4096 (field 12 0 val.toNat)
    if !s.frames.isEmpty || !v.leases.isEmpty || (dp < v.dp && s.uncovers st dp) then .next s
    else
      let s1 := s.setVat st { v with dp := dp }
      .next (if v.dp < dp then s1.zeroRange (vatBase st.val + v.dp * 65536) (vatBase st.val + dp * 65536) else s1)

/-! ## VRCQ (R336 to R340) -/

/-- The version of a net that a group's pass is bound to (R340). -/
def State.boundVersion (s : State) (g : Group) (n : Nat) : Bool :=
  match ((s.frames.find? fun f => f.serial == g.frame).bind fun f => f.passes[g.tref.pass]?).bind fun p => p.bound with
  | some l => l.getD n false
  | none => (s.net n).cur

/-- A parameter of a version of a net, as an f16 pattern (R334). -/
def State.netParam (s : State) (d : NetDesc) (version : Bool) (i : Nat) : Nat :=
  s.bytesN (d.pbase + (if version then d.pbytes else 0) + 2 * i) 2

/-- The inputs of a lane: position, direction, materials (R337). -/
def Issue.netInputs (i : Issue) (nmat l : Nat) : List Nat × List Nat × List Nat :=
  let r := fun (k : Nat) => i.readGroup i.ln.a k l
  let lo := fun k => r k % 2 ^ 32
  let hi := fun k => r k / 2 ^ 32
  ([lo 0, hi 0, lo 1], [hi 1, lo 2, hi 2], (List.range nmat).map fun m => elem 16 (r (3 + m / 4)) (m % 4))

/-- A sample enters a net's ring, or is dropped (R339). -/
def State.enqueueSample (s : State) (agent : Option (Nat × Nat)) (n bits : Nat) : State :=
  let x := s.net n
  let d : NetDesc := ⟨x.desc⟩
  if x.fill = 65536 then { s with nets := s.nets.set n { x with drops := min (x.drops + 1) (2 ^ 24 - 1) } }
  else
    { s.poke agent (d.rbase + 48 * ((x.tail + x.fill) % 65536)) (toBytes 48 bits) with nets := s.nets.set n { x with fill := x.fill + 1 } }

/-- The predicates of a VRCQ: of its queries, and of its samples, none without .T (R337, R338). -/
def Issue.queries (i : Issue) : Word := i.h.readP (pnum i.ln.c)
def Issue.trains (i : Issue) : Word := if i.ln.mod.getLsbD 0 then i.h.readP (i.ln.x24.toNat / 16 % 16) else 0

/-- The registers a VRCQ reads beyond its query predicate: its input group, in lanes that query or train; its target, in lanes that train; and the
train predicate (R146, R337, R338). -/
def Issue.netSources (i : Issue) (nmat : Nat) : List ((Operand × Nat) × (Nat → List Nat)) :=
  let only := fun (m : Word) (l : Nat) => if m.getLsbD l then [l] else []
  ((i.ln.a, 3 + ceilDiv nmat 4), only (i.queries ||| i.trains))
    :: (if i.ln.mod.getLsbD 0 then
          [((i.ln.b, 1), only i.trains), ((Operand.p (Fin.ofNat 16 (i.ln.x24.toNat / 16 % 16)), 1), fun l => [l])]
        else [])

/-- What the evaluation of a version of a net at a position reads: ranges of bytes (R334, R335). -/
def netReads (d : NetDesc) (version : Bool) (pos : List Nat) : List (Nat × Nat) :=
  let base := d.pbase + (if version then d.pbytes else 0)
  (base + 2 * d.gridHalves, 2 * d.weightHalves)
    :: ((List.range d.levels).zip (d.allCorners pos)).flatMap fun lc => lc.2.map fun c => (base + 2 * d.gridIndex lc.1 c.1 0, 4)

/-- The ranges that the queries of a VRCQ read. -/
def Issue.queryReads (i : Issue) (s : State) (n : Nat) : List (Nat × Nat) :=
  let d : NetDesc := ⟨(s.net n).desc⟩
  ((i.lanes.filter fun l => i.queries.getLsbD l).flatMap fun l =>
    netReads d (s.boundVersion i.g n) (i.netInputs d.nmat l).1).eraseDups

/-- The queries and samples of a VRCQ whose net is enabled: a load that marks nothing, which waits for a store that its own window holds, and
rolls back a window that has claimed a line it reads (R338, R367, R369). -/
def Issue.query (i0 : Issue) (s : State) (n : Nat) : Out :=
  let reads := i0.queryReads s n
  if reads.any fun r => i0.h.overlapsHeld false r.1 r.2 then i0.wait s .window else
  issueLoad s i0.ctx fun c =>
  let i := { i0 with h := c.h.countDone }
  let d : NetDesc := ⟨(s.net n).desc⟩
  let par := s.netParam d (s.boundVersion i.g n)
  let asks := i.lanes.filter fun l => i.queries.getLsbD l
  let dest := vnum i.ln.d
  match i.h.shadow [dest] with
  | none => i0.wait s .window
  | some h =>
    let rows := asks.map fun l =>
      let x := i.netInputs d.nmat l
      ((dest, l), BitVec.ofNat 64 (fromElems 16 (d.radiance par x.1 x.2.1 x.2.2)))
    let samples := (i.workers.filter fun l => i.trains.getLsbD l).map fun l =>
      let x := i.netInputs d.nmat l
      Sample.make x.1 x.2.1 x.2.2 ((Machine.elems 16 (i.read .f16 i.ln.b l)).take 3)
    let s1 := { i with h := h }.start s
      { i.vop s .time { Writes.none with v := rows } [dest] with lanes := BitVec.ofNat 64 (maskOf asks) }
    .next (samples.foldl (fun u b => u.enqueueSample i.agent n b) (reads.foldl (fun u r => u.conflict i.agent r.1 r.2 false) s1))

/-- VRCQ (R336 to R340). A net that is not enabled has no descriptor, so that the group at `a` is of the three registers that every net
has. The net trap of a query is a load's fault (R371). -/
def vrcqWord (f : Lane) (s : State) : Out :=
  withCur s fun c =>
    let n := f.x24.toNat % 4
    let nmat := if (s.net n).en then NetDesc.nmat ⟨(s.net n).desc⟩ else 0
    let i := c.issue .vrcq f
    let past := !Legal.vBelow (some c.h.vcount) f.a (3 + ceilDiv nmat 4)
    match Legal.illegal .vrcq f ⟨some i.fmt, some c.h.vcount, some c.g.tiles.length⟩, past with
    | none, true => s.trap c (Trap.inGang 0x01 5 i.enabled)
    | some d, true => s.trap c (Trap.inGang 0x01 (if 5 < d then 5 else d) i.enabled)
    | _, false =>
      laneWordWith .vrcq f s ownLane (fun i => i.netSources nmat) fun i =>
        if !(s.net n).en then s.loadFault i.ctx (Trap.inGang 0x0B n i.enabled) else i.query s n

/-- VRCQ: with .T it is irrevocable (R338). -/
def execVrcq (f : Lane) (s : State) : Out :=
  if f.mod.getLsbD 0 then irrevocable s fun _ => vrcqWord f s else vrcqWord f s

/-! ## Training (R341) -/

/-- An f32 word of the optimiser state: 0 master, 1 m, 2 v of a parameter. -/
def State.optWord (s : State) (d : NetDesc) (i k : Nat) : Nat := s.bytesN (d.abase + 64 + 12 * i + 4 * k) 4

/-- What a training step on b samples of a net reads: the samples, t, and the optimiser's words; ranges of bytes (R334, R341). -/
def trainingReads (d : NetDesc) (tail b : Nat) : List (Nat × Nat) :=
  (d.abase, 8) :: (d.abase + 64, 12 * d.params) :: (List.range b).map fun k => (d.rbase + 48 * ((tail + k) % 65536), 48)

/-- One step on a batch that is not empty: the optimiser state and version 1 − CUR rewritten (R341). A sample with a reserved bit set is
refused: it is taken from the ring, and contributes nothing (R11, log 83). What the step reads rolls back a window that has claimed it (R369). -/
def State.adamStep (s : State) (n : Nat) : State :=
  let x := s.net n
  let d : NetDesc := ⟨x.desc⟩
  let b := min 4096 x.fill
  let batch := (List.range b).map fun k => Sample.mk (s.bytesN (d.rbase + 48 * ((x.tail + k) % 65536)) 48)
  let par := fun i => Num.toHalf (s.optWord d i 0)
  let g := (batch.filter fun y => field 383 368 y.bits == 0).foldl
    (fun a y => Num.addSample a ((d.contribs par y).foldl (fun l c => Num.addContrib l c.1 c.2) [])) []
  let t := (s.bytesN d.abase 8 + 1) % 2 ^ 64
  let grad := fun i => ((g.find? fun e => e.1 == i).map fun e => e.2).getD 0
  let steps := (List.range d.params).map fun i => d.adam t b (grad i) (s.optWord d i 0) (s.optWord d i 1) (s.optWord d i 2)
  let opt := steps.flatMap fun r => toBytes 4 r.1 ++ toBytes 4 r.2.1 ++ toBytes 4 r.2.2
  let ver := steps.flatMap fun r => toBytes 2 (Num.toHalf r.1)
  let shadow := d.pbase + (if x.cur then 0 else d.pbytes)
  let s0 := (trainingReads d x.tail b).foldl (fun u r => u.conflict none r.1 r.2 false) s
  let s1 := ((s0.poke none d.abase (toBytes 8 t)).poke none (d.abase + 64) opt).poke none shadow ver
  { s1 with nets := s1.nets.set n { x with tail := (x.tail + b) % 65536, fill := x.fill - b, neww := true } }

/-- Whether a pass is a training pass for a net whose stack is `st` (R341). -/
def State.trains (s : State) (st : Nat) (p : Pass) : Bool :=
  p.rcd.kind == 4 && (netStack ⟨(s.net (p.rcd.kparam % 4)).desc⟩).val == st

/-- The training tile on the sizing engine of a stack, or the released one that goes on it next: the engine is that of the net's
stack, whichever stacks the pass's AFF names beside it (R59, R341). -/
def State.trainingTile (s : State) (st : Nat) : Option TileRef :=
  let running := [0, 1].flatMap fun k => s.tilesWhere k fun p x => s.trains st p && x.state == .started && !x.engineDone
  let ready := ([0, 1].flatMap fun k => s.readyTiles k fun n => n == 4).filter fun t => (s.passAt t.slot t.pass).any (s.trains st)
  match running with
  | t :: _ => some t
  | [] => (sortBy (fun t => s.workKey t st 0) ready).find? fun t => (s.startTile t).isSome

/-- TRAINING_STEP: one step of the tile on the engine; the last one ends it (R341); it waits while the engine
loads an image (R435). -/
def execTrainingStep (st : StackId) (s : State) : Out :=
  match (if s.loads 2 (64 * st.val) then none else s.trainingTile st.val) with
  | none => .fault .absent
  | some t =>
    let s0 := (s.startTile t).getD s
    match s0.passAt t.slot t.pass with
    | none => .fault .absent
    | some p =>
      let n := p.rcd.kparam % 4
      let s1 := if (s0.net n).fill = 0 then s0 else s0.adamStep n
      let s2 := s1.updPass t.slot t.pass fun p => { p with stepsLeft := p.stepsLeft - 1 }
      .next (if p.stepsLeft ≤ 1 then s2.updTile t fun x => x.finish s.nstime else s2)

end Sys2Proof.Machine
end

