-- ==== Sys2Proof/Machine/Graph.lean ====
section
/-! DEFINITION. A frame graph as the graph unit reads it, and the structural refusals of admission check 2 (R13 to R24, R32, R51,
R71, R290, R343, R345, R346, R417, R431). -/

namespace Sys2Proof.Machine

open Sys2Proof.Bits

/-! ## Reads of the graph unit (R14, R51) -/

/-- The graph unit as an agent of translation: no core and no pass (R51). -/
def graphWho : Who := ⟨none, none⟩

/-- One byte as the graph unit reads it; none where translation faults or the line has an uncorrectable error (R51). -/
def State.graphByte (s : State) (va : Nat) : Option Byte :=
  match s.checkGlobal graphWho .load va 1 with
  | .error _ => none
  | .ok (pa, _) => if s.memErrBits pa 1 != 0 then none else some (BitVec.ofNat 8 (s.readPhys pa 1))

/-- A record of n bytes, as a number (R10, R51). -/
def State.graphRead (s : State) (va n : Nat) : Option Nat :=
  ((List.range n).mapM fun i => s.graphByte (va + i)).map ofBytes

/-- The first address of each 64 KiB page that a range touches. -/
def pageStarts (va n : Nat) : List Nat :=
  (List.range ((va + n - 1) / 65536 + 1 - va / 65536)).map fun i => max va ((va / 65536 + i) * 65536)

/-- The pages of a range, each by the number of its virtual page with its physical address, where every one translates to a page with W
(R51). -/
def State.pagesWritable (s : State) (va n : Nat) : Option (List (Nat × Nat)) :=
  (pageStarts va n).mapM fun a =>
    match s.checkGlobal graphWho .store a 1 with
    | .ok (pa, _) => some (a / 65536, pa - a % 65536)
    | .error _ => none

/-- A failed check of admission: FKIND, FINDEX and STATUS (R24, R49). -/
abbrev Refused := Nat × Nat × Nat

/-- The failures of a list of (STATUS, failed) for one record. -/
def failures (kind index : Nat) (l : List (Nat × Bool)) : List Refused :=
  l.filterMap fun x => if x.2 then some (kind, index, x.1) else none

/-! ## The header (R15) -/

/-- The graph header's fields. -/
structure GraphHeader where
  bits : Nat
  deriving DecidableEq, Repr

namespace GraphHeader

def npass (h : GraphHeader) : Nat := field 25 16 h.bits
def nres (h : GraphHeader) : Nat := field 43 32 h.bits
def nedge (h : GraphHeader) : Nat := field 63 48 h.bits
def prio (h : GraphHeader) : Nat := field 11 8 h.bits
def ftag (h : GraphHeader) : Word := BitVec.ofNat 64 (field 127 64 h.bits)
def passBase (h : GraphHeader) : Nat := field 183 128 h.bits
def resBase (h : GraphHeader) : Nat := field 247 192 h.bits
def edgeBase (h : GraphHeader) : Nat := field 311 256 h.bits
def tabBase (h : GraphHeader) : Nat := field 375 320 h.bits
def accAddr (h : GraphHeader) : Nat := field 439 384 h.bits

/-- Bytes of the acceptance record (R49). -/
def accBytes (h : GraphHeader) : Nat := 64 + 8 * h.npass

/-- The rules of R15 that the header breaks. -/
def failed (h : GraphHeader) : List Refused :=
  let b := h.bits
  failures 0 0
    [(0x01, field 7 0 b != 1),
     (0x02, field 511 440 b != 0 || field 383 376 b != 0 || field 319 312 b != 0 || field 255 248 b != 0 || field 191 184 b != 0
        || field 47 44 b != 0 || field 31 26 b != 0 || field 15 12 b != 0),
     (0x03, h.npass == 0 || 512 < h.npass || 1024 < h.nres || 8192 < h.nedge),
     (0x04, h.accAddr % 64 != 0 || h.tabBase % 64 != 0 || h.edgeBase % 32 != 0 || h.resBase % 64 != 0 || h.passBase % 128 != 0)]

end GraphHeader

/-! ## The records as read -/

/-- The arrays of a graph: none where a record's read failed. -/
structure Graph where
  head : GraphHeader
  passes : List (Option Nat)
  ress : List (Option Nat)
  edges : List (Option Nat)
  deriving DecidableEq, Repr

/-- Reads the arrays (R13, R14). -/
def State.readGraph' (s : State) (h : GraphHeader) : Graph :=
  ⟨h, (List.range h.npass).map fun i => s.graphRead (h.passBase + 128 * i) 128,
    (List.range h.nres).map fun j => s.graphRead (h.resBase + 64 * j) 64,
    (List.range h.nedge).map fun k => s.graphRead (h.edgeBase + 32 * k) 32⟩

/-- A pass record's fields (R16). -/
def PassRec.ofBits (n : Nat) : PassRec where
  kind := field 2 0 n
  chk := n.testBit 3
  aff := field 9 8 n
  gx := field 27 16 n + 1
  gy := field 43 32 n + 1
  twl := field 31 28 n
  thl := field 47 44 n
  ngroups := field 55 48 n + 1
  scr := field 60 56 n
  budget := field 95 64 n
  deadline := field 127 96 n
  gbytes := field 175 128 n
  kaddr := BitVec.ofNat 56 (field 247 192 n)
  argbase := BitVec.ofNat 56 (field 311 256 n)
  fedge := field 335 320 n
  nrde := field 343 336 n
  accs := field 347 344 n
  kparam := field 1023 512 n

/-- A resource record's fields beyond the ring's (R19). -/
structure ResRec where
  bits : Nat
  deriving DecidableEq, Repr

namespace ResRec

def stack (r : ResRec) : Nat := field 256 256 r.bits
def ovfn (r : ResRec) : Nat := field 207 192 r.bits
def ovfva (r : ResRec) : Nat := field 183 128 r.bits
def winva (r : ResRec) : Nat := field 119 64 r.bits
def slotp (r : ResRec) : Nat := field 43 32 r.bits
def slots (r : ResRec) : Nat := field 31 24 r.bits
def prod (r : ResRec) : Nat := field 17 8 r.bits
def ovf (r : ResRec) : Bool := r.bits.testBit 3
def exported (r : ResRec) : Bool := r.bits.testBit 2

/-- The rules of R19 that a resource record breaks on its own. -/
def failed (r : ResRec) (npass : Nat) : List (Nat × Bool) :=
  let b := r.bits
  [(0x02, field 511 257 b != 0 || field 255 208 b != 0 || field 191 184 b != 0 || field 127 120 b != 0 || field 63 44 b != 0
      || field 23 18 b != 0 || field 7 4 b != 0 || field 1 0 b != 0),
   (0x03, r.slots == 0 || r.slotp == 0 || 2048 < r.slotp),
   (0x04, r.winva % 65536 != 0 || r.ovfva % 65536 != 0),
   (0x0A, npass ≤ r.prod || (r.ovf != (r.ovfn != 0)) || (!r.ovf && r.ovfva != 0))]

end ResRec

/-- Fields of an edge record (R21). -/
def edgeCons (n : Nat) : Nat := field 9 0 n
def edgeProd (n : Nat) : Nat := field 25 16 n
def edgeRes (n : Nat) : Nat := field 42 32 n
def edgeKind (n : Nat) : Nat := field 49 48 n
def edgeDeckle (n : Nat) : Nat := field 127 64 n

/-- An edge's record as the frame keeps it (R21). -/
def Edge.ofBits (n : Nat) (table : List (List (Nat × Nat))) : Edge :=
  ⟨edgeCons n, edgeProd n, edgeRes n, edgeKind n, edgeDeckle n, table⟩

namespace Graph

/-- A pass record that was read. -/
def pass? (g : Graph) (i : Nat) : Option PassRec := ((g.passes[i]?).bind id).map PassRec.ofBits

/-- A resource record that was read. -/
def res? (g : Graph) (j : Nat) : Option ResRec := ((g.ress[j]?).bind id).map ResRec.mk

/-- An edge record that was read. -/
def edge? (g : Graph) (k : Nat) : Option Nat := (g.edges[k]?).bind id

/-- The rules that edge k breaks (R21, R22, R24). -/
def edgeFailed (g : Graph) (k n : Nat) : List (Nat × Bool) :=
  let w := edgeDeckle n
  let e := Edge.ofBits n []
  let far := fun (x : Int) => x < -4 || 4 < x
  [(0x02, field 255 128 n != 0 || field 63 50 n != 0 || field 47 43 n != 0 || field 31 26 n != 0 || field 15 10 n != 0
      || (match edgeKind n with
          | 0 => field 63 36 w != 0 || field 27 25 w != 0
          | 1 => w != 0
          | 2 => field 63 32 w != 0
          | _ => false)),
   (0x04, edgeKind n == 2 && field 31 0 w % 64 != 0),
   (0x07, edgeCons n ≤ edgeProd n || g.head.npass ≤ edgeCons n || (edgeRes n != 0x7FF && g.head.nres ≤ edgeRes n)
      || (match g.pass? (edgeCons n) with
          | some p => k < p.fedge || p.fedge + p.nrde ≤ k
          | none => false)),
   (0x08, edgeKind n == 3 || (edgeKind n == 0 && (far e.sx || far e.sy || field 24 0 w == 0)))]

/-- The edges that were read, with their index: an edge ties its passes whatever rule it breaks, and whether they were read or not (R24). -/
def between (g : Graph) : List (Nat × Nat) := (List.range g.head.nedge).filterMap fun k => (g.edge? k).map fun n => (k, n)

/-- Whether both passes of an edge were read. -/
def bothRead (g : Graph) (n : Nat) : Bool := (g.pass? (edgeCons n)).isSome && (g.pass? (edgeProd n)).isSome

end Graph

/-! ## Deckle tables (R23) -/

/-- A word of a table: none where it is malformed; else the tile it names, if it is valid. -/
def tableWord (prod : PassRec) (w : Nat) : Option (Option (Nat × Nat)) :=
  let x := field 11 0 w
  let y := field 23 12 w
  if w.testBit 31 then (if field 30 24 w != 0 || prod.gx ≤ x || prod.gy ≤ y then none else some (some (x, y)))
  else if w = 0 then some none else none

/-- The entry of a consumer tile, from its 512 bits. -/
def tableEntry (prod : PassRec) (n : Nat) : Option (List (Nat × Nat)) :=
  ((List.range 16).mapM fun i => tableWord prod (n >>> (32 * i) % 2 ^ 32)).map fun l => l.filterMap id

/-- What reading an edge's table gives: unreadable, malformed, or its entries. -/
inductive TableRead where
  | unread | malformed
  | good (entries : List (List (Nat × Nat)))
  deriving DecidableEq, Repr

/-- Reads the table of an edge, one entry for each consumer tile: a malformed entry has the lower status (R23, R24). -/
def State.readTable (s : State) (h : GraphHeader) (prod cons : PassRec) (deckle : Nat) : TableRead :=
  let base := h.tabBase + field 31 0 deckle
  let es := (List.range cons.tiles).map fun c => s.graphRead (base + 64 * c) 64
  if es.any fun e => e.any fun n => (tableEntry prod n).isNone then .malformed
  else
    match es.mapM (fun e => e.bind (tableEntry prod)) with
    | none => .unread
    | some l => .good l

/-- The tables of the table edges, by edge index. -/
def State.readTables (s : State) (g : Graph) : List (Nat × TableRead) :=
  g.between.filterMap fun kn =>
    match edgeKind kn.2, g.pass? (edgeProd kn.2), g.pass? (edgeCons kn.2) with
    | 2, some p, some c => some (kn.1, s.readTable g.head p c (edgeDeckle kn.2))
    | _, _, _ => none

/-- An edge for the frame: with its table, or an empty one where it was not read well, and none of a kind that does not exist or at a pass
that could not be read, which add nothing to a counter (R24). -/
def frameEdge (tables : List (Nat × TableRead)) (read : Bool) (k n : Nat) : Edge :=
  match read, edgeKind n, tables.find? fun t => t.1 == k with
  | true, 2, some (_, .good l) => Edge.ofBits n l
  | false, _, _ | true, 3, _ => { Edge.ofBits n [] with dkind := 2 }
  | true, _, _ => Edge.ofBits n []

/-! ## What a pass names -/


/-- A kernel uses COPY where it has copy templates (R70, R282, R431). Log 19. -/
def Kernel.copies (k : Kernel) : Bool := k.ctbase != 0

/-- What a pass names, as read at admission (R14). -/
structure Named where
  fails : List Nat
  kernel : Option Kernel
  nodes : List Nat
  nodeKernels : List (Option Kernel)
  deriving DecidableEq, Repr

/-- A pass that names nothing. -/
def Named.nothing : Named := ⟨[], none, [], []⟩

/-- The status of a list of (STATUS, failed). -/
def statuses (l : List (Nat × Bool)) : List Nat := l.filterMap fun x => if x.2 then some x.1 else none

/-- A compute pass's kernel (R71, R431). -/
def State.namedKernel (s : State) (p : PassRec) : Named :=
  match s.graphRead p.kaddr.toNat 64 with
  | none => { Named.nothing with fails := [0x12] }
  | some n =>
    let k := Kernel.ofBits p.kaddr.toNat n
    { Named.nothing with
      fails := statuses [(0x0C, !kernelOk n p.scr false), (0x11, k.copies && s.unitOut 1)], kernel := some k }

/-- A copy pass's template (R290, R431). -/
def State.namedTemplate (s : State) (p : PassRec) : Named :=
  match s.graphRead (field 55 0 p.kparam) 64 with
  | none => { Named.nothing with fails := statuses [(0x11, s.unitOut 1), (0x12, true)] }
  | some n =>
    let t : Template := ⟨n⟩
    { Named.nothing with
      fails := statuses [(0x0D, !(t.reservedZero && t.shapeOk && t.fitOk) || t.ssp != 0 || t.dsp == 1), (0x11, s.unitOut 1)], nodes := [n] }

/-- Whether a node entry keeps the rules of R345 and R346 that it can break alone or with its targets; `known` says which entries
were read. -/
def nodeOk (ns : List Nat) (known : Nat → Bool) (i : Nat) (pix : Nat → Bool) : Bool :=
  let n := ns.getD i 0
  let outs := (List.range 16).filterMap fun q => nodeOut n q
  let only0 := (nodeOut n 0).isSome && outs.length == 1
  let leads := fun (size : Nat) (px : Bool) =>
    only0 && outs.all fun z => !known z || (nodeType (ns.getD z 0) == 0 && nodeSize (ns.getD z 0) == size && (!px || pix z))
  field 399 384 n == 0 && field 367 256 n == 0 && field 127 64 n == 0 && field 47 44 n == 0 && field 37 25 n == 0
    && field 15 12 n == 0 && field 9 3 n == 0
    && (List.range 16).all (fun q => n >>> (128 + 8 * q + 4) % 8 == 0)
    && nodeCap n != 0 && outs.all (fun z => i < z && z < ns.length)
    && (match nodeType n with
        | 0 => nodeScr n ≤ 16 && nodeAccs n ≤ 8 && nodeZbase n == 0
        | 1 => nodeAddr n == 0 && nodeZbase n == 0 && nodeCull n != 3 && nodeSize n == 3 && leads 1 true
        | 2 => nodeAddr n == 0 && nodeZbase n == 0 && nodeSize n == 2 && leads 1 false
        | 3 => nodeAddr n % 8 == 0 && nodeZbase n % 4 == 0 && nodeZmode n != 3 && nodeBlend n != 3 && nodeSize n == 0 && outs.isEmpty
        | _ => false)

/-- Whether a rasteriser feeds a node (R346). -/
def rasterFed (ns : List Nat) (i : Nat) : Bool :=
  (List.range ns.length).any fun j => nodeType (ns.getD j 0) == 1 && (List.range 16).any fun q => nodeOut (ns.getD j 0) q == some i

/-- Whether a node table's header keeps R345. -/
def State.nodeHeadOk (s : State) (ns : List Nat) (known : Nat → Bool) (h : Nat) : Bool :=
  let stat := field 119 64 h
  field 511 120 h == 0 && field 63 8 h == 0 && stat % 64 == 0
    && (stat == 0 || (match s.checkGlobal graphWho .store stat 64 with
                      | .ok (_, attr) => decide (attr ≤ 1)
                      | .error _ => false))
    && h / 16 % 16 < ns.length && (!known (h / 16 % 16) || nodeType (ns.getD (h / 16 % 16) 0) == 0)

/-- A record pass's node table and its kernels: the lowest status counts where one entry cannot be read and another is malformed (R24,
R345, R346, R431). -/
def State.namedNodes (s : State) (p : PassRec) : Named :=
  let base := field 55 0 p.kparam
  match s.graphRead base 64 with
  | none => { Named.nothing with fails := [0x12] }
  | some h =>
    let entries := (List.range (h % 16 + 1)).map fun i => s.graphRead (base + 64 * (i + 1)) 64
    let ns := entries.map fun e => e.getD 0
    let known := fun i => (entries.getD i none).isSome
    let all := (List.range ns.length).all known
    let shader := fun i => known i && nodeType (ns.getD i 0) == 0
    let ks := (List.range ns.length).map fun i => if shader i then s.graphRead (nodeAddr (ns.getD i 0)) 64 else none
    let unread := !all || (List.range ns.length).any fun i => shader i && (ks.getD i none).isNone
    let pix := fun i => !shader i || (ks.getD i none).all fun b => b.testBit 34
    let kernels := (List.range ns.length).map fun i => (ks.getD i none).map (Kernel.ofBits (nodeAddr (ns.getD i 0)))
    let bad := !s.nodeHeadOk ns known h || !((List.range ns.length).all fun i => !known i || nodeOk ns known i pix)
      || !((List.range ns.length).all fun i =>
            (ks.getD i none).all fun b => kernelOk b (nodeScr (ns.getD i 0)) (!all || rasterFed ns i))
    { Named.nothing with
      fails := statuses [(0x0E, bad), (0x12, unread),
        (0x11, (s.unitOut 3 && (List.range ns.length).any fun i => known i && nodeType (ns.getD i 0) == 2)
          || (s.unitOut 1 && kernels.any fun k => k.any Kernel.copies))],
      nodes := h :: ns, nodeKernels := kernels }

/-- Fields of a collective pass (R18). -/
def PassRec.cop (p : PassRec) : Nat := field 3 0 p.kparam
def PassRec.cred (p : PassRec) : Nat := field 7 4 p.kparam
def PassRec.ctype (p : PassRec) : TyCode := Types.ofCode (field 12 8 p.kparam)
def PassRec.cbuf (p : PassRec) : Nat := field 119 64 p.kparam
def PassRec.ccount (p : PassRec) : Nat := field 159 128 p.kparam
def PassRec.cspan (p : PassRec) : Nat := field 162 160 p.kparam

/-- Bytes of an element of a collective. -/
def PassRec.csize (p : PassRec) : Nat := Types.width p.ctype / 8

/-- Whether every page of a collective's buffer translates with W to GDDR 7 or to direct pages (R417). -/
def State.bufferOk (s : State) (va n : Nat) : Bool :=
  n == 0 || (pageStarts va n).all fun a =>
    match s.checkGlobal graphWho .store a 1 with
    | .ok (pa, _) => s.plainRange pa 1
    | .error _ => false

/-- Whether a collective pass keeps R417; the peer's stacks count one at least (log 12). -/
def State.collectiveOk (s : State) (p : PassRec) : Bool :=
  let own := affStacks p.cspan
  p.cop ≤ 3 && p.cred ≤ 2 && ([.i32, .n32, .i64, .n64, .f32, .f64] : List TyCode).contains p.ctype
    && p.cbuf % p.csize == 0 && s.bufferOk p.cbuf (p.tiles * p.ccount * p.csize)
    && own.all (fun b => p.aff.testBit b) && 2 ≤ own.length + (if p.cspan.testBit 2 then 1 else 0)
    && (!p.cspan.testBit 2 || s.dev.linkUp)

/-- NET and STEPS of a training or commit pass (R18). -/
def PassRec.netOf (p : PassRec) : Nat := p.kparam % 4
def PassRec.steps (p : PassRec) : Nat := field 31 16 p.kparam

/-- Whether a frame in flight holds a net's training or commit pass, or a pass bound to the version not committed (R343). -/
def State.netBusy (s : State) (n : Nat) : Bool :=
  s.frames.any fun f => f.passes.any fun p => !p.complete
    && (((p.rcd.kind == 4 || p.rcd.kind == 5) && p.rcd.netOf == n) || (p.bound.any fun l => l.getD n (s.net n).cur != (s.net n).cur))

/-- Whether the descriptor of a net that a pass names cannot be read (R51); a net that is not enabled has none. -/
def State.netUnread (s : State) (n : Nat) : Bool := (s.net n).en && (s.readNetDesc (64 * (s.net n).daddr.toNat)).isNone

/-- What a pass names, read and checked by its kind. -/
def State.named (s : State) (p : PassRec) : Named :=
  match p.kind with
  | 0 => s.namedKernel p
  | 1 => s.namedNodes p
  | 2 => s.namedTemplate p
  | 3 => { Named.nothing with fails := statuses [(0x10, !s.collectiveOk p), (0x11, s.unitOut 1)] }
  | 4 =>
    let n := s.net p.netOf
    { Named.nothing with
      fails := statuses [(0x0E, !n.en || !p.aff.testBit (netStack ⟨n.desc⟩).val), (0x0F, s.netBusy p.netOf), (0x11, s.unitOut 2),
        (0x12, s.netUnread p.netOf)] }
  | 5 => { Named.nothing with fails := statuses [(0x0E, !(s.net p.netOf).en), (0x0F, s.netBusy p.netOf), (0x12, s.netUnread p.netOf)] }
  | _ => Named.nothing

/-! ## The pass records (R16 to R18) -/

/-- KPARAM bits that a kind does not use (R17, R18). -/
def unusedParam (kind k : Nat) : Bool :=
  match kind with
  | 0 => k != 0
  | 1 => k >>> 56 != 0
  | 2 => k >>> 56 != 0
  | 3 => k >>> 163 != 0
  | 4 => k >>> 32 != 0 || field 15 2 k != 0
  | 5 => k >>> 2 != 0
  | _ => false

/-- The rules that a pass record breaks on its own (R16, R17, R24). The edge range of a pass without edges runs past nothing, wherever it
begins (DEDUCED, log 94). -/
def Graph.passFailed (g : Graph) (i n : Nat) : List (Nat × Bool) :=
  let p := PassRec.ofBits n
  let k := p.kparam
  let one := p.gx == 1 && p.gy == 1
  [(0x02, field 511 348 n != 0 || field 319 312 n != 0 || field 255 248 n != 0 || field 191 176 n != 0 || field 63 61 n != 0
      || field 15 10 n != 0 || field 7 4 n != 0 || (p.kind == 3 && (field 63 13 k != 0 || field 127 120 k != 0))),
   (0x03, 64 < p.nrde || 16 < p.scr || 8 < p.accs || (p.kind == 4 && p.steps == 0)),
   (0x04, p.kaddr.toNat % 64 != 0 || (p.kind == 2 && field 55 0 k % 64 != 0)),
   (0x05, p.twl < 3 || 8 < p.twl || p.thl < 3 || 8 < p.thl || ((p.kind == 4 || p.kind == 5) && !one)),
   (0x06, 6 ≤ p.kind || p.aff == 0 || (p.kind != 0 && (p.ngroups != 1 || p.scr != 0 || p.accs != 0 || p.kaddr != 0))
      || unusedParam p.kind k),
   (0x07, (List.range p.nrde).any fun j =>
      g.head.nedge ≤ p.fedge + j || (g.edge? (p.fedge + j)).any fun e => edgeCons e != i),
   (0x0B, p.budget == 0)]

/-- The frame as far as footprints need it: the records of its passes, and the edges between them. -/
def Graph.skeleton (g : Graph) (tables : List (Nat × TableRead)) (named : List Named) (h : GraphHeader) : Frame where
  slot := 0
  serial := 0
  ftag := h.ftag
  prio := h.prio
  tsub := 0
  tacc := 0
  passes := (List.range g.head.npass).map fun i =>
    let x := named.getD i .nothing
    { rcd := (g.pass? i).getD (PassRec.ofBits 0), kernel := x.kernel, nodes := x.nodes, nodeKernels := x.nodeKernels,
      promised := false, lft := 2 ^ 64 - 1, lapsed := false, lapsedOwn := false, tiles := [], edgeCounters := [], bound := none,
      complete := false, retired := 0, ovrns := 0, ovrt := 0, errs := 0, sats := 0, nkill := 0, stepsLeft := 0, paired := false }
  edges := g.between.map fun kn => frameEdge tables (g.bothRead kn.2) kn.1 kn.2

/-- Whether pass `a` is an ancestor of pass `b` (R343). -/
def Frame.leadsTo (f : Frame) (a b : Nat) : Bool := (f.descendants a).contains b

/-- The rules of R343 that concern the frame's passes together, and the counters of R26; `whole` says that every edge record was read, for one
that was not could tie any passes, so that none is said to be untied (DEDUCED, log 94). -/
def Frame.passesFailed (f : Frame) (whole : Bool) (i : Nat) : List (Nat × Bool) :=
  let p := f.rcd i
  let commits := (List.range f.passes.length).filter fun j => (f.rcd j).kind == 5 && (f.rcd j).netOf == p.netOf
  [(0x09, f.counted i && (List.range p.tiles).any fun c => 65535 < f.count i c),
   (0x0E, (p.kind == 5 && commits.any fun j => j < i)
      || (whole && p.kind == 4 && (commits.head?.any fun j => !f.leadsTo i j)))]

/-! ## Resources (R19, R32, R51) -/

/-- The physical pages of an overflow region, or none where a page does not translate with W into GDDR 7 (R51). -/
def State.overflowPages (s : State) (r : ResRec) : Option (List Nat) :=
  (List.range (r.ovfn * r.slotp)).mapM fun k =>
    match s.checkGlobal graphWho .store (r.ovfva + 65536 * k) 1 with
    | .ok (pa, _) => (match regionOf pa with
                      | .gddr => some (pa - pa % 65536)
                      | _ => none)
    | .error _ => none

/-- The window of a transient: its base and its end (R20). -/
def Graph.window (g : Graph) (r : ResRec) : Option (Nat × Nat) :=
  (g.pass? r.prod).map fun p => (r.winva, r.winva + p.gx * p.gy * r.slotp * 65536)

/-- The rules that resource j breaks with other records (R32). -/
def Graph.resFailed (g : Graph) (j : Nat) (r : ResRec) : Bool :=
  ((List.range g.head.nedge).any fun k => (g.edge? k).any fun e => edgeRes e == j && edgeProd e != r.prod)
    || (((List.range j).filter fun i => (g.res? i).any fun x => x.prod == r.prod).length == 8)
    || (g.window r).any fun w => (List.range j).any fun i =>
        ((g.res? i).bind fun x => g.window x).any fun y => w.1 < y.2 && y.1 < w.2

/-! ## The whole of check 2 -/

/-- Everything admission has read of a graph. -/
structure Described where
  graph : Graph
  tables : List (Nat × TableRead)
  named : List Named
  frame : Frame
  overflow : List (Option (List Nat))
  deriving DecidableEq, Repr

/-- Reads what the header, the records and the passes name (R14, R51). -/
def State.describe (s : State) (h : GraphHeader) : Described :=
  let g := s.readGraph' h
  let tables := s.readTables g
  let named := (List.range h.npass).map fun i => match g.pass? i with
    | some p => s.named p
    | none => .nothing
  ⟨g, tables, named, g.skeleton tables named h, (List.range h.nres).map fun j => (g.res? j).bind fun r => s.overflowPages r⟩

/-- The failures of the passes, in FKIND 1. -/
def Described.passFails (d : Described) : List Refused :=
  (List.range d.graph.head.npass).flatMap fun i =>
    match (d.graph.passes[i]?).bind id with
    | none => [(1, i, 0x12)]
    | some n =>
      failures 1 i (d.graph.passFailed i n ++ d.frame.passesFailed (d.graph.edges.all Option.isSome) i)
        ++ (d.named.getD i .nothing).fails.map fun x => (1, i, x)

/-- The failures of the resources, in FKIND 2. -/
def Described.resFails (d : Described) : List Refused :=
  (List.range d.graph.head.nres).flatMap fun j =>
    match d.graph.res? j with
    | none => [(2, j, 0x12)]
    | some r =>
      failures 2 j (r.failed d.graph.head.npass
        ++ [(0x0A, d.graph.resFailed j r), (0x12, r.ovf && (d.overflow.getD j none).isNone)])

/-- The failures of the edges and of their tables, in FKIND 3 and 4. -/
def Described.edgeFails (d : Described) : List Refused :=
  ((List.range d.graph.head.nedge).flatMap fun k =>
    match d.graph.edge? k with
    | none => [(3, k, 0x12)]
    | some n => failures 3 k (d.graph.edgeFailed k n))
  ++ d.tables.filterMap fun t =>
    match t.2 with
    | .unread => some (4, t.1, 0x12)
    | .malformed => some (4, t.1, 0x08)
    | .good _ => none

/-- A TABBASE that is not zero where no edge uses a table (R15). DEDUCED: R24 lists no code for it but 0x06, a field that is non-zero
where it must be zero (log 86). -/
def Described.headFails (d : Described) : List Refused :=
  failures 0 0 [(0x06, d.graph.head.tabBase != 0 && d.graph.edges.all fun e => e.any fun n => edgeKind n != 2)]

/-- The refusal of check 2: the first failing record, and the lowest status it breaks (R24). -/
def Described.refusal (d : Described) : Option Refused :=
  leastBy (fun x => [x.1, x.2.1, x.2.2]) (d.headFails ++ d.passFails ++ d.resFails ++ d.edgeFails)

/-- The ranges of memory that the graph unit reads through translation as it describes a graph, and of which it keeps pages (R14, R51). -/
def Described.reads (d : Described) : List (Nat × Nat) :=
  let g := d.graph
  let h := g.head
  let named := (List.range h.npass).flatMap fun i =>
    match g.pass? i with
    | some p => (match p.kind with
      | 0 => [(p.kaddr.toNat, 64)]
      | 1 => (field 55 0 p.kparam, 64 * (d.named.getD i .nothing).nodes.length)
          :: ((d.named.getD i .nothing).nodes.tail.filter fun n => nodeType n == 0).map fun n => (nodeAddr n, 64)
      | 2 => [(field 55 0 p.kparam, 64)]
      | 3 => [(p.cbuf, p.tiles * p.ccount * p.csize)]
      | _ => [])
    | none => []
  let spill := (List.range h.nres).filterMap fun j => (g.res? j).map fun r => (r.ovfva, 65536 * r.ovfn * r.slotp)
  let tables := g.between.filterMap fun kn =>
    if edgeKind kn.2 = 2 then (g.pass? (edgeCons kn.2)).map fun c => (h.tabBase + field 31 0 (edgeDeckle kn.2), 64 * c.tiles) else none
  ([(h.passBase, 128 * h.npass), (h.resBase, 64 * h.nres), (h.edgeBase, 32 * h.nedge)] ++ named ++ spill ++ tables).filter fun r => r.2 != 0

/-- A read of the graph unit wakes the banks that hold its bytes of a page (R263). -/
def State.touchRead (s : State) (va n : Nat) : State :=
  if s.vat0.gatedBanks = [] && s.vat1.gatedBanks = [] then s
  else match s.check ⟨none, none⟩ .load va 1 with
    | .ok (pa, _) => s.touchBanks pa n
    | .error _ => s

/-- Reads of some ranges: their translations are used, and banks wake (R242, R244, R263). -/
def State.noteRanges (s : State) (rs : List (Nat × Nat)) : State :=
  rs.foldl (fun t r => (pageStarts r.1 r.2).foldl (fun u va =>
    let lo := max va r.1
    (u.noteWalk ⟨none, none⟩ va).touchRead lo (min (va + 65536) (r.1 + r.2) - lo)) t) s

end Sys2Proof.Machine
end

