-- ==== Sys2Proof/Machine/Admission.lean ====
section
/-! DEFINITION. Admission: the checks, the allocation of promised time, the acceptance record, the frame in flight (R26, R30, R37,
R47 to R57, R251). -/

namespace Sys2Proof.Machine

open Sys2Proof.Bits

/-! ## What frames in flight hold (R37, R54) -/

/-- Tile counters that a frame holds on a stack (R54). -/
def Frame.counters (f : Frame) (st : Nat) : Nat :=
  (List.range f.passes.length).foldl (fun n i =>
    if f.counted i then n + ((List.range (f.rcd i).tiles).filter fun c => (f.rcd i).stackOf c == st).length else n) 0

/-- The stacks that hold consumer tile counters of a pass (R54). -/
def PassRec.holders (p : PassRec) : List Nat := [0, 1].filter fun st => (List.range (min 2 p.tiles)).any fun c => p.stackOf c == st

/-- Edge counters that a frame holds on a stack (R26, R54). -/
def Frame.wholeEdges (f : Frame) (st : Nat) : Nat :=
  (f.edges.filter fun e => e.dkind == 1 && (f.rcd e.cons).holders.contains st).length

/-- Last-reader entries that a ring holds (R37, R54). -/
def State.entriesHeld (s : State) (r : Ring) : Nat :=
  if s.frames.any fun f => f.serial == r.frame then r.slots + r.ovfn else r.held.length

/-- Last-reader entries held on a stack. -/
def State.readerEntries (s : State) (st : Nat) : Nat :=
  (s.rings.filter fun r => r.stack == st).foldl (fun n r => n + s.entriesHeld r) 0

/-! ## Checks 3 to 6 (R52, R53, R251) -/

/-- depth(T) of R53. -/
def Frame.depth (f : Frame) (res prod : Nat) (exported : Bool) : Nat :=
  let n := (f.rcd prod).tiles
  if exported then n
  else
    let fps := (f.edges.filter fun e => e.res == res).flatMap fun e => (List.range (f.rcd e.cons).tiles).map fun c => f.footprint e c
    (List.range n).foldl (fun d p =>
      let reach := fps.foldl (fun m fp => if fp.contains p then fp.foldl max m else m) p
      max d (reach - p + 1)) 1

/-- The transients of a graph, with their index. -/
def Graph.resources (g : Graph) : List (Nat × ResRec) :=
  (List.range g.head.nres).filterMap fun j => (g.res? j).map fun r => (j, r)

/-- Check 3. -/
def Described.check3 (d : Described) : Option Refused :=
  (d.graph.resources.find? fun jr => jr.2.slots + jr.2.ovfn < d.frame.depth jr.1 jr.2.prod jr.2.exported).map fun jr => (2, jr.1, 0x22)

/-- The first transient with which the sum of a cost on its stack passes a limit. -/
def firstOver (cost : ResRec → Nat) (limit : Nat → Nat) : Nat → Nat → List (Nat × ResRec) → Option Nat
  | _, _, [] => none
  | n0, n1, (j, r) :: rest =>
    let n0' := if r.stack = 0 then n0 + cost r else n0
    let n1' := if r.stack = 1 then n1 + cost r else n1
    if limit r.stack < (if r.stack = 0 then n0' else n1') then some j else firstOver cost limit n0' n1' rest

/-- Pages that rings may hold on a stack: min(TP, 4,096 - DP) (R251). -/
def State.ringLimit (s : State) (st : Nat) : Nat :=
  if st = 0 then min s.gu.tp0 (4096 - s.vat0.dp) else min s.gu.tp1 (4096 - s.vat1.dp)

/-- Check 4. -/
def Described.check4 (d : Described) (s : State) : Option Refused :=
  (firstOver (fun r => r.slots * r.slotp) s.ringLimit (s.ringPages 0) (s.ringPages 1) d.graph.resources).map fun j => (2, j, 0x21)

/-- Check 5. -/
def Described.check5 (d : Described) (s : State) : Option Refused :=
  let past := fun (st : Nat) =>
    decide (262144 < s.frames.foldl (fun n f => n + f.counters st) (d.frame.counters st))
      || decide (1024 < s.frames.foldl (fun n f => n + f.wholeEdges st) (d.frame.wholeEdges st))
  if past 0 || past 1 then some (15, 0, 0x23) else none

/-- Check 6. -/
def Described.check6 (d : Described) (s : State) : Option Refused :=
  (firstOver (fun r => r.slots + r.ovfn) (fun _ => 65536) (s.readerEntries 0) (s.readerEntries 1) d.graph.resources).map
    fun j => (2, j, 0x24)

/-! ## Check 7: the allocation of promised time (R55, R56) -/

/-- CAP of R56, in ns. A core that drains for a spare (R436) still counts as in service, and its spare takes its place at once: 96 always
(log 82). -/
def State.capacity (s : State) : Nat := Config.coresPerStack * 50000 * s.gu.rsvc / 256

/-- BCAP of R56, in bytes. -/
def State.byteCapacity (s : State) : Nat := 57500000 * s.gu.rsvb / 256

/-- What the reservations of a list take on a stack in a quantum: core ns and bytes. -/
def taken (l : List Reservation) (st q : Nat) : Nat × Int :=
  (l.filter fun r => r.stack == st && r.quantum == q).foldl (fun a r => (a.1 + r.ns, a.2 + r.bytes)) (0, 0)

/-- ceil(a / b) of an integer. -/
def ceilInt (a : Int) (b : Nat) : Int := -((-a) / (b : Int))

/-- The least element of a list of integers. -/
def leastInt : List Int → Int
  | [] => 0
  | [a] => a
  | a :: as => min a (leastInt as)

/-- What a pass asks of the allocation: its stacks, core ns W, bytes B, and span in quanta. -/
structure Ask where
  frame : Nat
  pass : Nat
  sts : List Nat
  w : Nat
  b : Nat
  span : Nat
  deriving DecidableEq, Repr

/-- The pass's ask (R56). -/
def PassRec.ask (p : PassRec) (serial i : Nat) : Ask :=
  if p.kind ≤ 1 then ⟨serial, i, affStacks p.aff, p.tiles * p.budget, p.gbytes, ceilDiv p.budget (p.ngroups * 50000)⟩
  else ⟨serial, i, affStacks p.aff, 0, p.gbytes, ceilDiv (p.tiles * p.budget) 50000⟩

/-- The shares of one quantum: core ns and bytes (R56). -/
def Ask.share (a : Ask) (freeC freeB : Int) (wrem : Nat) (brem : Int) : Nat × Int :=
  let k : Int := a.sts.length
  if 0 < a.w then
    let w := min (min (wrem : Int) (ceilDiv a.w a.span)) (k * freeC)
    let b := if (wrem : Int) = w then brem else ceilInt (w * a.b) a.w
    if k * freeB < b then (((k * freeB * a.w) / (a.b : Int)).toNat, k * freeB) else (w.toNat, b)
  else (0, min brem (k * freeB))

/-- The loop of R56 for one pass: its reservations and last quantum, or none where no quantum below q0 + 65,536 ends it. Fuel counts the quanta left. -/
def State.allocate (s : State) (made : List Reservation) (a : Ask) (first : Nat) :
    Nat → Nat → Nat → Int → List Reservation → Option (List Reservation × Nat)
  | 0, _, _, _, _ => none
  | n + 1, q, wrem, brem, acc =>
    let free := fun (st : Nat) =>
      let t := taken made st q
      (max 0 ((s.capacity : Int) - t.1), max 0 ((s.byteCapacity : Int) - t.2))
    let x := a.share (leastInt (a.sts.map fun st => (free st).1)) (leastInt (a.sts.map fun st => (free st).2)) wrem brem
    let k := a.sts.length
    let acc1 := if x.1 = 0 && x.2 = 0 then acc
      else acc ++ a.sts.map fun st => ⟨a.frame, a.pass, st, q, ceilDiv x.1 k, ceilInt x.2 k, 0⟩
    let wrem1 := wrem - x.1
    let brem1 := brem - x.2
    if wrem1 = 0 && brem1 = 0 && first + a.span ≤ q + 1 then some (acc1, q)
    else s.allocate made a first n (q + 1) wrem1 brem1 acc1

/-- Whether a pass of a frame is promised (R55). -/
def Frame.promised (f : Frame) (i : Nat) : Bool :=
  (f.rcd i).deadline != 0 || (f.descendants i).any fun j => (f.rcd j).deadline != 0

/-- The allocation of the passes from i on: all reservations, and the last quantum of each promised pass; or the pass that fails (R56).
Fuel counts passes. -/
def State.allocateAll (s : State) (f : Frame) (tsub q0 : Nat) :
    Nat → Nat → List Reservation → List (Nat × Nat) → Except Nat (List Reservation × List (Nat × Nat))
  | 0, _, made, last => .ok (made, last)
  | n + 1, i, made, last =>
    if !f.promised i then s.allocateAll f tsub q0 n (i + 1) made last
    else
      let a := (f.rcd i).ask f.serial i
      let q := (f.edges.filter fun e => e.cons == i).foldl (fun m e =>
        max m (((last.find? fun x => x.1 == e.prod).map fun x => x.2 + 1).getD 0)) q0
      match s.allocate made a q (max 1 (q0 + 65536 - q)) q a.w a.b [] with
      | none => .error i
      | some (rs, l) =>
        let d := (f.rcd i).deadline
        if d != 0 && tsub + d < (l + 1) * 50000 then .error i
        else s.allocateAll f tsub q0 n (i + 1) (made ++ rs) (last ++ [(i, l)])

/-! ## The frame and its rings (R26, R30, R50, R54) -/

/-- The lowest vat pages of a stack free for ring slots (R250). Log 17. -/
def State.freePages (s : State) (st : Nat) (more : List Ring) : List Nat :=
  let dp := if st = 0 then s.vat0.dp else s.vat1.dp
  let used := ((s.rings.filter fun r => r.stack == st).flatMap s.pagesHeld) ++ ((more.filter fun r => r.stack == st).flatMap fun r => r.pages)
  (List.range 4096).filter fun p => dp ≤ p && !used.contains p

/-- The rings of a frame (R30). -/
def Described.rings (d : Described) (s : State) (serial : Nat) : List Ring :=
  d.graph.resources.foldl (fun rs jr =>
    let r := jr.2
    let p := d.frame.rcd r.prod
    rs ++ [{ frame := serial, res := jr.1, prod := r.prod, gx := p.gx, gy := p.gy, stack := r.stack, slots := r.slots, slotp := r.slotp,
             ovfn := r.ovfn, exported := r.exported, winva := BitVec.ofNat 56 r.winva,
             pages := (s.freePages r.stack rs).take (r.slots * r.slotp), ovfpages := (d.overflow.getD jr.1 none).getD [], held := [] }]) []

/-- A tile at acceptance, with its counter (R26, R27). -/
def Tile.fresh (counter : Nat) : Tile where
  state := if counter = 0 then .released else .waiting
  counter := counter
  placed := 0
  meter := 0
  began := none
  overrun := false
  satf := 0
  errsum := 0
  killed := 0
  retiredAsKilled := false
  engineDone := false

/-- The edge counters of a pass at acceptance: edge, stack, producer tiles (R26). -/
def Frame.edgeCounters (f : Frame) (i : Nat) : List (Nat × Nat × Nat) :=
  ((List.range f.edges.length).zip f.edges).flatMap fun ke =>
    if ke.2.cons = i && ke.2.dkind = 1 then (f.rcd i).holders.map fun st => (ke.1, st, (f.rcd ke.2.prod).tiles) else []

/-- A pass at acceptance (R26, R49, R55). -/
def Frame.accept (f : Frame) (i : Nat) (last : List (Nat × Nat)) (p : Pass) : Pass :=
  { p with
    promised := f.promised i,
    lft := if f.promised i then (((last.find? fun x => x.1 == i).map fun x => x.2).getD 0 + 1) * 50000 else 2 ^ 64 - 1,
    tiles := (List.range p.rcd.tiles).map fun c => Tile.fresh (f.count i c),
    edgeCounters := f.edgeCounters i,
    stepsLeft := if p.rcd.kind = 4 then p.rcd.steps else 0 }

/-! ## The acceptance record (R49, R50) -/

/-- The 64-byte head. -/
def accHead (tacc tsub : Nat) (ftag : Word) (findex fkind fslot status : Nat) : Nat :=
  tacc * 2 ^ 320 + tsub * 2 ^ 256 + ftag.toNat * 2 ^ 192 + findex * 2 ^ 64 + fkind * 2 ^ 48 + fslot * 2 ^ 40 + status * 2 ^ 16 + 1

/-- A store of the graph unit, byte by byte, to pages that it has translated (R51). -/
def State.graphStore (s : State) (pages : List (Nat × Nat)) (va : Nat) : List Byte → State
  | [] => s
  | b :: bs =>
    let s1 := match pages.find? fun p => p.1 == va / 65536 with
      | some (_, pa) => s.writePhys none (pa + va % 65536) [b]
      | none => s
    s1.graphStore pages (va + 1) bs

/-- Writes a record, its byte 0 last (R50). -/
def State.accRecord (s : State) (pages : List (Nat × Nat)) (va : Nat) (bytes : List Byte) : State :=
  (s.graphStore pages (va + 1) (bytes.drop 1)).graphStore pages va (bytes.take 1)

/-- A refusal: the head only (R49). -/
def State.refuseFrame (s : State) (pages : List (Nat × Nat)) (h : GraphHeader) (tsub : Nat) (r : Refused) : State :=
  s.accRecord pages h.accAddr (toBytes 64 (accHead s.nstime tsub h.ftag r.2.1 r.1 0 r.2.2))

/-- The frame slot that an accepted frame takes (R50). -/
def State.freeSlot (s : State) : Nat := (lowestFree 8 (s.frames.map fun f => f.slot)).getD 0

/-- An accepted frame: in flight, with its rings and reservations, and its record written; the cores drop their RO lines and their
instruction caches (R26, R49, R56, R92, R247). -/
def State.acceptFrame (s : State) (pages : List (Nat × Nat)) (d : Described) (tsub : Nat) (made : List Reservation)
    (last : List (Nat × Nat)) : State :=
  let h := d.graph.head
  let slot := s.freeSlot
  let f0 := { d.frame with slot := slot, serial := s.frameCount, tsub := tsub, tacc := s.nstime }
  let passes := ((List.range f0.passes.length).zip f0.passes).map fun ip => f0.accept ip.1 last ip.2
  let s1 := { s with
    frames := s.frames ++ [{ f0 with passes := passes }], frameCount := s.frameCount + 1,
    gu := { s.gu with cycle := max s.gu.cycle (s.time / 625) },
    rings := s.rings ++ d.rings s s.frameCount, reserved := s.reserved ++ made,
    caches := ({ s.caches with icache := [] } : Caches).drop fun x => x.attr == 2 }
  s1.accRecord pages h.accAddr (toBytes 64 (accHead s.nstime tsub h.ftag 0 15 slot 0) ++ passes.flatMap fun p => toBytes 8 p.lft)

/-! ## Submission (R14, R46, R47, R51) -/

/-- What the graph unit translates and reads of a submission, in order: the header; the acceptance record's pages; and, of a header that keeps
its rules, the rest (R51). -/
def State.submissionReads (s : State) (va : Nat) : List (Nat × Nat) :=
  (va, 64) :: match s.graphRead va 64 with
    | none => []
    | some n =>
      let h : GraphHeader := ⟨n⟩
      (h.accAddr, h.accBytes) :: if (s.pagesWritable h.accAddr h.accBytes).isSome && h.failed.isEmpty then (s.describe h).reads else []

/-- A submission as the graph unit reads it at the write: nothing stored later changes the frame (R14). -/
def State.submission (s : State) (va : Nat) : Submission where
  tsub := s.nstime
  va := va
  mem := s.mem
  memErr := s.memErr
  xl := s.xl
  rings := s.rings
  tlb := s.caches.tlb
  id := s.idCount
  record := ((s.graphRead va 64).elim (0, 0) fun n => ((⟨n⟩ : GraphHeader).accAddr, (⟨n⟩ : GraphHeader).accBytes))

/-- A submission is queued: its reads are made, which leave their translations behind (R14, R47, R242, R244). -/
def State.submit (s : State) (va : Nat) : State :=
  let s1 := s.noteRanges (s.submissionReads va)
  { s1 with gu := { s1.gu with queue := s1.gu.queue ++ [s.submission va] }, idCount := s1.idCount + 1 }

/-- GSUBMIT_WRITE (R14, R46, R47); with the graph unit out of service it is ignored (R431). -/
def execGsubmitWrite (m : Master) (val : Word) (s : State) : Out :=
  ownerWrite m s fun s =>
    let n := val.toNat
    if field 63 56 n != 0 || field 5 0 n != 0 || s.unitOut 0 then .next { s with gu := { s.gu with sbad := true } }
    else if 4 ≤ s.gu.queue.length then .next { s with gu := { s.gu with sqovf := true } }
    else .next (s.submit n)

/-- The device with memory, translation and windows as they stood at a submission: what the graph unit reads of its frame (R14). The pages of
the acceptance record and of the overflow regions are translated so too; R51 does not say whether as at the GSUBMIT write or as at the decision
(DESIGN CHOICE, log 114). -/
def Submission.view (q : Submission) (s : State) : State :=
  { s with mem := q.mem, memErr := q.memErr, xl := q.xl, rings := q.rings, caches := { s.caches with tlb := q.tlb } }

/-- The decision on a submission whose header was read and whose record's pages translate (R52); `v` is what the graph unit reads, and
`pages` are those of the record, which it has translated before it decides (R51). -/
def State.judge (s v : State) (pages : List (Nat × Nat)) (h : GraphHeader) (tsub : Nat) : State :=
  if 8 ≤ s.frames.length then s.refuseFrame pages h tsub (15, 0, 0x20)
  else
    match h.failed with
    | r :: _ => s.refuseFrame pages h tsub r
    | [] =>
      let d := v.describe h
      match d.refusal.or (d.check3.or ((d.check4 s).or ((d.check5 s).or (d.check6 s)))) with
      | some r => s.refuseFrame pages h tsub r
      | none =>
        match s.allocateAll { d.frame with serial := s.frameCount } tsub (s.nstime / 50000 + 1) h.npass 0 s.reserved [] with
        | .error i => s.refuseFrame pages h tsub (1, i, 0x25)
        | .ok (made, last) => s.acceptFrame pages d tsub (made.drop s.reserved.length) last

/-- ADMISSION: the oldest queued submission is decided, on what its graph held at the GSUBMIT write (R14, R47, R51, R52). -/
def execAdmission (s : State) : Out :=
  match s.gu.queue with
  | [] => .fault .absent
  | q :: rest =>
    if s.loads 0 0 || s.loads 0 64 then .fault .absent
    else
      let v := q.view s
      let s1 : State := { s with gu := { s.gu with queue := rest } }
      match v.graphRead q.va 64 with
      | none => .next { s1 with gu := { s1.gu with aflt := true } }
      | some n =>
        let h : GraphHeader := ⟨n⟩
        match v.pagesWritable h.accAddr h.accBytes with
        | some pages => .next (s1.judge v pages h q.tsub)
        | none => .next { s1 with gu := { s1.gu with aflt := true } }

/-- GXREL_WRITE (R37, R46). -/
def execGxrelWrite (m : Master) (val : Word) (s : State) : Out :=
  ownerWrite m s fun s => .next (s.releaseExport (field 55 16 val.toNat))

end Sys2Proof.Machine
end

