-- ==== Sys2Proof/Machine/Matrix.lean ====
section
/-! DEFINITION. The vertical port and the matrix engine: the baton, operands, the eight matrix words, macro-operations, bus payloads and retraining (R297 to R330, R408). -/

namespace Sys2Proof.Machine

open Sys2Proof.Bits
open Sys2Proof.Types (width regWidth isInt isF isX isX4)
open Sys2Proof.Num (Exact)

/-! ## The baton (R305 to R309) -/

/-- The baton trap (R306, R385). -/
def batonTrap (s : State) (c : Ctx) (detail : Nat) : Out := s.trap c (Trap.inGang 0x09 detail (c.h.enabled c.f))

/-- BATON.TAKE (R306). -/
def execBatonTake (s : State) : Out :=
  deferred s fun c =>
    let k := s.core c.g.core
    let me := (c.g.gid, c.h.id)
    match k.baton with
    | none => .next ((s.put c.g c.h (c.f.advance 1)).setCore c.g.core { k with baton := some me })
    | some b =>
      if b = me then .next (s.put c.g c.h (c.f.advance 1))
      else
        let q := if k.batonQ.contains me then k.batonQ else k.batonQ ++ [me]
        .next ((s.put c.g c.h (c.f.block .baton s.time)).setCore c.g.core { k with batonQ := q })

/-- BATON.PASS sN (R306). Rows of the table overlap for a gang that does not hold the baton and names itself, or a gang that is absent or has
exited: it traps with detail 0x01 (DESIGN CHOICE, log 120). -/
def execBatonPass (b : SReg) (s : State) : Out :=
  deferred s fun c =>
    let k := s.core c.g.core
    let target := (c.h.readS b.val).toNat % 32
    let c1 := { c with g := c.g.orErr (c.h.sourceErr [b]) }
    if k.baton != some (c.g.gid, c.h.id) then batonTrap s c1 1
    else if target = c.h.id then .next (s.put c1.g c.h (c.f.advance 1))
    else
      match c.g.gang? target with
      | none => batonTrap s c1 2
      | some h =>
        if h.exited then batonTrap s c1 2
        else
          let heir := (c.g.gid, target)
          let s1 := (s.put c1.g c.h (c.f.advance 1)).setCore c.g.core
            { k with batonQ := heir :: k.batonQ.filter (fun q => q != heir) }
          .next (s1.passAny c.g.core)

/-- BATON.PASS.ANY (R306). -/
def execBatonPassAny (s : State) : Out :=
  deferred s fun c =>
    if (s.core c.g.core).baton != some (c.g.gid, c.h.id) then batonTrap s c 1
    else .next ((s.put c.g c.h (c.f.advance 1)).passAny c.g.core)

/-! ## Shapes and operands (R310 to R318) -/

/-- Rows M = 16·MB, columns N = 16·NB, K-steps, and the row-block origin (R310). -/
def matRows (ln : Lane) : Nat := 16 * (ln.x24.toNat % 8 + 1)
def matCols (ln : Lane) : Nat := 16 * (ln.x24.toNat / 8 % 4 + 1)
def matSteps (op : LOp) (ln : Lane) : Nat := if op = .mma then 1 else ln.x24.toNat / 32 % 16 + 1
def rowOrigin (ln : Lane) : Nat := 16 * (ln.x24.toNat / 8 % 8)

/-- K elements covered by a K-step (R318). -/
def kElems (ta tb : TyCode) : Nat := if isX4 ta && isX4 tb then 128 else if width ta = 16 then 32 else 64

/-- Bits an element takes where an operand is stored: six-bit elements take a byte in registers (R301, R314). -/
def storedWidth (inRegs : Bool) (t : TyCode) : Nat := if inRegs then regWidth t else width t

/-- The place of a stored operand: how many rows, the bytes of a row, the scale bytes in all, and the width of an element (R314 to R318). -/
structure Layout where
  rows : Nat
  rowBytes : Nat
  scales : Nat
  w : Nat
  tr : Bool
  deriving DecidableEq, Repr

/-- The layout of a K-step of an operand of `n` rows or columns (R317, R318). -/
def stepLayout (inRegs tr : Bool) (t : TyCode) (n ke : Nat) : Layout :=
  let w := storedWidth inRegs t
  if tr then ⟨ke, n * w / 8, 0, w, true⟩ else ⟨n, ke * w / 8, if isX t then n * (ke / 32) else 0, w, false⟩

/-- The layout of the region of MLDA and MSTA: `n` tile rows of 64 elements (R317). -/
def tileLayout (inRegs tr : Bool) (t : TyCode) (n : Nat) : Layout :=
  let w := storedWidth inRegs t
  if tr then ⟨64, n * w / 8, 0, w, true⟩ else ⟨n, 64 * w / 8, if isX t then 2 * n else 0, w, false⟩

/-- Bytes of a layout (R314). -/
def Layout.bytes (l : Layout) : Nat := l.rows * l.rowBytes + l.scales

/-- A matrix descriptor (R315). -/
structure Descriptor where
  bits : Nat
  deriving DecidableEq, Repr

def Descriptor.tr (d : Descriptor) : Bool := d.bits.testBit 60
def Descriptor.base (d : Descriptor) : Nat := field 19 0 d.bits
def Descriptor.rpitch (d : Descriptor) : Nat := field 35 20 d.bits
def Descriptor.tpitch (d : Descriptor) : Nat := field 55 36 d.bits

/-- The rotated offset of byte q of stored row x in K-step ks (R316). -/
def Descriptor.offset (d : Descriptor) (ks x q : Nat) : Nat :=
  let off := d.base + ks * d.tpitch + x * d.rpitch + q
  let m := match field 59 58 d.bits with | 0 => 0 | 1 => 1 | 2 => 3 | _ => 7
  off ^^^ (((x >>> field 57 56 d.bits) &&& m) <<< 6)

/-- The offset of scale byte t (R316). -/
def Descriptor.scaleOffset (d : Descriptor) (l : Layout) (ks t : Nat) : Nat := d.base + ks * d.tpitch + l.rows * d.rpitch + t

/-- Types that may be stored transposed (R317). -/
def trOk (tile : Bool) (t : TyCode) : Bool :=
  match t with
  | .f16 | .bf16 | .i8 | .n8 | .e4m3 | .e5m2 => true
  | .f32 | .i32 => tile
  | _ => false

/-- The detail of the matrix-operand trap of a descriptor, if it has an error; of several the lowest (R322, log 104). `tile` marks MLDA and
MSTA. -/
def Descriptor.error (d : Descriptor) (tile : Bool) (t : TyCode) (l : Layout) (ks window : Nat) : Option Nat :=
  if field 63 61 d.bits != 0 then some 1
  else if d.base % 8 != 0 || d.rpitch % 8 != 0 || d.tpitch % 8 != 0 then some 2
  else if (d.tr && !trOk tile t) || (tile && d.tpitch != 0) then some 3
  else if (List.range ks).all (fun k =>
      (List.range l.rows).all (fun x => (List.range (l.rowBytes / 8)).all (fun q => d.offset k x (8 * q) + 8 ≤ window))
        && (l.scales == 0 || d.scaleOffset l k (l.scales - 1) < window)) then none
  else some 4

/-- The CSR descriptor's fields (R321). -/
structure Csr where
  bits : Nat
  deriving DecidableEq, Repr

def Csr.voff (d : Csr) : Nat := field 59 40 d.bits
def Csr.coff (d : Csr) : Nat := field 39 20 d.bits
def Csr.poff (d : Csr) : Nat := field 19 0 d.bits

/-- The detail of a CSR descriptor's error (R321, R322). -/
def Csr.error (d : Csr) (t : TyCode) (k window : Nat) : Option Nat :=
  if field 63 60 d.bits != 0 then some 1
  else if d.poff % 2 != 0 || d.voff % (width t / 8) != 0 then some 2
  else if window < d.poff + 2 * (k + 1) then some 4
  else none

/-! ## Register groups (R311, R314) -/

/-- Registers that a layout spans in a gang (R314). -/
def Layout.regs (l : Layout) (gangw : Nat) : Nat := ceilDiv (ceilDiv l.bytes 8) gangw

/-- The bytes of a register group: word wi lies in lane wi mod GANGW of register g + wi div GANGW; absent and exited lanes read as
zero (R311, R314). -/
def Gang.groupBytes (h : Gang) (g : Nat) (l : Layout) : List Byte :=
  ((List.range (ceilDiv l.bytes 8)).flatMap fun wi =>
    let lane := wi % h.width
    toBytes 8 (if h.lmask.getLsbD lane then (h.readV (g + wi / h.width) lane).toNat else 0)).take l.bytes

/-- The register writes that put bytes into a group (R314). -/
def Gang.groupStore (h : Gang) (g : Nat) (bs : List Byte) : List ((Nat × Nat) × Word) :=
  (List.range (ceilDiv bs.length 8)).map fun wi =>
    ((g + wi / h.width, wi % h.width), BitVec.ofNat 64 (ofBytes ((bs.drop (8 * wi)).take 8)))

/-! ## Issue (R310 to R313, R322, R323) -/

/-- The B type of a matrix instruction (R318). -/
def Issue.matB (i : Issue) : TyCode := (Legal.bType i.ln i.t (some i.fmt)).getD i.t

/-- Registers that the group of an MLDA or MSTA spans in a gang (R311, R314, R325, R326). -/
def tileRegs (ln : Lane) (t : TyCode) (gangw : Nat) : Nat := (tileLayout true false t (matRows ln)).regs gangw

/-- The register groups a matrix instruction reads and the one it writes: operand, and registers spanned (R311). -/
def Issue.matGroups (i : Issue) : List (Operand × Nat) × List (Operand × Nat) :=
  let ln := i.ln
  let w := i.h.width
  match i.op with
  | .mma =>
    let ke := kElems i.t i.matB
    ([(ln.a, (stepLayout true false i.t (matRows ln) ke).regs w), (ln.b, (stepLayout true false i.matB (matCols ln) ke).regs w)], [])
  | .mlda => (match ln.a with | .v _ => [(ln.a, tileRegs ln i.t w)] | _ => [], [])
  | .msta => ([], match ln.d with | .v _ => [(ln.d, tileRegs ln i.t w)] | _ => [])
  | _ => ([], [])

/-- The full legality of a matrix instruction: R116, with the registers of its groups below VCOUNTg (R311). -/
def Issue.matIllegal (i : Issue) : Option Nat :=
  let base := Legal.illegal i.op i.ln ⟨some i.fmt, some i.h.vcount, some i.g.tiles.length⟩
  let past := (i.matGroups.1 ++ i.matGroups.2).any (fun g => !Legal.vBelow (some i.h.vcount) g.1 g.2)
  match base with
  | some d => some (if past && 5 < d && Legal.typeOk i.op i.t then 5 else d)
  | none => if past then some 5 else none

/-- An s operand's value. -/
def Issue.sreg (i : Issue) (o : Operand) : Word :=
  match o with
  | .s n => i.h.readS n.val
  | _ => 0

/-- The matrix-operand trap's detail of an instruction's descriptors, if any; of several the lowest (R322, log 104). -/
def Issue.matError (i : Issue) : Option Nat :=
  let ln := i.ln
  let window := i.g.kernel.scrg * 4096
  let ke := kElems i.t i.matB
  let ks := matSteps i.op ln
  let dA : Descriptor := ⟨(i.sreg ln.a).toNat⟩
  let first := fun (x y : Option Nat) => match x, y with
    | some a, some b => some (min a b)
    | some a, none => some a
    | none, y => y
  match i.op with
  | .mmaS =>
    let dB : Descriptor := ⟨(i.sreg ln.b).toNat⟩
    first (dA.error false i.t (stepLayout false dA.tr i.t (matRows ln) ke) ks window)
      (dB.error false i.matB (stepLayout false dB.tr i.matB (matCols ln) ke) ks window)
  | .mmaCsr =>
    first (dA.error false i.t (stepLayout false dA.tr i.t (matRows ln) ke) ks window)
      (Csr.error ⟨(i.sreg ln.b).toNat⟩ i.matB (ks * ke) window)
  | .mlda =>
    match ln.a with
    | .s _ => dA.error true i.t (tileLayout false dA.tr i.t (matRows ln)) 1 window
    | _ => none
  | .msta =>
    match ln.d with
    | .s _ =>
      let dD : Descriptor := ⟨(i.sreg ln.d).toNat⟩
      dD.error true i.t (tileLayout false dD.tr i.t (matRows ln)) 1 window
    | _ => none
  | _ => none

/-- The macro-operation that an instruction becomes: register sources and descriptors are read at issue (R107, R312, R315). -/
def Issue.macroOp (i : Issue) (op : Nat) (post : Option (Nat × Nat)) : MacroOp :=
  let ln := i.ln
  let ke := kElems i.t i.matB
  let data := fun (o : Operand) (l : Layout) => match o with | .v g => i.h.groupBytes g.val l | _ => []
  { gid := i.g.gid, gang := i.h.id, op := op, lop := i.op, fields := { ln with ty := i.t }, tb := i.matB, fmtf := i.f.fmtf,
    dscA := if i.op = .msta then i.sreg ln.d else i.sreg ln.a, dscB := i.sreg ln.b,
    dataA := match i.op with
      | .mma => data ln.a (stepLayout true false i.t (matRows ln) ke)
      | .mlda => data ln.a (tileLayout true false i.t (matRows ln))
      | _ => [],
    dataB := match i.op with | .mma => data ln.b (stepLayout true false i.matB (matCols ln) ke) | _ => [],
    errA := [], errB := [], post := post, running := false, due := 0, step := 0, payloads := 0, poisoned := [] }

/-- Bytes that a macro-operation holds in operand staging (R312). -/
def MacroOp.staged (m : MacroOp) : Nat := m.dataA.length + m.dataB.length

/-- Whether the engine has an entry for one more macro-operation, and staging for some bytes of operands (R312). -/
def Core.macroRoom (k : Core) (bytes : Nat) : Bool :=
  k.macros.length < 8 && k.macros.foldl (fun a x => a + x.staged) bytes ≤ 65536

/-- The s register that names the quire of a .POST (R310, R323). -/
def postReg (op : LOp) (ln : Lane) : Option SReg :=
  if (op = .mma || op = .mmaS || op = .mmaCsr) && ln.mod.getLsbD 1 then some (Fin.ofNat 64 (ln.x24.toNat / 65536)) else none

/-- The quire of .POST: none without it, its virtual and physical address, or the trap (R323). -/
def Issue.postQuire (i : Issue) (s : State) : Except Trap (Option (Nat × Nat)) :=
  match postReg i.op i.ln with
  | none => .ok none
  | some r =>
    let va := (i.h.readS r.val).toNat
    match s.checkGlobal i.g.who .sync va 16 with
    | .error f => .error (accessTrap .sync f i.enabled va)
    | .ok (pa, _) => .ok (some (va, pa))

/-- The walk of a .POST quire's translation (R242). -/
def Issue.noteQuire (i : Issue) (s : State) : State :=
  match postReg i.op i.ln with
  | none => s
  | some r => s.noteWalk i.g.who (i.h.readS r.val).toNat

/-- What a matrix instruction reads: its register groups, its descriptors and the register of its .POST quire (R146, R311). -/
def Issue.matSources (i : Issue) : List (Operand × Nat) :=
  i.matGroups.1 ++ (sources i.op i.ln i.t i.fmt).filter (fun o => match o.1 with | .s _ => true | _ => false)
    ++ (match i.ln.d with | .s _ => [(i.ln.d, 1)] | _ => [])
    ++ (match postReg i.op i.ln with | some r => [(.s r, 1)] | none => [])

/-- A matrix instruction: it issues in no window, and once every earlier access of the gang has performed; the order of checks of R312,
then acceptance (R308, R310 to R313, R327, R361). -/
def matrixWord (op : LOp) (ln : Lane) (s : State) : Out :=
  irrevocable s fun c =>
    let i := c.issue op ln
    match i.matIllegal with
    | some d => s.trap c (Trap.inGang 0x01 d i.enabled)
    | none =>
      let srcs := i.matSources
      let j := { i with active := c.h.lmask }
      match if c.g.chk then j.stalled (s.core c.g.core).cycle srcs (ownLane j) else none with
      | some bad => s.trap c (Trap.inGang 0x02 0 bad)
      | none =>
        if (s.core c.g.core).baton != some (c.g.gid, c.h.id) then batonTrap s c 1
        else
          match i.matError with
          | some d => s.trap c (Trap.inGang 0x0A d i.enabled)
          | none =>
            let s1 := i.noteQuire s
            match i.postQuire s with
            | .error t => s1.trap c t
            | .ok post =>
              let m := i.macroOp s.idCount post
              if (s.core c.g.core).macroRoom m.staged then
                let dests := i.matGroups.2.flatMap fun g => (List.range g.2).map fun n => vnum g.1 + n
                let i1 := { i with g := c.g.orErr (j.errBits srcs (ownLane j)), active := c.h.enabled c.f }
                let o := { i1.vop s .macroOp .none dests with lanes := c.h.lmask }
                .next ((i1.start s1 o).updCore c.g.core (fun x => { x with macros := x.macros ++ [m] }))
              else .next (s.put c.g c.h (c.f.hold (.matrix m.staged)))

/-- MMA (R319, R320). -/
def execMma (f : Lane) (s : State) : Out := matrixWord .mma f s

/-- MMA.S (R319, R320). -/
def execMmaS (f : Lane) (s : State) : Out := matrixWord .mmaS f s

/-- MMA.CSR (R319, R321). -/
def execMmaCsr (f : Lane) (s : State) : Out := matrixWord .mmaCsr f s

/-- MZERO (R324). -/
def execMzero (f : Lane) (s : State) : Out := matrixWord .mzero f s

/-- MLDA (R325). -/
def execMlda (f : Lane) (s : State) : Out := matrixWord .mlda f s

/-- MSTA (R326). -/
def execMsta (f : Lane) (s : State) : Out := matrixWord .msta f s

/-! ## The effect of a macro-operation -/

/-- Where a macro-operation finds an operand: bytes staged at issue, with the uncorrectable words of them, or the window of a scratchpad
through a descriptor. -/
inductive OperandSrc where
  | staged (bytes : List Byte) (bad : List Nat)
  | window (base : Nat) (d : Descriptor)
  deriving DecidableEq, Repr

/-- A stored row as a little-endian number, with the 8-byte words of it that are uncorrectable. -/
structure OpRow where
  bits : Nat
  bad : List Nat
  deriving DecidableEq, Repr

/-- Whether an element of a row, by the width of its elements, lies in an uncorrectable word. -/
def OpRow.spoilt (r : OpRow) (w e : Nat) : Bool := r.bad.contains (w * e / 64) || r.bad.contains ((w * e + w - 1) / 64)

/-- A stored row (R314, R316). -/
def OperandSrc.row (o : OperandSrc) (k : Core) (l : Layout) (ks x : Nat) : OpRow :=
  let words := List.range (l.rowBytes / 8)
  match o with
  | .staged bs bad => ⟨ofBytes ((bs.drop (x * l.rowBytes)).take l.rowBytes), words.filter fun q => bad.contains (x * l.rowBytes / 8 + q)⟩
  | .window base d =>
    let at' := fun (q : Nat) => base + d.offset ks x (8 * q)
    ⟨ofBytes (words.flatMap fun q => toBytes 8 (k.scratchN (at' q) 8)), words.filter fun q => k.scratchErr.contains (at' q / 8)⟩

/-- Scale byte t of a K-step, and whether its word is uncorrectable. -/
def OperandSrc.scale (o : OperandSrc) (k : Core) (l : Layout) (ks t : Nat) : Nat × Bool :=
  match o with
  | .staged bs bad => ((bs.getD (l.rows * l.rowBytes + t) 0).toNat, bad.contains ((l.rows * l.rowBytes + t) / 8))
  | .window base d =>
    let a := base + d.scaleOffset l ks t
    ((k.scratchByte a).toNat, k.scratchErr.contains (a / 8))

/-- What an uncorrectable word of an operand reports (R197, R330, R407). -/
def OperandSrc.report (o : OperandSrc) : BitVec 9 :=
  match o with
  | .staged _ _ => POIS
  | .window _ _ => SCRE ||| POIS

/-- Requests of at most 256 bytes that a stored row, or several whole rows, make (R316). -/
def Layout.requests (l : Layout) : Nat :=
  if l.rowBytes ≤ 256 then ceilDiv l.rows (256 / max 1 l.rowBytes) else l.rows * ceilDiv l.rowBytes 256

/-- The request that carries a stored row; the first of several. -/
def Layout.requestOf (l : Layout) (x : Nat) : Nat :=
  if l.rowBytes ≤ 256 then x / (256 / max 1 l.rowBytes) else x * ceilDiv l.rowBytes 256

/-- Whether the payload with a byte of a stored row was never delivered; payloads are counted from the step at which the macro-operation
started or resumed, and those of the row's operand begin at `from_`. The scale bytes travel with their rows (R299, R301). -/
def MacroOp.lostByte (m : MacroOp) (l : Layout) (from_ x byte : Nat) : Bool := m.poisoned.contains (from_ + l.requestOf x + byte / 256)

/-- One unit of an operand as the expanding port delivers it: 32 or more elements, the scale, error bits (R197, R301). -/
structure OpUnit where
  xs : List Exact
  ints : List Int
  scale : Nat
  err : BitVec 9
  deriving DecidableEq, Repr

/-- Elements of a unit of summation (R194). -/
def unitSize (ta tb : TyCode) : Nat := if isX ta || isX tb then 32 else if width ta = 16 then 32 else 64

/-- Delivers the raw elements of a unit with what they report: the spoilt ones as NaN, or as zero for integers (R197, R299, R330). -/
def deliver (t : TyCode) (es : List Nat) (scale : Nat) (err : BitVec 9) (spoilt : Nat → Bool) : OpUnit :=
  let bad := (List.range es.length).map spoilt
  if bad.all id then ⟨es.map (fun _ => .nan), es.map (fun _ => 0), 127, err⟩
  else if isInt t then ⟨[], List.zipWith (fun e b => if b then 0 else Num.intElem t e) es bad, 127, err⟩
  else
    let b := blockExact t es scale
    ⟨List.zipWith (fun x b => if b then .nan else x) b.1 bad, [], if isX t then scale else 127, err ||| (if b.2 then FMTE else 0)⟩

/-- The report of a unit, some of whose words are uncorrectable or never arrived (R197, R299). -/
def OperandSrc.unitErr (o : OperandSrc) (bad lost : Bool) : BitVec 9 := (if bad then o.report else 0) ||| (if lost then POIS else 0)

/-- Whether an uncorrectable word spoils the whole unit: a block of an X type, and what the port reads in the scratchpad; of other operands
staged at issue it spoils the elements it holds (R197, R330). What the block is of a type that has none is log 101. -/
def OperandSrc.byBlock (o : OperandSrc) (t : TyCode) : Bool :=
  isX t || (match o with | .window _ _ => true | .staged _ _ => false)

/-- A unit from its elements and its scale, with which elements lie in an uncorrectable word and which never arrived: one that never arrived,
or a scale byte in error, spoils the unit (R197, R299, R330). -/
def OperandSrc.unit (o : OperandSrc) (t : TyCode) (es : List Nat) (sc : Nat × Bool) (bad lost : List Bool) : OpUnit :=
  let whole := sc.2 || lost.any id || (o.byBlock t && bad.any id)
  deliver t es sc.1 (o.unitErr (sc.2 || bad.any id) (lost.any id)) fun e => whole || bad.getD e false

/-- The units of row (or column) m of an operand in a K-step (R194, R314 to R318). `rows` are its stored rows; `lost` says of a row and a byte
of it whether it never arrived. A unit is the block of an operand that is no X type (log 101). -/
def operandUnits (o : OperandSrc) (k : Core) (l : Layout) (t : TyCode) (ks ke us : Nat) (rows : List OpRow) (lost : Nat → Nat → Bool)
    (m : Nat) : List OpUnit :=
  (List.range (ke / us)).map fun u =>
    let idx := (List.range us).map fun e => u * us + e
    let at' := fun (x : Nat) => rows.getD x ⟨0, []⟩
    if l.tr then
      o.unit t (idx.map fun e => elem l.w (at' e).bits m) (127, false) (idx.map fun e => (at' e).spoilt l.w m)
        (idx.map fun e => lost e (l.w * m / 8))
    else
      let sc := if isX t then o.scale k l ks (m * (ke / 32) + u) else (127, false)
      o.unit t (idx.map fun e => elem l.w (at' m).bits e) sc (idx.map ((at' m).spoilt l.w)) (idx.map fun e => lost m (l.w * e / 8))

/-- All units of an operand in a K-step, row by row. -/
def operandStep (o : OperandSrc) (k : Core) (l : Layout) (t : TyCode) (n ks ke us : Nat) (lost : Nat → Nat → Bool) : List (List OpUnit) :=
  let rows := (List.range l.rows).map (o.row k l ks)
  (List.range n).map (operandUnits o k l t ks ke us rows lost)

/-- An entry of a compressed row: its column, its value, and whether the value's word is uncorrectable. -/
structure CsrEntry where
  col : Nat
  val : Nat
  bad : Bool
  deriving DecidableEq, Repr

/-- What stands in a row of B. -/
inductive CsrRow where
  | entries (es : List CsrEntry)
  | malformed
  /-- a pointer or a column index of the row lies in an uncorrectable word: none of its elements is known (log 87) -/
  | unknown
  deriving DecidableEq, Repr

/-- A row of B from compressed rows (R321, R407). -/
def csrRow (k : Core) (base window : Nat) (d : Csr) (size n row : Nat) : CsrRow :=
  let bad := fun (a m : Nat) => (wordsOf a m).any fun w => k.scratchErr.contains w
  let p0 := k.scratchN (base + d.poff + 2 * row) 2
  let p1 := k.scratchN (base + d.poff + 2 * (row + 1)) 2
  if bad (base + d.poff + 2 * row) 4 then .unknown
  else if p1 < p0 then .malformed
  else if p0 < p1 && (window < d.coff + p1 || window < d.voff + p1 * size) then .malformed
  else if bad (base + d.coff + p0) (p1 - p0) then .unknown
  else
    let es := (List.range (p1 - p0)).map fun e =>
      let a := base + d.voff + (p0 + e) * size
      CsrEntry.mk (k.scratchByte (base + d.coff + p0 + e)).toNat (k.scratchN a size) (bad a size)
    let cols := es.map (fun e => e.col)
    if cols.any (fun c => n ≤ c) || !(((cols.zip (cols.drop 1)).all fun p => decide (p.1 < p.2))) then .malformed else .entries es

/-- The entry of a row in a column, if it has one. -/
def CsrRow.at? (r : CsrRow) (c : Nat) : Option CsrEntry :=
  match r with
  | .entries es => es.find? fun e => e.col == c
  | _ => none

/-- Whether an element of a row is uncorrectable. -/
def CsrRow.spoilt (r : CsrRow) (c : Nat) : Bool := r == .unknown || ((r.at? c).map fun e => e.bad).getD false

/-- B of a K-step of MMA.CSR: its dense units column by column; a malformed step delivers NaN, or zero for integers (R197, R321). `lost`
says which columns never arrived. -/
def csrStep (k : Core) (base window : Nat) (d : Csr) (t : TyCode) (n ks ke us : Nat) (lost : Nat → Bool) : List (List OpUnit) :=
  let rows := (List.range ke).map fun e => csrRow k base window d (width t / 8) n (ks * ke + e)
  let malformed := rows.contains .malformed
  (List.range n).map fun c => (List.range (ke / us)).map fun u =>
    let mine := (rows.drop (u * us)).take us
    let err : BitVec 9 := (if malformed then CSRE else 0) ||| (if mine.any fun r => r.spoilt c then SCRE ||| POIS else 0)
      ||| (if lost c then POIS else 0)
    deliver t (mine.map fun r => ((r.at? c).map fun e => e.val).getD 0) 127 err fun _ => err != 0

/-- Applies a row's units to an accumulator element (R194, R195, R320): pattern, SATF bits, error bits. -/
def applyUnits (c : Num.Ctl) (int : Bool) : Nat → Nat → BitVec 9 → List (OpUnit × OpUnit) → Nat × Nat × BitVec 9
  | acc, fl, err, [] => (acc, fl, err)
  | acc, fl, err, (a, b) :: rest =>
    let r := if int then Num.applyUnitInt c acc (a.ints.zip b.ints) else Num.applyUnit c acc (a.xs.zip b.xs) a.scale b.scale
    applyUnits c int r.1 (fl ||| r.2) (err ||| a.err ||| b.err) rest

/-- The key of an element of a tile of a core (R303). -/
def accKey (tile r c : Nat) : Nat := tile * 8192 + r * 64 + c

/-- Reads an element of a tile: an uncorrectable one as NaN or zero (R330). -/
def Core.readAcc (k : Core) (int : Bool) (key : Nat) : Nat × BitVec 9 :=
  if k.accErr.contains key then (if int then 0 else Num.canonNan .f32, POIS) else ((Table.get 0 k.acc key).toNat, 0)

/-- Writes an element of a tile. -/
def Core.writeAcc (k : Core) (key v : Nat) : Core :=
  { k with acc := Table.set 0 k.acc key (BitVec.ofNat 32 v), accErr := k.accErr.filter (fun x => x != key) }

/-- What a macro-operation did: the core afterwards, SATF bits, ERRSUM bits, register writes, bytes stored to the scratchpad. -/
structure MacroEffect where
  core : Core
  satf : Nat
  err : BitVec 9
  v : List ((Nat × Nat) × Word)
  stores : List (Nat × List Byte)
  deriving DecidableEq, Repr

/-- The fields of a macro-operation, with its types. -/
def MacroOp.ta (m : MacroOp) : TyCode := m.fields.ty
def MacroOp.ctl (m : MacroOp) : Num.Ctl := Num.ctlOf m.fmtf.toNat

/-- Blocks of 16 by 16 outputs in a K-step (R320). -/
def MacroOp.blocks (m : MacroOp) : Nat := matRows m.fields / 16 * (matCols m.fields / 16)

/-- The part of K-step ks of C := C + A·B whose steps have an index from the first to do up to `hi` (R320). -/
def macroStep (m : MacroOp) (g : Group) (k : Core) (hi ks : Nat) (e : MacroEffect) : MacroEffect :=
  let ln := m.fields
  let ta := m.ta
  let tb := m.tb
  let ke := kElems ta tb
  let us := unitSize ta tb
  let inRegs := m.lop = .mma
  let dA : Descriptor := ⟨m.dscA.toNat⟩
  let dB : Descriptor := ⟨m.dscB.toNat⟩
  let lA := stepLayout inRegs (!inRegs && dA.tr) ta (matRows ln) ke
  let lB := stepLayout inRegs (m.lop = .mmaS && dB.tr) tb (matCols ln) ke
  let window := g.kernel.scrg * 4096
  let sA : OperandSrc := if inRegs then .staged m.dataA m.errA else .window g.window dA
  let sB : OperandSrc := if inRegs then .staged m.dataB m.errB else .window g.window dB
  let p0 := (ks - m.step / m.blocks) * (lA.requests + lB.requests)
  let bU := if m.lop = .mmaCsr then csrStep k g.window window ⟨m.dscB.toNat⟩ tb (matCols ln) ks ke us fun c => m.lostByte lB p0 c 0
    else operandStep sB k lB tb (matCols ln) ks ke us (m.lostByte lB p0)
  let aU := operandStep sA k lA ta (matRows ln) ks ke us (m.lostByte lA (p0 + lB.requests))
  let tile := g.tiles.getD (match ln.d with | .acc n => n.val | _ => 0) 0
  (List.range (matRows ln)).foldl (fun e r => (List.range (matCols ln)).foldl (fun (e : MacroEffect) c =>
    let p := ks * m.blocks + r / 16 * (matCols ln / 16) + c / 16
    if p < m.step || hi ≤ p then e
    else
      let key := accKey tile r c
      let old := e.core.readAcc (isInt ta) key
      let x := applyUnits m.ctl (isInt ta) old.1 0 old.2 ((aU.getD r []).zip (bU.getD c []))
      { e with core := e.core.writeAcc key x.1, satf := e.satf ||| x.2.1, err := e.err ||| x.2.2 }) e) e

/-- Writes +0 to the M by N elements that .Z clears (R320). -/
def Core.clearAcc (k : Core) (tile m n : Nat) : Core :=
  let inside := fun (key : Nat) => key / 8192 == tile && decide (key % 8192 / 64 < m) && decide (key % 64 < n)
  { k with acc := k.acc.filter fun x => !inside x.1, accErr := k.accErr.filter fun x => !inside x }

/-- A block of 32 elements of a row of MLDA: the port's unit, the element codes, and what each element reports. Of TR = 0 an uncorrectable
word spoils what it spoils of a unit; of TR = 1 each element is by itself (R197, R314, R316, R317, R330). `lost` says of a stored row and a byte
of it whether it never arrived. -/
def mldaBlock (m : MacroOp) (o : OperandSrc) (k : Core) (l : Layout) (rows : List OpRow) (lost : Nat → Nat → Bool) (r b : Nat) :
    OpUnit × List Nat × List (BitVec 9) :=
  let t := m.ta
  let cols := (List.range 32).map fun e => 32 * b + e
  let at' := fun (x : Nat) => rows.getD x ⟨0, []⟩
  if l.tr then
    let codes := cols.map fun c => elem l.w (at' c).bits r
    (deliver t codes 127 0 fun _ => false, codes, cols.map fun c => o.unitErr ((at' c).spoilt l.w r) (lost c (l.w * r / 8)))
  else
    let codes := cols.map fun c => elem l.w (at' r).bits c
    let sc := if isX t then o.scale k l 0 (2 * r + b) else (127, false)
    let bad := cols.map ((at' r).spoilt l.w)
    let gone := cols.map fun c => lost r (l.w * c / 8)
    let u := o.unit t codes sc bad gone
    let whole := sc.2 || gone.any id || (o.byBlock t && bad.any id)
    (u, codes, bad.map fun x => if whole || x then o.unitErr (sc.2 || bad.any id) (gone.any id) else 0)

/-- Payloads of a region's stored rows before the first that a macro-operation still has to move: none where they are columns (R299). -/
def MacroOp.firstPayload (m : MacroOp) (l : Layout) : Nat := if l.tr then 0 else l.requestOf (16 * m.step)

/-- Whether a byte of a stored row of the region of an MLDA or MSTA was never delivered (R299). -/
def MacroOp.lostTileByte (m : MacroOp) (l : Layout) (x byte : Nat) : Bool :=
  decide (m.firstPayload l ≤ l.requestOf x)
    && ({ m with poisoned := m.poisoned.map fun p => p + m.firstPayload l } : MacroOp).lostByte l 0 x byte

/-- The f32 or i32 pattern that MLDA writes for an element (R325): pattern and SATF bits. -/
def mldaConv (m : MacroOp) (x : Exact) (code : Nat) (spoiled : Bool) (scale : Nat) : Nat × Nat :=
  let t := m.ta
  let sc := m.fields.mod.getLsbD 1
  let ts := m.fields.x24.toNat / 256 % 256
  if t = .i32 then (if spoiled then 0 else code, 0)
  else if spoiled then (Num.canonNan .f32, 0)
  else if isX t then Num.roundF m.ctl .f32 (if scale = 0xFF then .nan false else (x.scale ((scale : Int) - 127)).pre)
  else if sc then
    Num.roundF m.ctl .f32 (if ts = 0xFF then .nan false else ((Num.decodeFl m.ctl.flush t code).scale ((ts : Int) - 127)).pre)
  else if t = .f32 then (code, 0)
  else Num.roundF m.ctl .f32 (Num.decodeFl m.ctl.flush t code).pre

/-- MLDA, of tile rows 16·lo to 16·hi − 1 of its region (R325, R328). -/
def macroLoad (m : MacroOp) (g : Group) (k : Core) (lo hi : Nat) : MacroEffect :=
  let ln := m.fields
  let d : Descriptor := ⟨m.dscA.toNat⟩
  let inRegs := match ln.a with | .v _ => true | _ => false
  let l := tileLayout inRegs (!inRegs && d.tr) m.ta (matRows ln)
  let o : OperandSrc := if inRegs then .staged m.dataA m.errA else .window g.window d
  let rows := (List.range l.rows).map (o.row k l 0)
  let tile := g.tiles.getD (match ln.d with | .acc n => n.val | _ => 0) 0
  ((List.range (matRows ln)).filter (fun r => 16 * lo ≤ r && r < 16 * hi)).foldl (fun (e : MacroEffect) r =>
    (List.range 2).foldl (fun (e : MacroEffect) b =>
      let u := mldaBlock m o k l rows (m.lostTileByte l) r b
      (List.range 32).foldl (fun (e : MacroEffect) c =>
        let err := u.2.2.getD c 0
        let y := mldaConv m (u.1.xs.getD c (.fin false 0 0)) (u.2.1.getD c 0) (err != 0) u.1.scale
        { e with core := e.core.writeAcc (accKey tile (rowOrigin ln + r) (32 * b + c)) y.1, satf := e.satf ||| y.2, err := e.err ||| err })
        { e with err := e.err ||| u.1.err }) e)
    ⟨k, 0, 0, [], []⟩

/-- The element codes and scale bytes of two blocks of a tile row, as MSTA converts them (R326): codes, scales, SATF bits. `lost` says which
elements the readout never delivers. -/
def mstaRow (m : MacroOp) (xs : List Nat) (lost : Nat → Bool) : List Nat × List Nat × Nat :=
  let t := m.ta
  let ln := m.fields
  let c : Num.Ctl := { m.ctl with sat := m.ctl.sat || ln.mod.getLsbD 0 }
  let ts := ln.x24.toNat / 256 % 256
  let sc := ln.mod.getLsbD 1
  let cols := (List.range xs.length).zip xs
  if t = .i32 then (cols.map fun x => if lost x.1 then 0 else x.2, [], 0)
  else if isX t then
    if lost 0 then (xs.map (fun _ => 0), [0xFF, 0xFF], 0)
    else
      let es := xs.map (Num.decodeFl c.flush .f32)
      let blk := fun (b : List Exact) => Num.encodeBlock c t b (Num.chooseScale t b)
      let b0 := blk (es.take 32)
      let b1 := blk (es.drop 32)
      (b0.1 ++ b1.1, [b0.2.1, b1.2.1], b0.2.2 ||| b1.2.2)
  else
    let rs := cols.map fun x =>
      let v := Num.decodeFl c.flush .f32 x.2
      if lost x.1 then (Num.canonNan t, 0)
      else if t = .f32 && !sc then (x.2, 0)
      else Num.roundF c t (if sc then (if ts = 0xFF then .nan false else (v.scale (127 - (ts : Int))).pre) else v.pre)
    (rs.map (fun r => r.1), [], orFlags rs)

/-- MSTA, of tile rows 16·lo to 16·hi − 1 of its region (R326, R328). -/
def macroStore (m : MacroOp) (g : Group) (h : Option Gang) (k : Core) (lo hi : Nat) : MacroEffect :=
  let ln := m.fields
  let d : Descriptor := ⟨m.dscA.toNat⟩
  let inRegs := match ln.d with | .v _ => true | _ => false
  let l := tileLayout inRegs (!inRegs && d.tr) m.ta (matRows ln)
  let tile := g.tiles.getD (match ln.a with | .acc n => n.val | _ => 0) 0
  let n := matRows ln
  let inBlocks := fun (r : Nat) => 16 * lo ≤ r && r < 16 * hi
  let raw := (List.range n).map fun r => if !inBlocks r then List.replicate 64 (0, (0 : BitVec 9)) else (List.range 64).map fun c => k.readAcc (m.ta = .i32) (accKey tile (rowOrigin ln + r) c)
  let anyLost := !m.poisoned.isEmpty
  let rows := (List.range n).map fun r =>
    mstaRow m ((raw.getD r []).map (fun x => x.1)) fun c =>
      anyLost && (if l.tr then m.lostTileByte l c (l.w * r / 8) else m.lostTileByte l r (l.w * c / 8))
  let err := raw.foldl (fun e r => r.foldl (fun e x => e ||| x.2) e) (0 : BitVec 9) ||| (if anyLost then POIS else 0)
  let stored := (List.range l.rows).map fun x =>
    toBytes l.rowBytes (fromElems l.w (if l.tr then rows.map (fun r => r.1.getD x 0) else (rows.getD x ([], [], 0)).1))
  let scales := (rows.flatMap fun r => r.2.1).map (BitVec.ofNat 8)
  let satf := rows.foldl (fun a r => a ||| r.2.2) 0
  if inRegs then
    match h with
    | none => ⟨k, satf, err, [], []⟩
    | some h => ⟨k, satf, err, h.groupStore (vnum ln.d) (stored.flatten ++ scales), []⟩
  else
    let words := fun (x : Nat) => (List.range (l.rowBytes / 8)).filter fun q => if l.tr then inBlocks (64 * q / l.w) else inBlocks x
    let data := (List.range l.rows).flatMap fun x => (words x).map fun q =>
      (g.window + d.offset 0 x (8 * q), ((stored.getD x []).drop (8 * q)).take 8)
    ⟨k, satf, err, [], data ++ ((List.range scales.length).filter fun t => inBlocks (t / 2)).map fun t => (g.window + d.scaleOffset l 0 t, [scales.getD t 0])⟩

/-- Steps of a macro-operation, as R320 counts them, or its 16-row blocks (R310, R402). -/
def MacroOp.steps (m : MacroOp) : Nat :=
  match m.lop with
  | .mzero => 1
  | .mlda | .msta => matRows m.fields / 16
  | op => m.blocks * matSteps op m.fields

/-- The effect of a macro-operation's steps from its saved one up to `hi` (R320, R324 to R326, R328, R329). -/
def macroEffect (m : MacroOp) (g : Group) (h : Option Gang) (k : Core) (hi : Nat) : MacroEffect :=
  let ln := m.fields
  let e0 : MacroEffect := ⟨k, 0, 0, [], []⟩
  let tile := g.tiles.getD (match ln.d with | .acc n => n.val | _ => 0) 0
  match m.lop with
  | .mzero => { e0 with core := k.clearAcc tile 128 64 }
  | .mlda => macroLoad m g k m.step hi
  | .msta => macroStore m g h k m.step hi
  | op =>
    let e1 := if ln.mod.getLsbD 0 && m.step = 0 then { e0 with core := k.clearAcc tile (matRows ln) (matCols ln) } else e0
    ((List.range (matSteps op ln)).filter fun ks => m.step < (ks + 1) * m.blocks && ks * m.blocks < hi).foldl
      (fun e ks => macroStep m g e.core hi ks e) e1

/-! ## The scratchpad bytes of a macro-operation (R316, R321, R328, R369) -/

/-- Offsets and lengths of the words of a stored operand in a K-step, and of its scale bytes, that belong to some blocks of 16 of its rows
or columns. -/
def Descriptor.spans (d : Descriptor) (l : Layout) (ks : Nat) (needed : Nat → Bool) : List (Nat × Nat) :=
  ((List.range l.rows).flatMap fun x =>
    ((List.range (l.rowBytes / 8)).filter fun q => needed (if l.tr then 64 * q / l.w / 16 else x / 16)).map fun q => (d.offset ks x (8 * q), 8))
    ++ ((List.range l.scales).filter fun t => needed (t / (l.scales / l.rows) / 16)).map fun t => (d.scaleOffset l ks t, 1)

/-- A range of offsets cut at the end of the group's window. -/
def cutAt (window : Nat) (x : Nat × Nat) : Nat × Nat := (x.1, min (x.1 + x.2) window - x.1)

/-- The same of the compressed rows of a K-step: row pointers, column indices, values; nothing outside the window is read (R321). -/
def Csr.spans (d : Csr) (k : Core) (base window ke size ks : Nat) : List (Nat × Nat) :=
  (List.range ke).flatMap fun e =>
    let row := ks * ke + e
    let p0 := k.scratchN (base + d.poff + 2 * row) 2
    let p1 := k.scratchN (base + d.poff + 2 * (row + 1)) 2
    [(d.poff + 2 * row, 4), (d.coff + p0, p1 - p0), (d.voff + p0 * size, (p1 - p0) * size)].map (cutAt window)

/-- The bytes of its group's window that a descriptor form reads or writes in its steps from its saved one up to `hi`: offsets and lengths. -/
def MacroOp.spans (m : MacroOp) (g : Group) (k : Core) (hi : Nat) : List (Nat × Nat) :=
  let ln := m.fields
  let ke := kElems m.ta m.tb
  let dA : Descriptor := ⟨m.dscA.toNat⟩
  let dB : Descriptor := ⟨m.dscB.toNat⟩
  let does := fun (p : Nat) => m.step ≤ p && p < hi
  let nb := matCols ln / 16
  let ofA := fun (ks b : Nat) => (List.range nb).any fun c => does (ks * m.blocks + b * nb + c)
  let ofB := fun (ks b : Nat) => (List.range (matRows ln / 16)).any fun r => does (ks * m.blocks + r * nb + b)
  let steps := (List.range (matSteps m.lop ln)).filter fun ks => (List.range m.blocks).any fun b => does (ks * m.blocks + b)
  match m.lop with
  | .mmaS =>
    steps.flatMap fun ks => dA.spans (stepLayout false dA.tr m.ta (matRows ln) ke) ks (ofA ks)
      ++ dB.spans (stepLayout false dB.tr m.tb (matCols ln) ke) ks (ofB ks)
  | .mmaCsr =>
    steps.flatMap fun ks => dA.spans (stepLayout false dA.tr m.ta (matRows ln) ke) ks (ofA ks)
      ++ (⟨m.dscB.toNat⟩ : Csr).spans k g.window (4096 * g.kernel.scrg) ke (width m.tb / 8) ks
  | .mlda => (match ln.a with | .s _ => dA.spans (tileLayout false dA.tr m.ta (matRows ln)) 0 does | _ => [])
  | .msta => (match ln.d with | .s _ => dA.spans (tileLayout false dA.tr m.ta (matRows ln)) 0 does | _ => [])
  | _ => []

end Sys2Proof.Machine
end

