-- ==== Sys2Proof/Machine/MatrixEngine.lean ====
section
/-! DEFINITION. The sequencer of the matrix engine, the payloads of the vertical bus, and its retraining (R297 to R300, R312, R313, R323, R328, R408). -/

namespace Sys2Proof.Machine

open Sys2Proof.Bits

/-- The descriptor forms, which a save removes from the queue (R328). -/
def MacroOp.byDescriptor (m : MacroOp) : Bool :=
  match m.lop with
  | .mmaS | .mmaCsr => true
  | .mlda => (match m.fields.a with | .s _ => true | _ => false)
  | .msta => (match m.fields.d with | .s _ => true | _ => false)
  | _ => false

/-- Whether the sequencer passes over a macro-operation: a descriptor form of a group whose save is pending (R328). -/
def State.passedOver (s : State) (m : MacroOp) : Bool :=
  m.byDescriptor && ((s.group? m.gid).any fun g => g.savePending.isSome)

/-- The macro-operation that the sequencer starts next (R312, R328): one runs at a time, in acceptance order, and none starts
while the bus retrains. -/
def State.nextMacro (s : State) (core : Nat) : Option MacroOp :=
  let k := s.core core
  if k.retraining.isSome || k.macros.any (fun m => m.running) then none else k.macros.find? (fun m => !s.passedOver m)

/-- MACRO_OP_START (R312). -/
def execMacroOpStart (core : Nat) (s : State) : Out :=
  match s.nextMacro core with
  | none => .fault .absent
  | some m =>
    .next (s.updCore core fun k => { k with
      macros := k.macros.map fun x => if x.op = m.op then { x with running := true, due := s.time + Config.latency m.op } else x })

/-- What a macro-operation's steps up to `hi` leave: tiles, scratchpad, SATF and ERRSUM; with the register writes of MSTA (R313, R320,
R324 to R326). A window that claims a word that they read rolls back (R369). -/
def State.runMacro (s : State) (core : Nat) (m : MacroOp) (g : Group) (hi : Nat) : State × List ((Nat × Nat) × Word) :=
  let k := s.core core
  let e := macroEffect m g (g.gang? m.gang) k hi
  let s0 := (m.spans g k hi).foldl (fun t x => t.sconflict none core (g.window + x.1) x.2 false) s
  let s1 := e.stores.foldl (fun t x => t.spoke none core x.1 x.2)
    (s0.updCore core fun k => { k with acc := e.core.acc, accErr := e.core.accErr })
  match s1.gangOf? m.gid m.gang with
  | none => (s1, e.v)
  | some (g1, h1) => (s1.setGroup ((g1.orErr e.err).setGang (h1.orSatfBoth (BitVec.ofNat 4 e.satf))), e.v)

/-- A macro-operation's count-down, after its register writes (R312). -/
def State.landMacro (s : State) (m : MacroOp) (v : List ((Nat × Nat) × Word)) : State :=
  match s.gangOf? m.gid m.gang with
  | none => s
  | some (g, h) =>
    match h.ops.find? (fun o => o.id == m.op) with
    | none => s
    | some o => s.setGroup (g.setGang (h.land { o with writes := { Writes.none with v := v } }))

/-- The macro-operation whose transfers and steps go on: the one that runs, unless the bus retrains (R300). -/
def Core.running? (k : Core) : Option MacroOp := if k.retraining.isSome then none else k.macros.find? (fun m => m.running)

/-- MACRO_OP_COMPLETE (R312, R313, R323). -/
def execMacroOpComplete (core : Nat) (s : State) : Out :=
  match (s.core core).running? with
  | none => .fault .absent
  | some m =>
    let s0 := s.updCore core fun k => { k with macros := k.macros.filter (fun x => x.op != m.op) }
    match s.group? m.gid with
    | none => .next s0
    | some g =>
      let r := s0.runMacro core m g m.steps
      let s1 := r.1.landMacro m r.2
      .next (match m.post with | some p => s1.postArrival m.gid p.2 | none => s1)

/-- SLOT_PAYLOAD_RECEIVE: a payload of the running macro-operation is delivered after `sends` sends that failed; four failures make it
uncorrectable, and its elements are delivered as R197 or R326 say (R299). -/
def execSlotPayloadReceive (core sends : Nat) (s : State) : Out :=
  if (s.core core).running?.isSome then
    .next (s.updCore core fun k => { k with
      macros := k.macros.map fun m =>
        if m.running then
          { m with payloads := m.payloads + 1, poisoned := if 4 ≤ sends then m.poisoned ++ [m.payloads] else m.poisoned }
        else m })
  else .fault .absent


/-- BUS_RETRAIN_END: paused transfers go on (R300). -/
def execBusRetrainEnd (core : Nat) (s : State) : Out :=
  match (s.core core).retraining with
  | some t => if t ≤ s.time then .next (s.updCore core fun k => { k with retraining := none }) else .fault .absent
  | none => .fault .absent

end Sys2Proof.Machine
end

