-- ==== Sys2Proof/Machine/Texture.lean ====
section
/-! DEFINITION. Texture sampling and coverage (R356, R357). -/

namespace Sys2Proof.Machine

open Sys2Proof.Bits
open Sys2Proof.Num (Exact Pre)

/-- A texture descriptor (R356). -/
structure TexDesc where
  bits : Nat
  deriving DecidableEq, Repr

namespace TexDesc

def base (d : TexDesc) : Nat := field 55 0 d.bits
def fmt (d : TexDesc) : Nat := field 59 56 d.bits
def lvm1 (d : TexDesc) : Nat := field 67 64 d.bits
def lw (d : TexDesc) : Nat := field 71 68 d.bits
def lh (d : TexDesc) : Nat := field 75 72 d.bits
def wru (d : TexDesc) : Nat := field 77 76 d.bits
def wrv (d : TexDesc) : Nat := field 79 78 d.bits

/-- Whether a descriptor keeps its layout. -/
def valid (d : TexDesc) : Bool :=
  field 127 80 d.bits == 0 && field 63 60 d.bits == 0 && d.fmt ≤ 3 && d.wru ≤ 2 && d.wrv ≤ 2 && d.lw ≤ 14 && d.lh ≤ 14
    && d.lvm1 ≤ max d.lw d.lh && d.base % 128 == 0

/-- Log2 width and height of a level. -/
def width (d : TexDesc) (l : Nat) : Nat := d.lw - l
def height (d : TexDesc) (l : Nat) : Nat := d.lh - l

/-- Bytes of a texel. -/
def size (d : TexDesc) : Nat := if d.fmt = 0 then 8 else 4

/-- The address of a level: each lower level's size is rounded up to 128 bytes. -/
def level (d : TexDesc) (l : Nat) : Nat :=
  (List.range l).foldl (fun a k => a + 128 * ceilDiv (2 ^ (d.width k + d.height k) * d.size) 128) d.base

end TexDesc

/-- The coordinate that a wrap mode gives an index, in a size of 2^k. -/
def wrapCoord (mode k : Nat) (i : Int) : Nat :=
  let n : Int := ((2 ^ k : Nat) : Int)
  match mode with
  | 0 => (i % n).toNat
  | 1 => (max 0 (min i (n - 1))).toNat
  | _ =>
    let m := i % (2 * n)
    (if m < n then m else 2 * n - 1 - m).toNat

/-- The four channels of a texel: values, in 255ths for unorm. -/
def texelChannels (fmt bits : Nat) : List Exact :=
  let z : Exact := .fin false 0 0
  let one : Exact := .fin false 1 0
  match fmt with
  | 0 => (Machine.elems 16 bits).map (Num.decode .f16)
  | 1 => [Num.decode .f32 (bits % 2 ^ 32), z, z, one]
  | 2 => (Machine.elems 8 (bits % 2 ^ 32)).take 4 |>.map fun n => .fin false n 0
  | _ => [Num.decode .f16 (bits % 2 ^ 16), Num.decode .f16 (bits / 2 ^ 16 % 2 ^ 16), z, one]

/-- Texels of a sample with their weights in 65,536ths: place in the level, weight. -/
def TexDesc.taps (d : TexDesc) (l : Nat) (point : Bool) (u v : Bool × Nat × Int) : List (Nat × Nat) :=
  let w := d.width l
  let h := d.height l
  let at' := fun (x y : Int) => wrapCoord d.wrv h y * 2 ^ w + wrapCoord d.wru w x
  if point then [(at' (Num.floorAt u.1 u.2.1 (u.2.2 + w) 0) (Num.floorAt v.1 v.2.1 (v.2.2 + h) 0), 65536)]
  else
    let x := Num.floorAt u.1 u.2.1 (u.2.2 + w) 8 - 128
    let y := Num.floorAt v.1 v.2.1 (v.2.2 + h) 8 - 128
    let i := x / 256
    let j := y / 256
    let fx := (x % 256).toNat
    let fy := (y % 256).toNat
    [(at' i j, (256 - fx) * (256 - fy)), (at' (i + 1) j, fx * (256 - fy)), (at' i (j + 1), (256 - fx) * fy), (at' (i + 1) (j + 1), fx * fy)]

/-- A channel: the exact weighted sum, rounded once, and flushed where FLUSH is set, with its SATF bits: OV where it overflows, NV where a sum
of texels none of which is NaN is NaN (R188 to R190, R356). -/
def channel (flush : Bool) (t : TyCode) (fmt : Nat) (xs : List (Nat × Exact)) : Nat × Nat :=
  if xs.any fun x => x.2 == .nan then (Num.canonNan t, 0)
  else
    let s := Num.sumProducts (xs.map fun x => (Exact.fin false x.1 (-16), x.2))
    Num.roundF { Num.rne with flush := flush } t (match fmt, s with
      | 2, .val n m e _ => Num.divE (.fin n m e) (.fin false 255 0)
      | _, p => p)

/-- A coordinate, read under FLUSH, if it is finite (R188). -/
def finiteOf (flush : Bool) (x : Nat) : Option (Bool × Nat × Int) :=
  match Num.decodeFl flush .f32 x with
  | .fin n m e => some (n, m, e)
  | _ => none

/-- The registers that four channels fill (R356). -/
def packChannels (t : TyCode) (cs : List Nat) : List Word :=
  if t = .f32 then
    [BitVec.ofNat 64 (cs.getD 0 0 + 2 ^ 32 * cs.getD 1 0), BitVec.ofNat 64 (cs.getD 2 0 + 2 ^ 32 * cs.getD 3 0)]
  else [BitVec.ofNat 64 (fromElems 16 cs)]

/-- The four NaN channels of a lane. -/
def nanChannels (t : TyCode) : List Word := packChannels t (List.replicate 4 (Num.canonNan t))

/-- The texels of a lane's sample with their weights: none where a coordinate is not finite, or the descriptor is invalid (R356). -/
def TexDesc.texels (d : TexDesc) (flush point : Bool) (l u v : Nat) : List (Nat × Nat) :=
  match finiteOf flush u, finiteOf flush v with
  | some x, some y => if d.valid then (d.taps l point x y).map fun p => (d.level l + p.1 * d.size, p.2) else []
  | _, _ => []

/-- A lane's sample of its texels, none of which give NaN: its words and SATF bits, or the fault of a texel read. A texel of an RO page may be
the core's own older copy (R247, R356). -/
def TexDesc.sample (d : TexDesc) (s : State) (w : Who) (core : Nat) (flush : Bool) (t : TyCode) (texels : List (Nat × Nat)) :
    Except (Nat × Nat × Nat) (List Word × Nat) :=
  let rs := texels.map fun p => (p.1, p.2, s.checkGlobal w .load p.1 d.size)
  match texels, rs.filterMap fun r => (match r.2.2 with | .error f => some (f.1, f.2, r.1) | .ok _ => none) with
  | [], _ => .ok (nanChannels t, 0)
  | _, f :: more => .error (more.foldl (fun a b => if b.1 < a.1 then b else a) f)
  | _, [] =>
    let xs := rs.map fun r =>
      (r.2.1, texelChannels d.fmt (match r.2.2 with | .ok (pa, attr) => s.loadN core attr pa d.size | .error _ => 0))
    let cs := (List.range 4).map fun k => channel flush t d.fmt (xs.map fun x => (x.1, x.2.getD k .nan))
    .ok (packChannels t (cs.map fun c => c.1), cs.foldl (fun a c => a ||| c.2) 0)

/-! ## The level (R356) -/

/-- floor(λ + 1/2) clamped, from an exact λ; 0 for NaN. -/
def levelOf (lvm1 : Nat) : Exact → Nat
  | .nan => 0
  | .inf neg => if neg then 0 else lvm1
  | .fin n m e => (max 0 (min (lvm1 : Int) ((Num.floorAt n m e 1 + 1) / 2))).toNat

/-- The same from ρ, with λ = log2 ρ: the greatest k with 2^(2k) ≤ 2·ρ². -/
def levelOfRho (lvm1 : Nat) : Pre → Nat
  | .nan _ => 0
  | .inf _ => lvm1
  | .val _ m e _ => if m = 0 then 0 else (max 0 (min (lvm1 : Int) (((Nat.log2 (m * m) : Nat) + 2 * e + 1) / 2))).toNat

/-- |x| · 2^k of an exact difference. -/
def absScale (k : Nat) : Pre → Pre
  | .val _ m e st => .val false m (e + k) st
  | .inf _ => .inf false
  | x => x

/-- The greater of two magnitudes; NaN wins. -/
def maxMagnitude : Pre → Pre → Pre
  | .nan a, _ => .nan a
  | _, .nan a => .nan a
  | .inf a, _ => .inf a
  | _, .inf a => .inf a
  | .val _ m e _, .val _ m' e' _ => if Num.ltE (.fin false m e) (.fin false m' e') then .val false m' e' false else .val false m e false

/-- The quad difference of a coordinate, across columns (bit 1) or rows (bit 2); 0 where a partner lane is inactive (R230, R356). -/
def Issue.quadDiff (i : Issue) (hi : Bool) (bit l : Nat) : Pre :=
  let lo := l - (if l / bit % 2 = 1 then bit else 0)
  let up := lo + bit
  let f := fun x => Num.decodeFl i.ctl.flush .f32 (let r := i.read .f32 i.ln.a x; if hi then r / 2 ^ 32 else r % 2 ^ 32)
  if i.active.getLsbD lo && i.active.getLsbD up then Num.addE 0 (f up) (f lo).neg else .val false 0 0 false

/-- The level of a lane. -/
def Issue.texLevel (i : Issue) (d : TexDesc) (l : Nat) : Nat :=
  if i.op = .vsampl then levelOf d.lvm1 (Num.decodeFl i.ctl.flush .f32 (i.read .f32 i.ln.c l % 2 ^ 32))
  else
    let du := fun b => absScale d.lw (i.quadDiff false b l)
    let dv := fun b => absScale d.lh (i.quadDiff true b l)
    levelOfRho d.lvm1 (maxMagnitude (maxMagnitude (du 1) (dv 1)) (maxMagnitude (du 2) (dv 2)))

/-! ## The instructions -/

/-- The reads of a sample leave their lines in the core's L1, use their translations (R242, R247), and report uncorrectable errors. -/
def Issue.readTexels (i : Issue) (s : State) (reads : List (Nat × Nat)) : State × BitVec 9 :=
  reads.foldl (fun a r =>
    match a.1.checkGlobal i.g.who .load r.1 r.2 with
    | .ok (pa, attr) => ((a.1.l1Load i.g.core attr pa r.2).noteWalk i.g.who r.1, a.2 ||| a.1.memErrBits pa r.2)
    | .error _ => (a.1.noteWalk i.g.who r.1, a.2)) (s, 0)

/-- What makes a sample wait at issue: I/O space where a window would hold the read (R372), or a store to the bytes that the gang's window
holds (R367). -/
def Issue.sampleWaits (i : Issue) (s : State) (reads : List (Nat × Nat)) : Option Wait :=
  reads.findSome? fun r => match s.checkGlobal i.g.who .load r.1 r.2 with
    | .error _ => none
    | .ok (pa, _) =>
      if i.h.speculates && isIO pa then some (if i.h.window.isSome then .window else .access)
      else if i.h.overlapsHeld false pa r.2 then some .window
      else none

/-- The words of a sample land: what its lanes have, or zero (R80, R356). -/
def Issue.sampled (i : Issue) (s : State) (dests : List Nat) (err : BitVec 9) (rs : List (Nat × Option (List Word × Nat))) : Out :=
  issueLoad s i.ctx fun c1 =>
    match c1.h.shadow dests with
    | none => i.wait s .window
    | some h1 =>
      let v := rs.flatMap fun r =>
        (dests.zip ((r.2.map fun x => x.1).getD (dests.map fun _ => 0))).map fun x => ((x.1, r.1), x.2)
      let satf := rs.foldl (fun a r => a ||| (r.2.map fun x => x.2).getD 0) 0
      .next ({ i with g := i.g.orErr err, h := h1.countDone }.start s
        (i.vop s .time { Writes.none with v := v, satf := BitVec.ofNat 4 satf } dests))

/-- VSAMP and VSAMPL: reads that mark nothing and take no place in the global order (R356, R364, R372). Where only helper lanes are active a
descriptor that cannot be read gives zero and no fault (R80). -/
def sampleWord (op : LOp) (f : Lane) (s : State) : Out :=
  laneWord op f s ownLane fun i =>
    let va := (match i.ln.b with | .s n => i.h.readS n.val | _ => 0).toNat
    let d0 := vnum i.ln.d
    let dests := if i.t = .f32 then [d0, d0 + 1] else [d0]
    match s.checkGlobal i.g.who .load va 16 with
    | .error e =>
      let s1 := s.noteWalk i.g.who va
      if i.workers = [] then i.sampled s1 dests 0 (i.lanes.map fun l => (l, none))
      else s1.loadFault i.ctx (accessTrap .load e (BitVec.ofNat 64 (maskOf i.workers)) va)
    | .ok (pa, attr) =>
      let d : TexDesc := ⟨s.loadN i.g.core attr pa 16⟩
      let point := i.ln.mod.getLsbD 0
      let coord := fun l => i.read .f32 i.ln.a l
      let texels := fun l => d.texels i.ctl.flush point (i.texLevel d l) (coord l % 2 ^ 32) (coord l / 2 ^ 32)
      let rs := i.lanes.map fun l => (l, d.sample s i.g.who i.g.core i.ctl.flush i.t (texels l))
      let reads := (va, 16) :: (i.lanes.flatMap texels).map fun p => (p.1, d.size)
      let after := i.readTexels s reads
      let faults := rs.filterMap fun r => match r.2 with
        | .error e => if i.isHelper r.1 then none else some (r.1, e.2.2, e.1, e.2.1)
        | .ok _ => none
      match laneFault .load faults, i.sampleWaits s reads with
      | some t, _ => after.1.loadFault i.ctx t
      | none, some w => i.wait s w
      | none, none =>
        i.sampled after.1 dests (after.2 ||| (if d.valid then 0 else TEXE))
          (rs.map fun r => (r.1, match r.2 with | .ok x => some x | .error _ => none))

/-- VSAMP (R356). -/
def execVsamp (f : Lane) (s : State) : Out := sampleWord .vsamp f s

/-- VSAMPL (R356). -/
def execVsampl (f : Lane) (s : State) : Out := sampleWord .vsampl f s

/-- The word that VCOV writes in a lane (R349, R357). -/
def Issue.coverage (i : Issue) (l : Nat) : Word :=
  match Table.get [] i.h.records (l / 4), i.g.kernel.pix && i.g.node.isSome with
  | b :: bs, true =>
    let q := ofBytes (b :: bs)
    let pix := l % 4
    let b1 := field 143 128 (q >>> (32 * pix))
    let b2 := field 159 144 (q >>> (32 * pix))
    BitVec.ofNat 64 (
      if i.ln.mod.getLsbD 0 then field 99 96 q + field 103 100 q * 16
      else if i.t = .f32 then Num.ofHalf b1 + 2 ^ 32 * Num.ofHalf b2
      else b1 + 2 ^ 16 * b2)
  | _, _ => 0

/-- VCOV (R357). -/
def execVcov (f : Lane) (s : State) : Out :=
  laneWord .vcov f s ownLane fun i =>
    let d := vnum i.ln.d
    match i.h.shadow [d] with
    | none => i.wait s .window
    | some h =>
      let v := i.lanes.map fun l => ((d, l), i.coverage l)
      .next ({ i with h := h }.start s (i.vop s .time { Writes.none with v := v } [d]))

end Sys2Proof.Machine
end

