-- ==== Sys2Proof/Machine/Records.lean ====
section
/-! DEFINITION. Record passes: EMIT, shader nodes, the rasteriser, blenders and statistics (R280, R345 to R351, R358). -/

namespace Sys2Proof.Machine

open Sys2Proof.Bits
open Sys2Proof.Num (Exact)

/-! ## EMIT (R280) -/

/-- The order key of a lane: SEQ of the quad record from which it was launched (R351). -/
def Gang.orderKey (h : Gang) (pix : Bool) (l : Nat) : Nat :=
  match Table.get [] h.records (l / 4), pix with
  | b :: bs, true => field 95 64 (ofBytes (b :: bs))
  | _, _ => 0xFFFFFFFF

/-- The record of a lane (R280). -/
def Issue.emitRecord (i : Issue) (z l : Nat) : NodeRec :=
  ⟨(List.range (2 * z + 2)).flatMap fun k => toBytes 8 (i.readGroup i.ln.b k l), i.h.orderKey (i.g.kernel.pix && i.g.node.isSome) l, 0⟩

/-- The target node of an EMIT, or the detail of the node-output trap (R280, R385). -/
def State.emitTarget (s : State) (g : Group) (q z : Nat) : Except Nat (Nat × Nat) :=
  match g.node, s.passAt g.tref.slot g.tref.pass with
  | some n, some p =>
    match nodeOut (p.node n) q with
    | none => .error 2
    | some k => if nodeSize (p.node k) = z then .ok (n, k) else .error 3
  | _, _ => .error 1

/-- EMIT (R80, R280). Records that a lane emits while no window is open enter their queue after the lane's earlier accesses (R361): the
word waits for one that has not performed. -/
def execEmit (f : Lane) (s : State) : Out :=
  laneWord .emit f s ownLane fun i =>
    let q := i.ln.x24.toNat % 16
    let z := i.ln.x24.toNat / 16 % 4
    match s.emitTarget i.g q z with
    | .error d => s.trap i.ctx (Trap.inGang 0x0C d i.enabled)
    | .ok (n, k) =>
      let recs := i.workers.map (i.emitRecord z)
      if recs != [] && i.h.window.isNone && i.h.accessPending then i.wait s .access
      else
      let s1 := i.start s (i.vop s (if recs = [] then .time else .emit) .none [])
      if recs = [] then .next s1
      else .next (s1.emitRecords i.g.tref ⟨some (i.g.gid, i.h.id, s.idCount), n, k, recs, i.h.window.isSome⟩)

/-! ## Shader nodes (R347) -/

/-- Nodes with a path to a node; outputs name higher nodes, so one sweep down finds them (R346, R347). -/
def Pass.upstream (p : Pass) (n : Nat) : List Nat :=
  (List.range n).reverse.foldl (fun up k =>
    if (List.range 16).any fun q => match nodeOut (p.node k) q with | some x => x == n || up.contains x | none => false
    then k :: up else up) []

/-- Whether a node of a tile is idle: an empty queue, nothing it still emits, no group of it alive, and no ray of it in a unit (R347, R348). -/
def State.nodeIdle (s : State) (r : RecTile) (n : Nat) : Bool :=
  (r.queue n).isEmpty && !(r.emits.any fun e => e.origin == n)
    && !(s.groups.any fun g => g.tref == r.tref && g.node == some n && g.place != .exited)
    && !(s.rays.any fun y => match y.node with | some (t, k, _) => t == r.tref && k == n | none => false)

/-- Records that a shader node's next group takes, if it starts one now (R347). -/
def State.groupRecords (s : State) (r : RecTile) (p : Pass) (n : Nat) : Option (List NodeRec) :=
  match p.nodeKernels.getD n none with
  | none => none
  | some k =>
    let full := if k.pix then k.gqm1 + 1 else 4 * (k.gqm1 + 1)
    let q := r.queue n
    if full ≤ q.length || (q != [] && (p.upstream n).all (s.nodeIdle r)) then some (q.take full) else none

/-- Helper lanes of a pixel group: the pixels of each quad record that are not covered (R80, R349). -/
def helperMask (recs : List NodeRec) : Nat :=
  recs.foldr (fun x a => field 103 100 (ofBytes x.bytes) + 16 * a) 0

/-- A shader node launches a group (R347, R358). -/
def State.launchNode (s : State) (t : TileRef) (n : Nat) : Option State :=
  match s.recTile? t, s.passAt t.slot t.pass with
  | some r, some p =>
    match s.groupRecords r p n with
    | none => none
    | some recs =>
      let pix := (p.nodeKernels.getD n none).any fun k => k.pix
      let bytes := recs.map fun x => (x.bytes ++ List.replicate (16 * (nodeSize (p.node n) + 1) - x.bytes.length) 0)
      match s.nodeSpec t n (Table.get 0 r.launched n) bytes (if pix then helperMask recs else 0) with
      | none => none
      | some sp =>
        (s.tryPlace (p.rcd.stackOf t.tile) sp).map fun s1 =>
          let covered := recs.foldl (fun a x => a + popcount 4 (field 99 96 (ofBytes x.bytes))) 0
          let s2 := s1.updRecTile t fun r =>
            let r1 := { r.setQueue n ((r.queue n).drop recs.length) with launched := Table.set 0 r.launched n (Table.get 0 r.launched n + 1) }
            if pix then r1.count 3 covered else r1
          s2.drain t
  | _, _ => none

/-- NODE_GROUP_LAUNCH (R347). -/
def execNodeGroupLaunch (slot pass tile node : Nat) (s : State) : Out :=
  match s.launchNode ⟨slot, pass, tile⟩ node with
  | some s1 => .next s1
  | none => .fault .absent

/-! ## The rasteriser (R349, R350) -/

/-- A triangle record (R349). -/
structure Triangle where
  bits : Nat
  deriving DecidableEq, Repr

/-- A coordinate, 0 x, 1 y, 2 z, of a vertex. -/
def Triangle.coord (t : Triangle) (v c : Nat) : Nat := t.bits >>> (96 * v + 32 * c) % 2 ^ 32
def Triangle.iw (t : Triangle) (v : Nat) : Nat := t.bits >>> (320 + 32 * v) % 2 ^ 32

/-- Whether a triangle record has a reserved bit set, and is refused (R11, R349). -/
def Triangle.refused (t : Triangle) : Bool := field 511 416 t.bits != 0

/-- A finite f32 value in units of 2^-149. -/
def unitsOf (x : Nat) : Int :=
  match Num.decode .f32 x with
  | .fin n m e => Num.signed n (m <<< (e + 149).toNat)
  | _ => 0

/-- Whether an f32 pattern is finite. -/
def isFinite (x : Nat) : Bool := match Num.decode .f32 x with | .fin _ _ _ => true | _ => false

/-- The points of a triangle in units of 2^-149. -/
def Triangle.point (t : Triangle) (v : Nat) : Int × Int := (unitsOf (t.coord v 0), unitsOf (t.coord v 1))

/-- Twice the signed area of a, b, c. -/
def area (a b c : Int × Int) : Int := (b.1 - a.1) * (c.2 - a.2) - (c.1 - a.1) * (b.2 - a.2)

/-- Whether every coordinate that the cull test reads is finite. -/
def Triangle.finite (t : Triangle) : Bool := (List.range 9).all fun k => isFinite (t.bits >>> (32 * k) % 2 ^ 32)

/-- The centre of a pixel. -/
def centre (px py : Nat) : Int × Int := ((2 * px + 1 : Nat) * 2 ^ 148, (2 * py + 1 : Nat) * 2 ^ 148)

/-- Whether a point is inside or on the owned side of the edge a to b, with c the third vertex and the area positive (R350). -/
def edgeCovers (a b c q : Int × Int) : Bool :=
  let e := area a b q
  decide (0 < e) || (e == 0 && ((a.2 == b.2 && decide (a.2 < c.2)) || decide (b.2 < a.2)))

/-- Whether a pixel is covered (R350). -/
def Triangle.covers (t : Triangle) (px py : Nat) : Bool :=
  let a := t.point 0
  let b := if 0 < area (t.point 0) (t.point 1) (t.point 2) then t.point 1 else t.point 2
  let c := if 0 < area (t.point 0) (t.point 1) (t.point 2) then t.point 2 else t.point 1
  let q := centre px py
  edgeCovers a b c q && edgeCovers b c a q && edgeCovers c a b q

/-- Whether R350 culls a triangle before coverage. -/
def Triangle.culled (t : Triangle) (cull : Nat) : Bool :=
  let a := area (t.point 0) (t.point 1) (t.point 2)
  !t.finite || a == 0 || (cull == 1 && decide (a < 0)) || (cull == 2 && decide (0 < a))

/-- The pixel ranges that a triangle's vertices span, cut to a grid of w by h pixels: first and one past the last, x then y. -/
def Triangle.bounds (t : Triangle) (w h : Nat) : (Nat × Nat) × (Nat × Nat) :=
  let rng := fun (f : Int × Int → Int) (n : Nat) =>
    let l := [f (t.point 0), f (t.point 1), f (t.point 2)]
    let lo := l.foldl min (f (t.point 0))
    let hi := l.foldl max (f (t.point 0))
    let u : Int := 2 ^ 149
    ((max 0 (min (lo / u) n)).toNat, (max 0 (min (hi / u + 1) n)).toNat)
  (rng (fun p => p.1) w, rng (fun p => p.2) h)

/-- Indices from lo up to hi. -/
def between (r : Nat × Nat) : List Nat := (List.range (r.2 - r.1)).map fun i => r.1 + i

/-- Whether a triangle covers a pixel of any tile of a grid. -/
def Triangle.coversAny (t : Triangle) (w h : Nat) : Bool :=
  let b := t.bounds w h
  (between b.2).any fun y => (between b.1).any fun x => t.covers x y

/-- The owner tile of a triangle (R358): of the pixel (floor(min x), floor(min y)), clamped into the grid. -/
def Triangle.owner (t : Triangle) (rc : PassRec) : Nat :=
  let xs := (List.range 3).map fun v => Num.decode .f32 (t.coord v 0)
  let ys := (List.range 3).map fun v => Num.decode .f32 (t.coord v 1)
  if (xs ++ ys).any fun e => e == .nan then Config.nanOwner t.bits % rc.tiles
  else
    let least := fun (l : List Exact) => l.foldl (fun a b => if Num.ltE b a then b else a) (l.headD .nan)
    let tile := fun (e : Exact) (k n : Nat) =>
      match e with
      | .fin neg m x => (max 0 (min ((Num.floorAt neg m x 0) / (2 ^ k : Nat)) (n - 1 : Nat))).toNat
      | .inf neg => if neg then 0 else n - 1
      | .nan => 0
    tile (least ys) rc.thl rc.gy * rc.gx + tile (least xs) rc.twl rc.gx

/-- One half of BARY at a pixel, rounded once to f16 (R350): vertex 1 or 2. -/
def Triangle.bary (t : Triangle) (v px py : Nat) : Nat :=
  let p := [t.point 0, t.point 1, t.point 2]
  let at' := fun k => p.getD k (0, 0)
  let q := centre px py
  let e := fun k => area (at' ((k + 1) % 3)) (at' ((k + 2) % 3)) q
  let ratio := fun (n d : Int × Int) => (Num.roundF Num.rne .f16 (Num.divE (Num.ofInt n.1 n.2 false) (Num.ofInt d.1 d.2 false))).1
  let ws := (List.range 3).map fun k => t.iw k
  if ws.all fun w => w % 2 ^ 31 == 0 then ratio (e v, 0) (area (at' 0) (at' 1) (at' 2), 0)
  else
    let den := (List.range 3).foldl (fun a k => a + e k * unitsOf (t.iw k)) 0
    if !(ws.all isFinite) || den == 0 then Config.openBary t.bits (2 * (px + 2 ^ 20 * py) + v - 1) % 2 ^ 16
    else ratio (e v * unitsOf (t.iw v), 0) (den, 0)

/-- The quad record of a quad of pixels, if it has a covered one (R349, R350). -/
def Triangle.quad (t : Triangle) (seq qx qy : Nat) : Option (List Byte) :=
  let px := fun i => 2 * qx + i % 2
  let py := fun i => 2 * qy + i / 2
  let cov := maskOf ((List.range 4).filter fun i => t.covers (px i) (py i))
  if cov = 0 then none
  else
    let bary := (List.range 4).foldr (fun i a => t.bary 1 (px i) (py i) + 2 ^ 16 * t.bary 2 (px i) (py i) + 2 ^ 32 * a) 0
    some (toBytes 32 (qx % 2 ^ 16 + qy % 2 ^ 16 * 2 ^ 16 + field 319 288 t.bits * 2 ^ 32 + seq % 2 ^ 32 * 2 ^ 64 + cov * 2 ^ 96
      + (15 - cov) * 2 ^ 100 + bary * 2 ^ 128))

/-- The pixel region of a tile: x then y, first and one past the last (R347). -/
def PassRec.region (rc : PassRec) (tile : Nat) : (Nat × Nat) × (Nat × Nat) :=
  let x := rc.column tile
  let y := rc.row tile
  ((x <<< rc.twl, (x + 1) <<< rc.twl), (y <<< rc.thl, (y + 1) <<< rc.thl))

/-- The quad records of a triangle in a tile, in increasing (QY, QX) (R350). -/
def Triangle.quads (t : Triangle) (rc : PassRec) (tile seq : Nat) : List (List Byte) :=
  let g := rc.region tile
  let b := t.bounds (rc.gx <<< rc.twl) (rc.gy <<< rc.thl)
  let cut := fun (a r : Nat × Nat) => (max a.1 r.1 / 2, ceilDiv (min a.2 r.2) 2)
  (between (cut b.2 g.2)).flatMap fun qy => (between (cut b.1 g.1)).filterMap fun qx => t.quad seq qx qy

/-- RASTERISE: the next triangle of a rasteriser's queue (R350, R358). R11 refuses a record with a reserved bit set; chapter 12 gives it
no status. DESIGN CHOICE (log 83): it keeps its place in the numbering, but gives no quad record and enters no counter. -/
def execRasterise (slot pass tile node : Nat) (s : State) : Out :=
  let t : TileRef := ⟨slot, pass, tile⟩
  match s.recTile? t, s.passAt slot pass with
  | some r, some p =>
    match r.queue node, nodeOut (p.node node) 0 with
    | x :: rest, some target =>
      if nodeType (p.node node) != 1 || r.emits.any (fun e => e.origin == node) then .fault .absent
      else
        let rc := p.rcd
        let tri : Triangle := ⟨ofBytes x.bytes⟩
        let seq := Table.get 0 r.triangles node
        let cull := tri.culled (nodeCull (p.node node))
        let qs := if cull || tri.refused then [] else tri.quads rc tile seq
        let mine := tri.owner rc == tile && !tri.refused
        let gone := cull || !(tri.coversAny (rc.gx <<< rc.twl) (rc.gy <<< rc.thl))
        let r1 := { r.setQueue node rest with triangles := Table.set 0 r.triangles node (seq + 1) }
        let r2 := if mine then (r1.count 0 1).count 1 (if gone then 1 else 0) else r1
        let s1 := s.updRecTile t fun _ => r2.count 2 qs.length
        .next (if qs = [] then s1.drain t
          else s1.emitRecords t ⟨none, node, target, qs.map fun b => ⟨b, seq, 0⟩, false⟩)
    | _, _ => .fault .absent
  | _, _ => .fault .absent

/-! ## Blenders (R349, R351) -/

/-- The agent of a fixed-function unit's translations: its pass, and no core. -/
def State.unitWho (s : State) (t : TileRef) : Who := ⟨none, some (s.frameSerial t.slot, t.pass)⟩

/-- The pixels of a tile, row by row. -/
def PassRec.pixels (rc : PassRec) (tile : Nat) : List (Nat × Nat) :=
  let g := rc.region tile
  (between g.2).flatMap fun y => (between g.1).map fun x => (x, y)

/-- Addresses of a pixel in the colour and the depth target (R351). -/
def colourAddr (n x y : Nat) : Nat := nodeAddr n + 8 * (y * nodePitch n + x)
def depthAddr (n x y : Nat) : Nat := nodeZbase n + 4 * (y * nodePitch n + x)

/-- Reads a number at a virtual address for a unit, or the fault with its address. -/
def State.unitRead (s : State) (w : Who) (va n : Nat) : Except (Nat × Nat × Nat × Nat) Nat :=
  match s.checkGlobal w .load va n with
  | .error f => .error (f.1, f.2, va, 1)
  | .ok (pa, _) => .ok (s.readPhys pa n)

/-- What reads of virtual addresses by a unit do beside giving values: claims of other agents' windows end, dirty lines are written
back, translations are used (R242, R245, R369). -/
def State.unitReads (s : State) (w : Who) (reads : List (Nat × Nat)) : State :=
  reads.foldl (fun t r =>
    match t.checkGlobal w .load r.1 r.2 with
    | .error _ => t.noteWalk w r.1
    | .ok (pa, _) => ((t.noteWalk w r.1).conflict none pa r.2 false).readHome pa r.2) s

/-- The reads with which a blender loads some pixels (R351). -/
def pixelReads (n : Nat) (ps : List (Nat × Nat)) : List (Nat × Nat) :=
  ps.flatMap fun p => (colourAddr n p.1 p.2, 8) :: (if nodeZbase n = 0 then [] else [(depthAddr n p.1 p.2, 4)])

/-- Loads a list of pixels of a blender's targets. -/
def State.loadPixels (s : State) (w : Who) (n : Nat) : List (Nat × Nat) → Except (Nat × Nat × Nat × Nat) (List Pixel)
  | [] => .ok []
  | (x, y) :: rest =>
    match s.unitRead w (colourAddr n x y) 8 with
    | .error e => .error e
    | .ok c =>
      let z := if nodeZbase n = 0 then .ok (Config.openDepth (x + 2 ^ 20 * y) % 2 ^ 32) else s.unitRead w (depthAddr n x y) 4
      match z with
      | .error e => .error e
      | .ok d =>
        match s.loadPixels w n rest with
        | .error e => .error e
        | .ok ps => .ok (⟨BitVec.ofNat 64 c, BitVec.ofNat 32 d⟩ :: ps)

/-- The fault record of a record-pass tile whose fixed-function unit faulted (R348, R390, R392). -/
def State.unitRecord (s : State) (t : TileRef) (gh : Nat) (e : Nat × Nat × Nat × Nat) : List Byte :=
  let rc := (s.passAt t.slot t.pass).map fun p => p.rcd
  toBytes 64 (
    1 + e.2.2.2 * 2 ^ 48 + 1 * 2 ^ 52 + t.slot * 2 ^ 85 + t.pass * 2 ^ 88 + ((rc.map fun r => r.column t.tile).getD 0) * 2 ^ 98
    + ((rc.map fun r => r.row t.tile).getD 0) * 2 ^ 110 + (e.2.1 + e.1 * 2 ^ 16 + 2 ^ 24) * 2 ^ 128 + gh * 2 ^ 160
    + s.nstime * 2 ^ 192 + e.2.2.1 % 2 ^ 56 * 2 ^ 384 + ((s.frameAt t.slot).map fun f => f.ftag.toNat).getD 0 * 2 ^ 448)

/-- A fixed-function unit's fault kills its tile and goes to the owner (R348, R390). -/
def State.unitFault (s : State) (t : TileRef) (e : Nat × Nat × Nat × Nat) : State :=
  let gh := s.newHandle
  let s1 := (s.killRecTile t).lapse t.slot t.pass
  { s1 with handleCount := gh, handles := s1.handles ++ [⟨gh, 1, t, 0, false⟩],
            fq := { s1.fq with waiting := s1.fq.waiting ++ [s.unitRecord t gh e] } }

/-- BLEND: a blender takes the next record of its queue, loading its tile's pixels at the first (R351). -/
def execBlend (slot pass tile node : Nat) (s : State) : Out :=
  let t : TileRef := ⟨slot, pass, tile⟩
  match s.recTile? t, s.passAt slot pass with
  | some r, some p =>
    match r.queue node with
    | x :: rest =>
      if nodeType (p.node node) != 3 then .fault .absent
      else
        let old := Table.get [] r.loaded node
        let here := p.rcd.pixels tile
        let px := if old = [] then s.loadPixels (s.unitWho t) (p.node node) here else .ok old
        let s1 := if old = [] then s.unitReads (s.unitWho t) (pixelReads (p.node node) here) else s
        match px with
        | .error e => .next (s1.unitFault t e)
        | .ok ps =>
          .next ((s1.updRecTile t fun r =>
            { r.setQueue node rest with
              loaded := Table.set [] r.loaded node ps,
              blended := Table.set [] r.blended node (Table.get [] r.blended node ++ [x]) }).drain t)
    | [] => .fault .absent
  | _, _ => .fault .absent

/-- Whether a depth passes (R351). -/
def depthPasses (zmode z old : Nat) : Bool :=
  let a := Num.decode .f32 z
  let b := Num.decode .f32 old
  if zmode = 0 then true
  else if a == .nan || b == .nan then false
  else Num.ltE a b || (zmode == 2 && Num.eqE a b)

/-- A blended channel (R351). -/
def blendChannel (mode src dst alpha : Nat) : Nat :=
  let f := Num.decode .f16
  match mode with
  | 0 => src
  | 1 => (Num.roundF Num.rne .f16 (Num.addE 0 (f src) (f dst))).1
  | _ =>
    let k := Num.addE 0 (.fin false 1 0) (f alpha).neg
    let m : Num.Pre := match k with
      | .nan a => .nan a
      | .inf n => Num.mulE (f dst) (.inf n)
      | .val n m e _ => Num.mulE (f dst) (.fin n m e)
    (Num.roundF Num.rne .f16 (Num.addP 0 (f src).pre m)).1

/-- A pixel after a colour record, and whether the record passed (R351). -/
def blendPixel (n : Nat) (rgba z : Nat) (p : Pixel) : Pixel × Bool :=
  if !depthPasses (nodeZmode n) z p.z.toNat then (p, false)
  else
    let c := fromElems 16 ((List.range 4).map fun k =>
      blendChannel (nodeBlend n) (elem 16 rgba k) (elem 16 p.rgba.toNat k) (elem 16 rgba 3))
    (⟨BitVec.ofNat 64 c, if nodeZmode n = 0 then p.z else BitVec.ofNat 32 z⟩, true)

/-- Applies colour records, in order, to a tile's pixels: the pixels, and the records applied and passed (R351, R358). A record with a
reserved bit set, which R11 refuses, is discarded as one outside the tile is (DESIGN CHOICE, log 83). -/
def blendAll (n : Nat) (rc : PassRec) (tile : Nat) (ps : List Pixel) (recs : List NodeRec) : List Pixel × Nat × Nat :=
  let g := rc.region tile
  recs.foldl (fun a r =>
    let b := ofBytes r.bytes
    let x := field 109 96 b
    let y := field 123 110 b
    if field 127 124 b != 0 || x < g.1.1 || g.1.2 ≤ x || y < g.2.1 || g.2.2 ≤ y then a
    else
      let k := (y - g.2.1) * (g.1.2 - g.1.1) + (x - g.1.1)
      match a.1[k]? with
      | none => a
      | some p =>
        let z := blendPixel n (b % 2 ^ 64) (field 95 64 b) p
        (a.1.set k z.1, a.2.1 + 1, a.2.2 + (if z.2 then 1 else 0))) (ps, 0, 0)

/-- Writes bytes at a virtual address for a unit, or the fault. -/
def State.unitWrite (s : State) (w : Who) (va : Nat) (bs : List Byte) : Except (Nat × Nat × Nat × Nat) State :=
  match s.checkGlobal w .store va bs.length with
  | .error f => .error (f.1, f.2, va, 2)
  | .ok (pa, _) => .ok ((s.noteWalk w va).writePhys none pa bs)

/-- Writes some pixels of a blender's buffer to its targets (R348). -/
def State.writePixels (s : State) (w : Who) (n : Nat) : List ((Nat × Nat) × Pixel) → Except (Nat × Nat × Nat × Nat) State
  | [] => .ok s
  | (xy, p) :: rest =>
    match s.unitWrite w (colourAddr n xy.1 xy.2) (toBytes 8 p.rgba.toNat) with
    | .error e => .error e
    | .ok s1 =>
      if nodeZbase n = 0 then s1.writePixels w n rest
      else
        match s1.unitWrite w (depthAddr n xy.1 xy.2) (toBytes 4 p.z.toNat) with
        | .error e => .error e
        | .ok s2 => s2.writePixels w n rest

/-- The blenders of a tile write their targets, lowest node first; the colour counters grow (R348, R351, R358). Fuel counts nodes. -/
def State.flushBlenders (s : State) (r : RecTile) (p : Pass) : List Nat → Except (Nat × Nat × Nat × Nat) (State × RecTile)
  | [] => .ok (s, r)
  | n :: ns =>
    let px := Table.get [] r.loaded n
    if px = [] then s.flushBlenders r p ns
    else
      let recs := sortBy (fun (x : NodeRec) => [x.key, x.arrival]) (Table.get [] r.blended n)
      let b := blendAll (p.node n) p.rcd r.tref.tile px recs
      match s.writePixels (s.unitWho r.tref) (p.node n) ((p.rcd.pixels r.tref.tile).zip b.1) with
      | .error e => .error e
      | .ok s1 => s1.flushBlenders ((r.count 6 b.2.1).count 7 b.2.2) p ns

/-- Far adds of the counters to the words of STATADDR, after the blender writes; none to an uncorrectable line (R358, R407). -/
def State.commitStats (s : State) (w : Who) (addr : Nat) : List (Nat × Nat) → Except (Nat × Nat × Nat × Nat) State
  | [] => .ok s
  | (k, n) :: rest =>
    match s.checkGlobal w .atomic (addr + 8 * k) 8 with
    | .error f => .error (f.1, f.2, addr + 8 * k, 3)
    | .ok (pa, _) =>
      let s1 := s.noteWalk w (addr + 8 * k)
      (if s1.memErrBits pa 8 = 0 then s1.writePhys none pa (toBytes 8 (s1.readPhys pa 8 + n)) else s1).commitStats w addr rest

/-- STATADDR (R345). -/
def Pass.statAddr (p : Pass) : Nat := field 119 64 (p.nodes.headD 0)

/-- What a record-pass tile does as it retires (R348, R358): its targets and statistics written, or the fault that kills it instead. -/
def State.finishRecTile (s : State) (r : RecTile) (p : Pass) : Except (Nat × Nat × Nat × Nat) State :=
  match s.flushBlenders r p (List.range p.nodeCount) with
  | .error e => .error e
  | .ok (s1, r1) =>
    if p.statAddr = 0 then .ok s1
    else s1.commitStats (s1.unitWho r.tref) p.statAddr ((List.range 8).zip r1.stats)

end Sys2Proof.Machine
end

