-- ==== Sys2Proof/Machine/RayMath.lean ====
section
/-! DEFINITION. Exact ray tracing: records, boxes, triangles, and the hit that is reported (R352, R353). -/

namespace Sys2Proof.Machine

open Sys2Proof.Bits
open Sys2Proof.Num (Exact)

/-! ## Exact numbers -/

/-- A rational number n / d with d positive. -/
structure Ratio where
  n : Int
  d : Nat
  deriving DecidableEq, Repr

/-- n / d for d not zero. -/
def Ratio.of (n d : Int) : Ratio := if d < 0 then ⟨-n, d.natAbs⟩ else ⟨n, d.natAbs⟩

def Ratio.lt (a b : Ratio) : Bool := decide (a.n * b.d < b.n * a.d)
def Ratio.le (a b : Ratio) : Bool := !b.lt a

/-- A ratio rounded once to f32. -/
def Ratio.bits (a : Ratio) : Nat := (Num.roundF Num.rne .f32 (Num.divE (Num.ofInt a.n 0 false) (.fin false a.d 0))).1

/-- A finite f32 value in units of 2^-149. -/
def rayUnits (x : Nat) : Int :=
  match Num.decode .f32 x with
  | .fin n m e => Num.signed n (m <<< (e + 149).toNat)
  | _ => 0

/-- Whether an f32 pattern is finite. -/
def rayFinite (x : Nat) : Bool := match Num.decode .f32 x with | .fin _ _ _ => true | _ => false

/-- A vector in units of 2^-149. -/
structure Vec where
  x : Int
  y : Int
  z : Int
  deriving DecidableEq, Repr

def Vec.sub (a b : Vec) : Vec := ⟨a.x - b.x, a.y - b.y, a.z - b.z⟩
def Vec.dot (a b : Vec) : Int := a.x * b.x + a.y * b.y + a.z * b.z
def Vec.cross (a b : Vec) : Vec := ⟨a.y * b.z - a.z * b.y, a.z * b.x - a.x * b.z, a.x * b.y - a.y * b.x⟩
def Vec.isZero (a : Vec) : Bool := a.x == 0 && a.y == 0 && a.z == 0

/-- The vector of three f32 patterns. -/
def vecOf (l : List Nat) : Vec := ⟨rayUnits (l.getD 0 0), rayUnits (l.getD 1 0), rayUnits (l.getD 2 0)⟩

/-! ## The ray (R352) -/

/-- A ray record's fields. -/
structure RayRec where
  bits : Nat
  deriving DecidableEq, Repr

namespace RayRec

def word (r : RayRec) (k : Nat) : Nat := r.bits >>> (32 * k) % 2 ^ 32
def origin (r : RayRec) : Vec := vecOf [r.word 0, r.word 1, r.word 2]
def dir (r : RayRec) : Vec := vecOf [r.word 3, r.word 4, r.word 5]
def tmin (r : RayRec) : Nat := r.word 6
def tmax (r : RayRec) : Nat := r.word 7
def bvh (r : RayRec) : Nat := field 311 256 r.bits
def rid (r : RayRec) : Nat := field 351 320 r.bits
def any (r : RayRec) : Bool := r.bits.testBit 352

/-- Whether a reserved bit is set (R352). -/
def refused (r : RayRec) : Bool := field 319 312 r.bits != 0 || field 383 353 r.bits != 0

/-- Whether a ray misses whatever the BVH holds (R353). -/
def idle (r : RayRec) : Bool :=
  let lo := Num.decode .f32 r.tmin
  let hi := Num.decode .f32 r.tmax
  r.dir.isZero || !((List.range 6).all fun k => rayFinite (r.word k)) || lo == .nan || hi == .nan || Num.ltE hi lo

end RayRec

/-- A set of t: a closed interval whose missing ends are unbounded. -/
structure Span where
  lo : Option Ratio
  hi : Option Ratio
  deriving DecidableEq, Repr

/-- Whether a span holds a point. -/
def Span.meets (s : Span) : Bool :=
  match s.lo, s.hi with
  | some a, some b => a.le b
  | _, _ => true

/-- The span with t at least, or at most, a ratio. -/
def Span.atLeast (s : Span) (a : Ratio) : Span := { s with lo := match s.lo with | some b => if a.lt b then some b else some a | none => some a }
def Span.atMost (s : Span) (a : Ratio) : Span := { s with hi := match s.hi with | some b => if b.lt a then some b else some a | none => some a }

/-- The span in which a + b·t is at least 0; none where that is nowhere. -/
def Span.nonneg (s : Option Span) (a b : Int) : Option Span :=
  s.bind fun s =>
    if b = 0 then (if a < 0 then none else some s)
    else if 0 < b then some (s.atLeast (Ratio.of (-a) b)) else some (s.atMost (Ratio.of (-a) b))

/-- [TMIN, TMAX]: no real t lies in it where TMIN is +∞ or TMAX is −∞ (R353). -/
def RayRec.span (r : RayRec) : Option Span :=
  let f := fun x => if rayFinite x then some (Ratio.of (rayUnits x) (2 ^ 149)) else none
  if Num.decode .f32 r.tmin == .inf false || Num.decode .f32 r.tmax == .inf true then none else some ⟨f r.tmin, f r.tmax⟩

/-! ## Boxes (R352, R353) -/

/-- A BVH node's fields. -/
structure BvhNode where
  bits : Nat
  deriving DecidableEq, Repr

/-- Whether a node is malformed (R352). -/
def BvhNode.malformed (n : BvhNode) : Bool :=
  !((List.range 3).all fun k => rayFinite (n.bits >>> (32 * k) % 2 ^ 32))
    || ((List.range 3).any fun k => n.bits >>> (96 + 8 * k) % 256 == 0xFF) || field 127 120 n.bits != 0 || field 511 448 n.bits != 0

/-- Child i's reference. -/
def BvhNode.ref (n : BvhNode) (i : Nat) : Nat := n.bits >>> (320 + 32 * i) % 2 ^ 32

/-- One axis of child i's box: lo and hi in units of 2^-149, or none where it is empty. -/
def BvhNode.axis (n : BvhNode) (i k : Nat) : Option (Int × Int) :=
  let lo := n.bits >>> (128 + 48 * i + 8 * k) % 256
  let hi := n.bits >>> (128 + 48 * i + 24 + 8 * k) % 256
  if hi < lo then none
  else
    let o := rayUnits (n.bits >>> (32 * k) % 2 ^ 32)
    let e := n.bits >>> (96 + 8 * k) % 256
    some (o + (lo : Int) * 2 ^ (e + 22), o + (hi : Int) * 2 ^ (e + 22))

/-- The entry t of child i's box, where the segment meets it: none where it does not. -/
def BvhNode.entry (n : BvhNode) (i : Nat) (r : RayRec) : Option (Option Ratio) :=
  let o := r.origin
  let d := r.dir
  let clip := fun (s : Option Span) (k : Nat) (a b : Int) =>
    match n.axis i k with
    | none => none
    | some (lo, hi) => Span.nonneg (Span.nonneg s (a - lo) b) (hi - a) (-b)
  match clip (clip (clip r.span 0 o.x d.x) 1 o.y d.y) 2 o.z d.z with
  | none => none
  | some s => if s.meets then some s.lo else none

/-! ## Triangles (R353) -/

/-- A hit: t, U, V and the triangle's index. -/
structure Hit where
  t : Ratio
  u : Ratio
  v : Ratio
  prim : Nat
  deriving DecidableEq, Repr

/-- The hit of a triangle of nine f32 patterns, if the segment meets it (R353). -/
def triangleHit (r : RayRec) (prim : Nat) (ws : List Nat) : Option Hit :=
  if !(ws.all rayFinite) then none
  else
    let v0 := vecOf (ws.take 3)
    let e1 := (vecOf ((ws.drop 3).take 3)).sub v0
    let e2 := (vecOf (ws.drop 6)).sub v0
    let n := e1.cross e2
    if n.isZero then none
    else
      let o := r.origin.sub v0
      let d := r.dir
      let nn := n.dot n
      -- barycentric of v1 is (ua + ub t) / nn, of v2 (va + vb t) / nn
      let ua := (o.cross e2).dot n
      let ub := (d.cross e2).dot n
      let va := (e1.cross o).dot n
      let vb := (e1.cross d).dot n
      let inside := fun (s : Option Span) =>
        Span.nonneg (Span.nonneg (Span.nonneg s ua ub) va vb) (nn - ua - va) (-ub - vb)
      let den := d.dot n
      let on := o.dot n
      let start : Option Span :=
        if den = 0 then (if on = 0 then r.span else none)
        else
          let t := Ratio.of (-on) den
          r.span.map fun s => (s.atLeast t).atMost t
      match inside start with
      | none => none
      | some s =>
        if !s.meets then none
        else
          s.lo.map fun t => ⟨t, Ratio.of (ua * t.d + ub * t.n) (nn * t.d), Ratio.of (va * t.d + vb * t.n) (nn * t.d), prim⟩

/-- The better of two hits: less t, then the lower index (R353). -/
def betterHit (a b : Option Hit) : Option Hit :=
  match a, b with
  | some x, some y => if y.t.lt x.t || (!x.t.lt y.t && y.prim < x.prim) then some y else some x
  | some x, none => some x
  | none, y => y

/-! ## Traversal (R353) -/

/-- What a traversal finds: the best candidate, the entry t of each place with a fault, none for one that always counts, and the nodes
that it reached, the last one first. -/
structure Found where
  hit : Option Hit
  faults : List (Option Ratio)
  nodes : List Nat
  deriving DecidableEq, Repr

/-- A reference to follow: its bits, the entry t of its box (none: unbounded), and whether it is the root. -/
structure Ref where
  bits : Nat
  entry : Option Ratio
  root : Bool
  deriving DecidableEq, Repr

/-- Follows references until none is left. `node` and `tri` read a node and a triangle of 9 words, or answer none for a fault. Fuel
bounds the references, of which a BVH of 2^30 nodes has at most 2^32. -/
def followRefs (r : RayRec) (node : Nat → Option Nat) (tri : Nat → Option (List Nat)) : Nat → List Ref → Found → Found
  | 0, _, f => f
  | _, [], f => f
  | k + 1, x :: todo, f =>
    let bad : Found := { f with faults := (if x.root then none else x.entry) :: f.faults }
    match x.bits / 2 ^ 30 with
    | 0 => followRefs r node tri k todo f
    | 1 =>
      let i := x.bits % 2 ^ 30
      match node i with
      | none => followRefs r node tri k todo { bad with nodes := i :: f.nodes }
      | some b =>
        let n : BvhNode := ⟨b⟩
        if n.malformed then followRefs r node tri k todo { bad with nodes := i :: f.nodes }
        else if f.nodes.contains i then followRefs r node tri k todo f
        else
          let more := (List.range 4).filterMap fun c => (n.entry c r).map fun e => (⟨n.ref c, e, false⟩ : Ref)
          followRefs r node tri k (more ++ todo) { f with nodes := i :: f.nodes }
    | 2 =>
      let first := x.bits / 16 % 2 ^ 26
      let g := (List.range (x.bits % 16 + 1)).foldl (fun (g : Found) j =>
        match tri (first + j) with
        | none => { g with faults := (if x.root then none else x.entry) :: g.faults }
        | some ws => { g with hit := betterHit g.hit (triangleHit r (first + j) ws) }) f
      followRefs r node tri k todo g
    | _ => followRefs r node tri k todo bad

/-! ## FLUSH and SATF (R188, R190) -/

/-- An f32 pattern under FLUSH: a subnormal becomes zero of its sign (R188). -/
def flushF32 (x : Nat) : Nat := if x / 2 ^ 23 % 256 = 0 then x / 2 ^ 31 * 2 ^ 31 else x

/-- The first `n` f32 words of a record under FLUSH (R188). -/
def flushWords (n bits : Nat) : Nat :=
  (List.range n).foldl (fun b k => Bits.insert (32 * k) 32 b (flushF32 (b >>> (32 * k) % 2 ^ 32))) bits

/-- The SATF bits of a hit that VTRACE writes: OV where T, which is finite, has overflowed (R190, log 102). -/
def hitFlags (hit : Nat) : BitVec 4 :=
  if field 161 160 hit = 1 && field 30 0 hit == Num.infBits .f32 false then BitVec.ofNat 4 Num.OV else 0

/-- A hit record (R352): T, U, V, PRIM, RID, STATUS. -/
def hitRecord (t u v prim rid status : Nat) : Nat :=
  t + u * 2 ^ 32 + v * 2 ^ 64 + prim % 2 ^ 32 * 2 ^ 96 + rid * 2 ^ 128 + status * 2 ^ 160

/-- The hit record of a ray that misses: T is +∞ and every other field 0, RID with them (R353, log 84). -/
def missRecord : Nat := hitRecord (Num.infBits .f32 false) 0 0 0 0 0

/-- The hit record of a ray that has been traced (R353). -/
def RayRec.report (r : RayRec) (f : Found) : Nat :=
  let fault := hitRecord 0 0 0 0 r.rid 2
  let miss := missRecord
  if r.any then
    match f.hit with
    | some _ => hitRecord 0 0 0 0 r.rid 1
    | none => if f.faults = [] then miss else fault
  else
    match f.hit with
    | none => if f.faults = [] then miss else fault
    | some h =>
      if f.faults.any (fun e => match e with | none => true | some t => t.le h.t) then fault
      else hitRecord h.t.bits h.u.bits h.v.bits h.prim r.rid 1

end Sys2Proof.Machine
end

