-- ==== Sys2Proof/Machine/Rays.lean ====
section
/-! DEFINITION. Traversal units: VTRACE, rays of traversal nodes, treelets (R352 to R355, R403). -/

namespace Sys2Proof.Machine

open Sys2Proof.Bits

/-- Reads n bytes for a traversal unit, outside the global order; none where it faults (R353). -/
def State.bvhRead (s : State) (w : Who) (va n : Nat) : Option Nat :=
  match s.checkGlobal w .load va n with
  | .error _ => none
  | .ok (pa, _) => some (s.readPhys pa n)

/-- The BVH header: NBASE, TBASE, the root reference; none where it cannot be read or is malformed (R352, R353). -/
def State.bvhHeader (s : State) (w : Who) (va : Nat) : Option (Nat × Nat × Nat) :=
  (s.bvhRead w va 64).bind fun h =>
    if field 63 56 h != 0 || field 127 120 h != 0 || field 511 160 h != 0 || field 55 0 h % 4096 != 0 || field 119 64 h % 16 != 0 then none
    else some (field 55 0 h, field 119 64 h, field 159 128 h)

/-- The nine words of a triangle. -/
def State.bvhTriangle (s : State) (w : Who) (va : Nat) : Option (List Nat) :=
  match s.bvhRead w va 16, s.bvhRead w (va + 16) 16, s.bvhRead w (va + 32) 4 with
  | some a, some b, some c => some (((List.range 4).map fun k => a >>> (32 * k) % 2 ^ 32) ++ ((List.range 4).map fun k => b >>> (32 * k) % 2 ^ 32) ++ [c])
  | _, _, _ => none

/-- What the traversal of a ray in a BVH finds: NBASE, TBASE and the root reference given (R353). -/
def State.walkRay (s : State) (w : Who) (r : RayRec) (nb tb root : Nat) : Found :=
  followRefs r (fun i => s.bvhRead w (nb + 64 * i) 64) (fun k => s.bvhTriangle w (tb + 48 * k)) (2 ^ 33) [⟨root, none, true⟩] ⟨none, [], []⟩

/-- The hit record of a ray (R353). -/
def State.traceRay (s : State) (w : Who) (bits : Nat) : Nat :=
  let r : RayRec := ⟨bits⟩
  if r.refused then hitRecord 0 0 0 0 r.rid 2
  else if r.idle then missRecord
  else
    match s.bvhHeader w r.bvh with
    | none => hitRecord 0 0 0 0 r.rid 2
    | some (nb, tb, root) => r.report (s.walkRay w r nb tb root)

/-- The list without an element that follows an equal one. -/
def dedup : List Nat → List Nat
  | a :: b :: l => if a = b then dedup (b :: l) else a :: dedup (b :: l)
  | l => l

/-- The treelets that a ray waits for one after another, each as one more than its address: those of the nodes it reaches (R354). -/
def State.rayPath (s : State) (w : Who) (bits : Nat) : List Nat :=
  let r : RayRec := ⟨bits⟩
  if r.refused || r.idle then []
  else
    match s.bvhHeader w r.bvh with
    | some (nb, tb, root) => dedup ((s.walkRay w r nb tb root).nodes.reverse.map fun i => nb + 4096 * (i / 64) + 1)
    | none => []

/-- A ray that enters a unit (R354). -/
def State.newRay (s : State) (w : Who) (unit bits : Nat) : Ray :=
  let p := s.rayPath w bits
  { unit := unit, bits := bits, entered := s.nstime, treelet := p.headD 0, path := p.tail, forced := false, lane := none, node := none }

/-- Who a ray's reads are made for: its group, or the pass of its tile. -/
def State.rayWho (s : State) (y : Ray) : Who :=
  match y.lane, y.node with
  | some (gid, _), _ => ((s.group? gid).map fun g => g.who).getD ⟨none, none⟩
  | none, some (t, _, _) => s.unitWho t
  | none, none => ⟨none, none⟩

/-- VTRACE (R355): one ray a lane, into the unit of the core's cluster (R354). FLUSH acts on the operands, which are the ray's f32 words, and on
the f32 results (R188). -/
def execVtrace (f : Lane) (s : State) : Out :=
  irrevocable s fun _ => laneWord .vtrace f s ownLane fun i =>
    let d := vnum i.ln.d
    let rays := i.lanes.map fun l =>
      let bits := (List.range 6).foldr (fun k a => i.readGroup i.ln.a k l + 2 ^ 64 * a) 0
      { s.newRay i.g.who (i.g.core / 8) (if i.ctl.flush then flushWords 8 bits else bits) with
        flush := i.ctl.flush, lane := some (i.g.gid, i.h.id, s.idCount, l, d) }
    let o := i.vop s (if rays = [] then .time else .rays rays.length) .none [d, d + 1, d + 2, d + 3]
    let s1 := { i with h := { i.h with traced := i.h.traced ++ [(s.idCount, o.set, o.dests)] } }.start s { o with trace := true }
    let s2 := s1.updRecTile i.g.tref fun r => r.count 4 (rays.filter fun y => !(RayRec.mk y.bits).refused).length
    .next { s2 with rays := s2.rays ++ rays }

/-! ## The units (R354) -/

/-- Treelets that a unit holds, most recently loaded first. -/
def State.held (s : State) (unit : Nat) : List Nat := ((s.treelets.find? fun t => t.unit == unit).map fun t => t.loaded).getD []

/-- Whether a ray's group is in a save: its hit then goes into the save record (R403). -/
def State.raySaved (s : State) (y : Ray) : Bool :=
  match y.lane with
  | some (gid, _) => (s.group? gid).any fun g => match g.place with | .saved _ _ => true | _ => false
  | none => false

/-- A record at the head of a traversal node's queue of a tile, which enters a given unit: the node. The rays of a node go to the units
of the tile's stack in increasing index, one after another and around again (R354, DEDUCED, log 39). -/
def State.rayEntering (s : State) (r : RecTile) (unit : Nat) : Option Nat :=
  (s.passAt r.tref.slot r.tref.pass).bind fun p =>
    if p.rcd.stackOf r.tref.tile != unit / 12 then none
    else (List.range p.nodeCount).find? fun n =>
      nodeType (p.node n) == 2 && r.queue n != [] && Table.get 0 r.launched n % 12 == unit % 12

/-- The tile and node whose next ray enters a unit. -/
def State.nextRay (s : State) (unit : Nat) : Option (TileRef × Nat) :=
  s.recTiles.findSome? fun r => (s.rayEntering r unit).map fun n => (r.tref, n)

/-- A ray record enters a unit (R354, R358). -/
def State.enterRay (s : State) (unit : Nat) (t : TileRef) (n : Nat) : State :=
  match s.recTile? t with
  | none => s
  | some r =>
    match r.queue n with
    | [] => s
    | x :: rest =>
      let y := { s.newRay (s.unitWho t) unit (ofBytes (x.bytes.take 48)) with node := some (t, n, 0) }
      let s1 := s.updRecTile t fun r =>
        { (r.setQueue n rest).count 4 (if (RayRec.mk y.bits).refused then 0 else 1) with launched := Table.set 0 r.launched n (Table.get 0 r.launched n + 1) }
      ({ s1 with rays := s1.rays ++ [y] }).drain t

/-- The words of a hit record. -/
def hitWords (hit : Nat) : List Word := (List.range 4).map fun k => BitVec.ofNat 64 (hit >>> (64 * k))

/-- The hit record that a ray delivers (R188, R353). -/
def State.hitOf (s : State) (y : Ray) : Nat :=
  let hit := s.traceRay (s.rayWho y) y.bits
  if y.flush then flushWords 3 hit else hit

/-- A lane's hit is written at once, with its SATF bits, and the last one lets the VTRACE land (R192, R355, R369). -/
def Gang.rayDone (h : Gang) (op lane d hit : Nat) (time : Nat) : Gang :=
  match h.ops.find? (fun o => o.id == op) with
  | none => h
  | some o =>
    let w := { Writes.none with v := (List.range 4).map (fun k => ((d + k, lane), (hitWords hit).getD k 0)), satf := hitFlags hit }
    let o1 := { o with
      due := time, lanes := o.lanes &&& ~~~(1#64 <<< lane),
      wait := match o.wait with | .rays (n + 2) => .rays (n + 1) | .rays _ => .time | x => x }
    let h1 := ({ h with ops := h.ops.map (fun (x : VOp) => if x.id = op then o1 else x) } : Gang).apply w
    if o.inWindow then h1 else h1.updWindow fun x => { x with check := x.check.apply w }

/-- STATUS of a hit record, counted in HITS of a record-pass tile (R358). -/
def State.countHit (s : State) (t : TileRef) (hit : Nat) : State :=
  if field 161 160 hit = 1 then s.updRecTile t fun r => r.count 5 1 else s

/-- A resolved ray delivers its hit (R352, R355). -/
def State.deliverRay (s : State) (y : Ray) (hit : Nat) : State :=
  match y.lane, y.node with
  | some (gid, gang, op, lane, d), _ =>
    match s.gangOf? gid gang with
    | none => s
    | some (g, h) => (s.setGroup (g.setGang (h.rayDone op lane d hit s.time))).countHit g.tref hit
  | none, some (t, n, _) =>
    let s1 := s.countHit t hit
    match (s1.passAt t.slot t.pass).bind fun p => nodeOut (p.node n) 0 with
    | none => s1
    | some k => s1.emitRecords t ⟨none, n, k, [⟨toBytes 32 hit, 0xFFFFFFFF, 0⟩], false⟩
  | none, none => s

/-- Whether the unit of a ray holds the treelet of its next node (R354). -/
def State.rayMoves (s : State) (y : Ray) : Bool := y.treelet == 0 || (s.held y.unit).contains y.treelet

/-- The first ray of a unit that can go on: its treelet is held, the unit is not loading an image (R435), and where it has reached its
last treelet, its group is not in a save. -/
def State.readyRay (s : State) (unit : Nat) : Option Ray :=
  if s.loads 3 (unitArg unit) then none
  else s.rays.find? fun y => y.unit == unit && s.rayMoves y && (y.path != [] || !s.raySaved y)

/-- TRAVERSE_RAY: a waiting ray record enters the unit; or else a ray goes on to its next treelet, or is resolved where it has reached
its last (R353, R354). -/
def execTraverseRay (unit : Nat) (s : State) : Out :=
  match (if s.loads 3 (unitArg unit) then none else s.nextRay unit) with
  | some (t, n) => .next (s.enterRay unit t n)
  | none =>
    match s.readyRay unit with
    | none => .fault .absent
    | some y =>
      match y.path with
      | a :: rest => .next { s with rays := s.rays.map fun z => if z = y then { z with treelet := a, path := rest } else z }
      | [] => .next (({ s with rays := s.rays.erase y }).deliverRay y (s.hitOf y))

/-- The treelet that a unit loads next: that of its oldest forced ray, else the one with the longest queue, then the lowest address (R354). -/
def State.nextTreelet (s : State) (unit : Nat) : Option Nat :=
  let waiting := s.rays.filter fun y => y.unit == unit && y.treelet != 0 && !(s.held unit).contains y.treelet
  match leastBy (fun (y : Ray) => [y.entered]) (waiting.filter fun y => y.forced) with
  | some y => some y.treelet
  | none =>
    leastBy (fun t => [waiting.length - (waiting.filter fun y => y.treelet == t).length, t]) ((waiting.map fun y => y.treelet).eraseDups)

/-- TREELET_LOAD: 128 treelets are held, and the least recently loaded leaves (R354). -/
def execTreeletLoad (unit : Nat) (s : State) : Out :=
  match s.nextTreelet unit with
  | none => .fault .absent
  | some t =>
    let now := (t :: s.held unit).take 128
    .next { s with treelets := s.treelets.filter (fun x => x.unit != unit) ++ [⟨unit, now⟩] }

/-- RAY_WAIT_TIMEOUT (R354). -/
def execRayWaitTimeout (unit : Nat) (s : State) : Out :=
  let late := fun (y : Ray) => y.unit == unit && !y.forced && y.treelet != 0 && !(s.held unit).contains y.treelet && y.entered + 20000 ≤ s.nstime
  if s.rays.any late then .next { s with rays := s.rays.map fun y => if late y then { y with forced := true } else y }
  else .fault .absent

end Sys2Proof.Machine
end

