-- ==== Sys2Proof/Machine/SaveRecord.lean ====
section
/-! DEFINITION. The save record: what a save keeps of a group, and where it lies in the save slot (R135, R137, R328, R394, R397, R399 to R402). -/

namespace Sys2Proof.Machine

open Sys2Proof.Bits

/-! ## What a save keeps (R328, R394, R397) -/

/-- The tables of a gang that stopped with every fragment at a HINT whose table could be read (R394, R397). -/
def Gang.hintTables (h : Gang) : Option (List Nat) :=
  if h.frags.isEmpty || h.stop.isSome then none else h.frags.mapM fun f => f.hint.bind fun x => x.2

/-- Registers of the destination groups of outstanding VTRACEs (R397): those that no WAIT of the gang has gone past since their hits were
written, so that R425 holds whatever the timing of the hits (DEDUCED, log 93). -/
def Gang.traceRegs (h : Gang) : List Nat := h.traced.flatMap fun x => x.2.2

/-- Registers of a gang that the save keeps, rising (R397). -/
def Gang.keptRegs (h : Gang) : List Nat :=
  (List.range h.vcount).filter fun n =>
    match h.hintTables with
    | some ts => ts.any (fun t => t.testBit n) || h.traceRegs.contains n
    | none => true

/-- The bytes of a window that a range of a liveness table names, as its 64-byte chunks (R394). -/
def tableChunks (t window : Nat) : List Nat :=
  (List.range 3).flatMap fun r =>
    let w := t >>> (320 + 64 * r)
    let start := w % 2 ^ 32
    let len := w / 2 ^ 32 % 2 ^ 32
    (List.range (window / 64)).filter fun i => start < 64 * i + 64 && 64 * i < start + len



/-- The 64-byte chunks of a group's window that the save keeps (R328, R397). -/
def Group.keptChunks (g : Group) (k : Core) : List Nat :=
  let window := 4096 * g.kernel.scrg
  let live := g.gangs.filter fun h => !h.exited
  match live.mapM fun h => h.hintTables with
  | none => List.range (window / 64)
  | some ts =>
    let spans := g.macros.flatMap fun m => m.spans g k m.steps
    (List.range (window / 64)).filter fun i =>
      ts.any (fun l => l.any fun t => (tableChunks t window).contains i)
        || spans.any fun x => x.1 < 64 * i + 64 && 64 * i < x.1 + x.2

/-- FULLS of R400: the whole window is saved, because some gang that has not exited did not stop at HINTs whose tables could be read (R397,
R425). -/
def Group.fulls (g : Group) : Bool := (g.gangs.filter fun h => !h.exited).any fun h => h.hintTables.isNone

/-- An element of a group's i-th tile as the save engine reads it: an uncorrectable one as NaN; of what type its data are, no one says
(R330, log 109). -/
def Group.tileElem (g : Group) (k : Core) (i e : Nat) : Nat × BitVec 9 := k.readAcc false (8192 * g.tiles.getD i 0 + e)

/-- A gang with its uncorrectable words as readers find them, which is how the save engine reads them: R407 names instructions only (log
110). -/
def Gang.asRead (h : Gang) : Gang :=
  { h with
    v := h.verr.foldl (fun t k => Table.set 0 t k allOnes) h.v,
    s := h.serr.foldl (fun t r => Table.set 0 t r allOnes) h.s,
    p := (h.perr.map fun k => k / 64).foldl (fun t n => Table.set 0 t n (h.readP n)) h.p,
    verr := [], serr := [], perr := [] }

/-- What a save's reads of uncorrectable words leave in ERRSUM: POIS for a tile element (R330), REGE for a register (R407). -/
def Group.saveErr (g : Group) (k : Core) : BitVec 9 :=
  (if k.accErr.any fun key => g.tiles.contains (key / 8192) then POIS else 0)
    ||| if g.gangs.any fun h => h.serr != [] || h.perr != [] || h.verr.any (fun n => h.keptRegs.contains (n / 64)) then REGE else 0

/-- SCRE, where a chunk of the window that a save reads has an uncorrectable word (R407). -/
def Group.windowErr (g : Group) (k : Core) (chunks : List Nat) : BitVec 9 :=
  if k.scratchErr.any fun w => chunks.any fun i => (8 * w - g.window) / 64 == i && g.window ≤ 8 * w then SCRE else 0

/-! ## Layouts (R135, R137, R400 to R402) -/

/-- STATE of a split-table entry (R135). -/
def FragState.code : FragState → Nat
  | .runnable => 1 | .fuseWait => 2 | .parked => 3 | .blocked => 4

/-- WCNT of a fragment (R135, R145). -/
def Gang.wcnt (h : Gang) (f : Fragment) : Nat :=
  (List.range 6).foldl (fun a j => a + h.wcount f.qset j % 64 * 2 ^ (6 * j)) 0

/-- A split-table entry (R135). -/
def Gang.fragBits (h : Gang) (f : Fragment) : Nat :=
  f.fmtf.toNat * 2 ^ 232 + f.ftok.val * 2 ^ 228 + h.wcnt f * 2 ^ 192 + f.fmask.toNat * 2 ^ 128 + f.pc.toNat * 2 ^ 64
    + f.qset.toNat * 2 ^ 16 + h.slot * 2 ^ 8 + f.state.code

/-- A token-stack entry (R137). -/
def TokEntry.bits (e : TokEntry) : Nat :=
  e.fmts.toNat * 2 ^ 66 + e.arr.toNat * 2 ^ 62 + e.pend.toNat * 2 ^ 58 + e.tok.val * 2 ^ 54 + e.addr.toNat

/-- A join-table entry (R137). -/
def Join.bits (j : Join) : Nat := j.fmtj.toNat * 2 ^ 17 + j.expect.toNat * 2 + j.isOpen.toNat

/-- GW, coded as WMAX (R70). -/
def widthCode (w : Nat) : Nat := Nat.log2 (w / 8)

/-- STOP of a gang header (R401). -/
def Gang.stopCode (h : Gang) : Nat :=
  if h.exited then 2 else if h.stop = some .ownerTrap then 3 else if h.hintTables.isSome then 0 else 1

/-- The place of an entry among the gang's fragments. -/
def Gang.fragIndex (h : Gang) (entry : Nat) : Nat := (h.frags.map fun f => f.entry).idxOf entry

/-- The gang header (R401). `baton`: 0 none, 1 holder, 2 blocked in BATON.TAKE. HINTK is the table of the first fragment's HINT, and HFRAG the
number of fragments where the handler fragment has been freed: R401 names neither (DESIGN CHOICE, log 111). -/
def Gang.header (h : Gang) (baton : Nat) : Nat :=
  h.fltmask.toNat * 2 ^ 448 + h.lmask.toNat * 2 ^ 384 + h.ckrb.toNat * 2 ^ 320 + h.helper.toNat * 2 ^ 256
    + byteAddr h.trappc * 2 ^ 200 + h.trapcause.toNat * 2 ^ 168
    + ((h.frags.head?.bind fun f => f.hint).map fun x => x.1).getD 0 * 2 ^ 160
    + (quadsOf h.lmask).toNat * 2 ^ 136 + h.unfinished.length * 2 ^ 132 + h.batch * 2 ^ 128 + h.satf.toNat * 2 ^ 124
    + h.c.toNat * 2 ^ 120 + h.vcount * 2 ^ 111 + h.claim.getD 0 * 2 ^ 102 + baton * 2 ^ 100 + h.handler.isSome.toNat * 2 ^ 99
    + ((h.handler.map fun x => h.fragIndex x.1).getD 0) * 2 ^ 95 + h.stopCode * 2 ^ 93 + widthCode h.width * 2 ^ 91
    + h.frags.length * 2 ^ 86

/-- A failed copy's entry (R401). -/
def Copy.entryBits (c : Copy) : Nat :=
  match c.state with
  | .failed st _ _ => c.word.toNat + c.ch * 2 ^ 64 + c.batch * 2 ^ 68 + st * 2 ^ 72
  | _ => 0

/-- OP of a macro-operation entry (R402). -/
def MacroOp.opCode (m : MacroOp) : Nat :=
  match m.lop with
  | .mmaS => 0xA1 | .mmaCsr => 0xA2 | .mlda => 0xA4 | _ => 0xA5

/-- A macro-operation entry (R402). -/
def MacroOp.entryBits (m : MacroOp) : Nat :=
  let tile := match m.fields.d, m.fields.a with
    | .acc n, _ => n.val
    | _, .acc n => n.val
    | _, _ => 0
  ((m.post.map fun p => p.1).getD 0) * 2 ^ 456 + m.dscB.toNat * 2 ^ 392 + m.dscA.toNat * 2 ^ 328 + m.fmtf.toNat * 2 ^ 304
    + m.step * 2 ^ 288 + m.opCode * 2 ^ 280 + Types.code m.ta * 2 ^ 275 + m.fields.mod.toNat * 2 ^ 271 + m.fields.x24.toNat * 2 ^ 247
    + tile * 2 ^ 244 + m.gang * 2 ^ 239 + m.fields.set.val * 2 ^ 236 + 1

/-- The group header without VALID (R400). -/
def Group.header (g : Group) (now : Nat) : Nat :=
  now * 2 ^ 448 + g.errsum.toNat * 2 ^ 384 + g.meter * 2 ^ 320 + g.spare * 2 ^ 256 + g.kernel.addr.toNat * 2 ^ 192
    + g.tiley * 2 ^ 140 + g.tilex * 2 ^ 128 + g.tref.slot * 2 ^ 122 + g.tref.pass * 2 ^ 112 + g.groupId * 2 ^ 96
    + g.handle.getD 0 * 2 ^ 64 + g.fulls.toNat * 2 ^ 48 + g.core * 2 ^ 40 + g.kernel.scrg * 2 ^ 25 + g.tiles.length * 2 ^ 21
    + g.scr * 2 ^ 16 + widthCode ((g.gangs.head?.map fun h => h.width).getD 8) * 2 ^ 13 + (g.gangs.length - 1) * 2 ^ 8
    + g.macros.length * 2 ^ 4

/-! ## Writing the record (R398, R399) -/

/-- Bytes at an offset of the save slot. -/
abbrev Piece := Nat × List Byte

/-- Offset of a gang's block (R399). -/
def blockAt (gang : Nat) : Nat := 0x1000 + 0x2000 * gang

/-- Offset of register n of lane L of a gang (R399). -/
def imageAt (gang width lane n : Nat) : Nat := 0x100000 + 8 * (320 * (gang * width + lane) + n)

/-- The split-table entries of a gang in its block, sixteen, unused ones zero (R401). -/
def Gang.fragPiece (h : Gang) : Piece :=
  (blockAt h.id + 0x340, (List.range 16).flatMap fun i => toBytes 32 ((h.frags[i]?.map h.fragBits).getD 0))

/-- A gang's block (R401); after a control-state error it is saved without its control state: header, join table, fragments and token
stacks are not written (R404). -/
def Gang.block (h : Gang) (baton : Nat) (failed : List Copy) : List Piece :=
  let at' := blockAt h.id
  [(at', toBytes 64 (h.header baton)),
   (at' + 0x40, (List.range 16).flatMap fun i => toBytes 8 (Table.get Join.closed h.joins i).bits),
   (at' + 0xC0, (List.range 16).flatMap fun i => toBytes 8 (if i = 0 then 0 else (Table.get 0 h.p i).toNat)),
   (at' + 0x140, (List.range 64).flatMap fun i => toBytes 8 (h.readS i).toNat),
   h.fragPiece,
   (at' + 0x540, (List.range 64).flatMap fun i => toBytes 16 ((failed[i]?.map Copy.entryBits).getD 0)),
   (at' + 0xB00, (List.range 16).map fun q => BitVec.ofNat 8 (h.stack q).length)].filter
      (fun p => !h.ctlErr || p.1 == at' + 0xC0 || p.1 == at' + 0x140 || p.1 == at' + 0x540)
  ++ if h.ctlErr then []
    else (List.range 16).flatMap fun q =>
      let st := (h.stack q).reverse
      (List.range st.length).map fun i => (at' + 0xC00 + 256 * q + 16 * i, toBytes 16 ((st[i]?.map TokEntry.bits).getD 0))

/-- A gang's v image: the registers it keeps, in every lane (R397, R399). -/
def Gang.image (h : Gang) : List Piece :=
  (List.range h.width).flatMap fun l => h.saved.map fun n => (imageAt h.id h.width l n, toBytes 8 (h.readV n l).toNat)

/-- Everything but the group header: macro-operations, chunk map, gang blocks, tiles, images (R399). `g` holds its kept registers, chunks
and macro-operations. -/
def Group.pieces (g : Group) (k : Core) (copies : List Copy) : List Piece :=
  let baton := fun (h : Gang) =>
    if k.baton = some (g.gid, h.id) || h.wantsBaton then 1 else if k.batonQ.contains (g.gid, h.id) then 2 else 0
  [(0x100, (List.range 8).flatMap fun i => toBytes 64 ((g.macros[i]?.map MacroOp.entryBits).getD 0)),
   (0x800, toBytes 2048 (maskOf g.chunks))]
  ++ (g.gangs.flatMap fun h => h.block (baton h) (copies.filter fun c => c.gid == g.gid && c.gang == h.id && !c.orphan && c.failed))
  ++ ((List.range g.tiles.length).map fun i =>
      (0x80000 + 0x8000 * i, (List.range 8192).flatMap fun e => toBytes 4 (g.tileElem k i e).1))
  ++ (g.gangs.flatMap Gang.image)
  ++ g.chunks.map fun i => (0x380000 + 64 * i, (List.range 64).map fun x => k.scratchByte (g.window + 64 * i + x))

/-- Physical address of a save slot of a stack (R391, R399). -/
def State.slotBase (s : State) (st slot : Nat) : Nat :=
  (if st = 0 then s.fq.svbase0.toNat else s.fq.svbase1.toNat) * 2 ^ 23 + slot * 2 ^ 23

/-- A write of the save engine; the save area lies in memory (R391). -/
def State.saveWrite (s : State) (pa : Nat) (bs : List Byte) : State :=
  if s.plainRange pa bs.length then s.writePhys none pa bs else s

/-- A read of the save engine. -/
def State.saveRead (s : State) (pa n : Nat) : Nat := if s.plainRange pa n then s.bytesN pa n else 0

/-- Writes pieces of a record. -/
def State.writePieces (s : State) (base : Nat) (ps : List Piece) : State := ps.foldl (fun t p => t.saveWrite (base + p.1) p.2) s

/-- Save slots of a stack in use. -/
def State.slotsUsed (s : State) (st : Nat) : List Nat :=
  s.groups.filterMap fun g => match g.place with
    | .saved slot _ => if g.core / 96 = st then some slot else none
    | _ => none

/-- Save slots of a stack (R391). -/
def State.slotCount (s : State) (st : Nat) : Nat := if st = 0 then s.fq.svn0.toNat else s.fq.svn1.toNat

/-- The lowest free save slot of a stack (R398). -/
def State.freeSaveSlot (s : State) (st : Nat) : Option Nat := (List.range (s.slotCount st)).find? fun i => !(s.slotsUsed st).contains i

end Sys2Proof.Machine
end

