-- ==== Sys2Proof/Machine/Save.lean ====
section
/-! DEFINITION. Saving and restoring a group: stopping, capture, late hits, restore (R328, R329, R396 to R398, R403, R405). -/

namespace Sys2Proof.Machine

open Sys2Proof.Bits

/-! ## Stopping (R396) -/

/-- Parked, in fuse-wait, or blocked in CLAIM or BATON.TAKE (R382, R396). -/
def Fragment.standsStill (f : Fragment) : Bool :=
  match f.state, f.wait with
  | .parked, _ => true
  | .fuseWait, _ => true
  | .blocked, .claim _ => true
  | .blocked, .baton => true
  | _, _ => false

/-- Whether a gang is stopped for a save (R396). -/
def Gang.stopped (h : Gang) : Bool :=
  h.exited || h.stop.isSome || h.frags.all (fun f => f.hint.isSome) || h.frags.all Fragment.standsStill

/-- SAVE_TIMEOUT: 20,000 ns after the save became pending, every gang not yet stopped stops (R396). -/
def execSaveTimeout (gid : Nat) (s : State) : Out :=
  match s.group? gid with
  | none => .fault .absent
  | some g =>
    match g.savePending with
    | some (t, _) =>
      if g.place = .resident && t + 20000000 ≤ s.time && g.gangs.any (fun h => !h.stopped) then
        .next (s.setGroup { g with gangs := g.gangs.map fun h => if h.stopped then h else { h with stop := some .full } })
      else .fault .absent
    | none => .fault .absent

/-! ## Capture (R398) -/

/-- Contributions of an operation that a home slice holds (R275). -/
def State.heldOrdered (s : State) (gid gang op : Nat) : Nat :=
  ((s.vat0.ordered ++ s.vat1.ordered).flatMap fun e => e.held).countP fun x => x.2.gid == gid && x.2.gang == gang && x.2.op == op

/-- Whether a save need not wait for an operation: a VTRACE, held ordered contributions, a macro-operation that it saves (R269, R328,
R397). -/
def State.leavesOut (s : State) (g : Group) (h : Gang) (o : VOp) : Bool :=
  match o.wait with
  | .rays _ => true
  | .bank n => n == s.heldOrdered g.gid h.id o.id
  | .macroOp => (s.core g.core).macros.any fun m => m.op == o.id && m.byDescriptor
  | _ => false

/-- Whether a group whose save is pending is stopped, and everything of it has drained, with the writes of the fixed-latency instructions that
it has issued (R105, R295, R328, R373, R396, R398, R408). -/
def State.captureReady (s : State) (g : Group) : Bool :=
  g.place == .resident && g.savePending.isSome && (s.core g.core).retraining.isNone
    && g.gangs.all (fun h => h.stopped && h.window.isNone && h.fpend.isEmpty && h.ops.all (s.leavesOut g h))
    && s.copies.all (fun c => c.gid != g.gid || c.orphan || c.tpl.isSome || c.failed)

/-- The running macro-operation of the group stops at a step boundary: the steps done by then take effect (R328). The boundary is a
free value (log 3). -/
def State.interruptMacro (s : State) (g : Group) : State :=
  match (s.core g.core).macros.find? fun m => m.running && m.gid == g.gid with
  | none => s
  | some m =>
    let hi := m.step + Config.stepsDone m.op % (m.steps - m.step)
    let s1 := (s.runMacro g.core m g hi).1
    s1.updCore g.core fun k => { k with
      macros := k.macros.map fun x => if x.op = m.op then { x with running := false, step := hi, payloads := 0, poisoned := [] } else x }

/-- The gang as the graph unit keeps its copy of it while it is saved: one that holds the baton, or that still waits for the baton that it held
when it was saved before, holds it again once it is restored (R329, R393). -/
def Gang.copied (h : Gang) (holder : Bool) : Gang :=
  let h1 := h.asRead
  { h1 with saved := h1.keptRegs, wantsBaton := holder || h.awaitBaton }

/-- A gang in whose control state the save engine finds an error has trapped with CAUSE 0x2C, and FLTMASK names the enabled lanes; one that had
trapped already keeps where, and the fragment that took the trap (R385, R404). -/
def Gang.noticed (h : Gang) (now : Nat) : Gang :=
  if !h.ctlErr then h
  else if h.trapped then
    { h with trapcause := { h.trapcause with route := true, cause := 0x2C, detail := 0 }, faddr := 0, akind := 7,
             fltmask := ((h.frag? h.trapEntry).map h.enabled).getD 0 }
  else
    { h with trapped := true, faultTime := now, trapcause := ⟨h.handler.isSome, true, 0x2C, 0⟩, faddr := 0, akind := 7,
             trappc := (h.frags.head?.map fun f => f.pc).getD h.trappc, trapEntry := (h.frags.head?.map fun f => f.entry).getD 0,
             fltmask := (h.frags.head?.map h.enabled).getD 0 }

/-- A core writes the dirty PRIVATE lines that it holds back to their home slices (R247). -/
def State.flushPrivate (s : State) (core : Nat) : State :=
  { s with caches := { s.caches with l1 := s.caches.l1.map fun x => if x.core = core && x.attr = 3 then { x with dirty := false } else x } }

/-- The fault records of the trapping gangs of a group, in increasing GANGID (R390). -/
def Group.faultRecords (g : Group) (gh : Nat) : List (List Byte) :=
  (g.gangs.filter fun h => h.trapped).map fun h => faultRecord g h gh 0 h.faultTime

/-- SAVE_CAPTURE with a free slot: the record is written, the header last, and the core is released, its dirty PRIVATE lines written back
(R247, R398 to R402, R404). -/
def State.capture (s : State) (g0 : Group) (slot : Nat) : State :=
  let s0 := (((s.interruptMacro g0).charge g0).flushPrivate g0.core)
  let gx := (s0.group? g0.gid).getD g0
  let g : Group := { gx.orErr (gx.saveErr (s0.core gx.core)) with gangs := gx.gangs.map fun (h : Gang) => h.noticed s.nstime }
  let s1 := if gx.gangs.any fun h => h.ctlErr && !h.trapped then s0.lapse g.tref.slot g.tref.pass else s0
  let k := s1.core g.core
  let trapped := g.gangs.any fun h => h.trapped
  let gh := s1.newHandle
  let g1 := { g with
    gangs := g.gangs.map fun (h : Gang) => h.copied (k.baton == some (g.gid, h.id)),
    macros := k.macros.filter fun m => m.gid == g.gid,
    handle := if trapped then some gh else none }
  let g2 := { g1.orErr (g1.windowErr k (g1.keptChunks k)) with chunks := g1.keptChunks k }
  let base := s1.slotBase (g.core / 96) slot
  let head := toBytes 256 (g2.header s1.nstime)
  let s2 := s1.writePieces base (g2.pieces k s1.copies)
  let s3 := (s2.saveWrite (base + 1) (head.drop 1)).saveWrite base ((head.take 1).map fun b => b ||| 1)
  let g3 := { g2 with place := .saved slot (!trapped), savePending := none }
  let s4 := (s3.releaseCore g3 false).setGroup g3
  if trapped then
    { s4 with
      handleCount := gh, handles := s4.handles ++ [⟨gh, 0, g.tref, 0, false⟩],
      fq := { s4.fq with waiting := s4.fq.waiting ++ g3.faultRecords gh } }
  else s4

/-- The gang of a record-pass group in whose control state the save engine finds an error: its tile is killed (R348, R390, R404). -/
def State.brokenRecGang (s : State) (g : Group) : Option Gang :=
  if s.recTiles.any fun r => r.tref == g.tref then g.gangs.find? fun h => h.ctlErr else none

/-- SAVE_CAPTURE (R398); without a free slot the group waits, and SVFULL is set. A record-pass group with a control-state error is not
saved: its tile is killed (R348). -/
def execSaveCapture (gid : Nat) (s : State) : Out :=
  match s.group? gid with
  | none => .fault .absent
  | some g =>
    if !s.captureReady g then .fault .absent
    else
      match s.brokenRecGang g, s.freeSaveSlot (g.core / 96) with
      | some h, _ => .next (s.ownerRoute g (h.noticed s.nstime))
      | none, some slot => .next (s.capture g slot)
      | none, none => if s.fq.svfull then .fault .absent else .next { s with fq := { s.fq with svfull := true } }

/-! ## Late deliveries (R403) -/

/-- The WCNT fields of a saved gang's entries in the record. -/
def State.rewriteCounts (s : State) (g : Group) (h : Gang) (slot : Nat) : State :=
  s.saveWrite (s.slotBase (g.core / 96) slot + h.fragPiece.1) h.fragPiece.2

/-- A saved group, its slot, a gang and an operation of it whose time has come. -/
def State.landsInSave (s : State) : Option (Group × Nat × Gang × VOp) :=
  s.groups.findSome? fun g => match g.place with
    | .saved slot _ => g.gangs.findSome? fun h =>
        (h.ops.find? fun o => o.wait == .time && o.due ≤ s.time).map fun o => (g, slot, h, o)
    | _ => none

/-- A hit written into the v image of a save record (R403). -/
def State.hitToImage (s : State) (g : Group) (h : Gang) (slot lane d hit : Nat) : State :=
  (List.range 4).foldl (fun t k =>
    t.saveWrite (t.slotBase (g.core / 96) slot + imageAt h.id h.width lane (d + k)) (toBytes 8 ((hitWords hit).getD k 0).toNat)) s

/-- The SATF and c bits of a saved gang in the record, where a hit sets a flag and the record has the gang's header (R190, R401, R404). -/
def State.rewriteFlags (s : State) (slot gid gang hit : Nat) : State :=
  match s.gangOf? gid gang with
  | none => s
  | some (g, h) =>
    if hitFlags hit = 0 || h.ctlErr then s
    else s.saveWrite (s.slotBase (g.core / 96) slot + blockAt gang + 15) (toBytes 1 (16 * h.satf.toNat + h.c.toNat))

/-- HIT_DELIVERY_TO_SAVE: a hit goes to the v image, or a finished operation's count-down goes to the record (R403). -/
def execHitDeliveryToSave (s : State) : Out :=
  match s.landsInSave with
  | some (g, slot, h, o) =>
    let h1 := { h with ops := h.ops.filter (fun x => x.id != o.id), traced := h.traced.filter fun x => x.1 != o.id || x.2.1 != 0 }
    .next ((s.setGroup (g.setGang h1)).rewriteCounts g h1 slot)
  | none =>
    match s.rays.find? fun y => s.raySaved y && y.path == [] && s.rayMoves y && !s.loads 3 (unitArg y.unit) with
    | none => .fault .absent
    | some y =>
      let hit := s.hitOf y
      let s1 := { s with rays := s.rays.erase y }
      match y.lane with
      | none => .fault .absent
      | some (gid, gang, _, lane, d) =>
        match s1.gangOf? gid gang with
        | some (g, h) =>
          (match g.place with
           | .saved slot _ => .next (((s1.hitToImage g h slot lane d hit).deliverRay y hit).rewriteFlags slot gid gang hit)
           | _ => .fault .absent)
        | none => .fault .absent

/-! ## Restore (R329, R393, R405) -/

/-- What a saved group needs of a core (R72, R88). -/
def Group.need (g : Group) : Need :=
  let live := g.gangs.filter fun h => !h.exited
  ⟨g.scr, live.length, live.foldl (fun n h => n + h.frags.length) 0, g.alloc + g.spare, g.kernel.scrg, g.tiles.length⟩

/-- Whether a saved group is ready for restore: no owner is awaited and no hit is undelivered (R393, R403). -/
def State.restorable (s : State) (g : Group) : Bool :=
  (match g.place with | .saved _ ready => ready | _ => false)
    && !(s.rays.any fun y => match y.lane with | some (gid, _) => gid == g.gid | none => false)

/-- The order key of a saved group (R59). -/
def State.savedKey (s : State) (st : Nat) (g : Group) : List Nat := s.workKey g.tref st g.groupId

/-- The saved groups of a stack that are ready for restore, in the order of R59. -/
def State.restoreQueue (s : State) (st : Nat) : List Group :=
  sortBy (s.savedKey st) (s.groups.filter fun g => g.core / 96 == st && s.restorable g)

/-- A fragment as it resumes: parked work tests its condition again (R149, R405), once the CLAIM of its gang has been granted where one waits
(R174). -/
def Fragment.resumed (f : Fragment) (claimed : Bool) (cycle : Nat) : Fragment :=
  let f1 := { f with hint := none, nextCycle := cycle, readyAt := none }
  match f.wait with
  | .claim _ | .baton | .batchesTo _ _ => f1
  | _ =>
    if f.state = .fuseWait then f1
    else if claimed && f.state == .parked then { f1 with wait := .none, served := some 0 }
    else f1.wake

/-- Enters the handler of a trapping gang as the owner asks (R387, R393). -/
def Gang.enterHandler (h : Gang) (hndlr : BitVec 56) : Gang :=
  { h with
    handler := some (h.trapEntry, (h.frags.filter fun f => f.entry != h.trapEntry).map fun f => f.entry),
    frags := h.frags.map fun f => if f.entry = h.trapEntry then f.jump (BitVec.ofNat 54 (hndlr.toNat / 4)) else f }

/-- A gang restored from its record: the v, s and p images and TRAPPC from memory, the rest from the copy (R393, R397, R405). -/
def Gang.fromRecord (h : Gang) (s : State) (base : Nat) : Gang :=
  let at' := base + blockAt h.id
  let word := fun (off : Nat) => BitVec.ofNat 64 (s.saveRead (at' + off) 8)
  let v := (List.range h.width).flatMap fun l => h.saved.map fun n => (vkey n l, BitVec.ofNat 64 (s.saveRead (base + imageAt h.id h.width l n) 8))
  let trappc := BitVec.ofNat 54 (field 255 202 (s.saveRead at' 64))
  { h with
    v := v.foldl (fun t x => Table.set 0 t x.1 x.2) [],
    s := (List.range 63).foldl (fun t i => Table.set 0 t (i + 1) (word (0x140 + 8 * (i + 1)))) [],
    p := (List.range 15).foldl (fun t i => Table.set 0 t (i + 1) (word (0xC0 + 8 * (i + 1)))) [],
    trappc := trappc,
    frags := h.frags.map fun f => if h.trapped && f.entry = h.trapEntry then { f with pc := trappc } else f }

/-- New split-table entries for a gang's fragments, and everything that names them. -/
def Gang.renumber (h : Gang) (entries : List Nat) : Gang :=
  let old := h.frags.map fun f => f.entry
  let new := fun (e : Nat) => entries.getD (old.idxOf e) 0
  { h with
    frags := h.frags.map fun f => { f with entry := new f.entry },
    handler := h.handler.map fun x => (new x.1, (x.2.filter old.contains).map new),
    trapEntry := new h.trapEntry }

/-- The gangs of a group on a core: slots, home partitions and entries as R67 and R72 give them, one after another. -/
def restoreGangs (build : Gang → Gang) (others : List Gang) : List Nat → List Gang → List Gang
  | _, [] => []
  | used, h :: hs =>
    if h.exited then h :: restoreGangs build others used hs
    else
      let entries := ((List.range 128).filter fun e => !used.contains e).take h.frags.length
      let slot := (lowestFree 64 (others.map fun x => x.slot)).getD 0
      let h1 := { (build h).renumber entries with slot := slot, home := homeOf others h.width }
      h1 :: restoreGangs build (others ++ [h1]) (used ++ entries) hs

/-- The scratchpad window and tiles of a restored group; bytes not saved hold zero (R397, R405). -/
def State.reload (s : State) (core base : Nat) (g : Group) : State :=
  let bytes := (List.range (64 * g.kernel.scrg)).flatMap fun i =>
    if g.chunks.contains i then toBytes 64 (s.saveRead (base + 0x380000 + 64 * i) 64) else List.replicate 64 0
  s.updCore core fun k =>
    let k1 := k.scratchWrite g.window bytes
    (List.range g.tiles.length).foldl (fun k i => (List.range 8192).foldl (fun k e =>
      k.writeAcc (8192 * g.tiles.getD i 0 + e) (s.saveRead (base + 0x80000 + 0x8000 * i + 4 * e) 4)) k) k1

/-- The queues of the new core: saved macro-operations at the tail, be there free entries for all of them or not (log 105), the baton holder at the head, its takers and the claims at the tail
(R88, R329). -/
def State.requeue (s : State) (core : Nat) (g : Group) : State :=
  let live := g.gangs.filter fun h => !h.exited
  let holders := (live.filter fun h => h.wantsBaton).map fun h => (g.gid, h.id)
  let takers := (live.filter fun h => h.frags.any fun f => f.wait == .baton).map fun h => (g.gid, h.id)
  let claims := live.filterMap fun h => h.claim.map fun n => (g.gid, h.id, n)
  let s1 := s.updCore core fun k => { k with
    macros := k.macros ++ g.macros, batonQ := holders ++ k.batonQ ++ takers, claims := k.claims ++ claims }
  if (s1.core core).baton.isNone then s1.passAny core else s1

/-- Owner-route copies of a restored group run again in their channel of the new core's engine, before any gang issues (R289, R294, R295). -/
def State.rerunCopies (s : State) (core : Nat) (g : Group) : State :=
  let mine := fun (c : Copy) => c.gid == g.gid && !c.orphan && (match c.state with | .failed st _ _ => decide (16 ≤ st) | _ => false)
  { s with copies := s.copies.filter (fun c => !mine c) ++ (s.copies.filter mine).map fun c =>
      { c with state := .queued, engine := core / 8, rerun := true } }

/-- Restores a group on a core (R405). -/
def State.restoreOn (s0 : State) (core : Nat) (g : Group) : State :=
  let s := s0.clocked core
  let slot := match g.place with | .saved n _ => n | _ => 0
  let base := s.slotBase (g.core / 96) slot
  let cyc := (s.core core).cycle
  let build := fun (h : Gang) =>
    let h1 := h.fromRecord s base
    let h2 := { h1 with frags := h1.frags.map fun (f : Fragment) => f.resumed h1.claim.isSome cyc, stop := none, lastLane := 0, awaitBaton := h.wantsBaton }
    let h3 := if g.deliver && h.trapped then h2.enterHandler g.kernel.hndlr else h2
    { h3 with trapped := false }
  let gangs := restoreGangs build (s.slotGangs core) (s.entriesUsed core) g.gangs
  let g1 := { g with
    place := .resident, core := core, window := (s.freeWindow core g.kernel.scrg).getD 0, tiles := (s.freeTiles core).take g.tiles.length,
    gangs := gangs, savePending := none, handle := none, since := s.time, deliver := false }
  let k := (s.core core).hand g1.frame g1.window g1.kernel.scrg g1.tiles
  let s1 := (((s.setCore core k).reload core base g1).setGroup { g1 with macros := [], chunks := [] }).endEvicting g.gid
  let s2 := (s1.requeue core g1).rerunCopies core g1
  let s3 := g1.gangs.foldl (fun t h => t.settleBatches g.gid h.id) s2
  match s3.group? g.gid with
  | some x => s3.setGroup { x with gangs := x.gangs.map fun h => { (if h.exited then h else h.fusionAll) with wantsBaton := false, saved := [] } }
  | none => s3

/-- The group restored next on a stack, with its core: the first in order that a core can take (R59, R73, R405). -/
def State.nextRestore (s : State) (st : Nat) : Option (Group × Nat) :=
  (s.restoreQueue st).findSome? fun g => (s.chooseFor st (some g.gid) g.need).map fun c => (g, c)

/-- GROUP_RESTORE (R405). -/
def execGroupRestore (st : StackId) (s : State) : Out :=
  match s.nextRestore st.val with
  | some (g, c) => .next (s.restoreOn c g)
  | none => .fault .absent

end Sys2Proof.Machine
end

