-- ==== Sys2Proof/Machine/Resume.lean ====
section
/-! DEFINITION. The fault queue, GRESUME, pre-emption, eviction and recarving (R60, R69, R290, R382, R390 to R393, R415, R441). -/

namespace Sys2Proof.Machine

open Sys2Proof.Bits

/-! ## The fault queue (R391, R392, R414, R415) -/

/-- The master that an interrupt goes to: the owner (R415). -/
def Owner.now (o : Owner) : Option Master :=
  match o.state with
  | .owned | .giving => some o.owner
  | _ => none

/-- Whether a record written at a physical address is lost (R414). -/
def State.recordLost (s : State) (pa n : Nat) : Bool :=
  s.busError pa || s.busError (pa + n - 1) || regionOf pa == .control || s.memErrBits pa n != 0

/-- A record written to a ring, byte 0 after every other byte (R50, R392, R413). -/
def State.putRecord (s : State) (pa : Nat) (bytes : List Byte) : State :=
  (s.writePhys none (pa + 1) (bytes.drop 1)).writePhys none pa (bytes.take 1)

/-- FAULT_RECORD_WRITE: the oldest waiting record, when the queue is enabled and not full, and its interrupt (R391, R392, R415). -/
def execFaultRecordWrite (s : State) : Out :=
  let q := s.fq
  let size := 2 ^ (q.logn + 6)
  match q.waiting with
  | [] => .fault .absent
  | r :: rest =>
    if !q.en || (q.tail - q.head).toNat == size then .fault .absent
    else
      let pa := q.base.toNat * 4096 + 64 * (q.tail.toNat % size)
      let lost := s.recordLost pa 64
      let s1 := if lost then s else s.putRecord pa r
      let s2 := { s1 with fq := { q with tail := q.tail + 1, werr := q.werr || lost, waiting := rest } }
      match s.own.now with
      | some m => .next { s2 with irqs := s2.irqs ++ [⟨s.time, m, true⟩] }
      | none => .next { s2 with fq := { s2.fq with waitIrq := true } }

/-! ## GRESUME (R393, R441) -/

/-- The engine and channel of a stack with the least load (R290). -/
def State.leastLoaded (s : State) (st : Nat) : Nat × Nat :=
  let load := fun (e : Nat) => (List.range 16).foldl (fun n ch => n + s.channelLoad e ch) 0
  let es := ((List.range Config.enginesPerStack).map fun i => 12 * st + i)
  let e := (leastBy (fun e => [load e, e]) es).getD (12 * st)
  (e, (leastBy (fun ch => [s.channelLoad e ch, ch]) (List.range 16)).getD 0)

/-- The stack on which a tile runs (R54). -/
def State.tileStack (s : State) (t : TileRef) : Nat := ((s.passAt t.slot t.pass).map fun p => p.rcd.stackOf t.tile).getD 0

/-- A failed copy runs again whole, as a copy that waits for a place in its channel (R288, R289, R290, R441). -/
def State.rerunCopy (s : State) (id : Nat) (engine ch : Nat) : State :=
  let hit := s.copies.filter fun c => c.id == id
  { s with copies := s.copies.filter (fun c => c.id != id) ++ hit.map fun c =>
      { c with state := .queued, engine := engine, ch := ch, handle := none } }

/-- A killed record-pass tile that is to run again from its start; its summaries stay (R348, R393, R413). -/
def State.restartTile (s : State) (t : TileRef) : State :=
  ({ s with recTiles := s.recTiles.filter fun r => r.tref != t }).updTile t fun x => { x with state := .released, placed := 0 }

/-- A tile that retires as killed (R393, R417). -/
def State.endTile (s : State) (t : TileRef) : State :=
  ({ s with recTiles := s.recTiles.filter (fun r => r.tref != t),
            colls := s.colls.filter (fun c => c.tref != t),
            handles := s.handles.filter fun x => !(x.unit == 2 && x.tref == t) }).updTile t fun x =>
    { x.finish s.nstime with state := .started, retiredAsKilled := true }

/-- A saved group is killed: every lane exits with no further effect, and its slot frees (R393). -/
def State.killSaved (s : State) (g : Group) : State :=
  let dead := fun (h : Gang) =>
    { h with lmask := 0, frags := [], tokens := [], joins := [], ops := [], claim := none, handler := none, stop := none,
             trapped := false, wantsBaton := false }
  let g1 := { g with place := .exited, spare := 0, gangs := g.gangs.map dead, handle := none, macros := [], chunks := [] }
  ({ s.setGroup g1 with
      copies := s.copies.filter (fun c => c.gid != g.gid || c.orphan || c.tpl.isSome),
      bankQ := s.bankQ.filter (fun b => b.gid != g.gid), vat0 := s.vat0.without (fun gid => gid == g.gid), vat1 := s.vat1.without (fun gid => gid == g.gid),
      rays := s.rays.filter fun y => match y.lane with | some (gid, _) => gid != g.gid | none => true }.updTile g.tref
    fun x => { x with killed := x.killed + 1 }).historyUpdate g1

/-- What GRESUME does with a handle (R393). -/
inductive Act where
  | retry | deliver | kill
  deriving DecidableEq, Repr

/-- GRESUME on a saved group: control-state errors accept only kill, and a kernel without a handler turns deliver into kill (R393). -/
def State.resumeGroup (s : State) (g : Group) (a : Act) : State :=
  let broken := g.gangs.any fun h => h.ctlErr || (h.trapped && h.trapcause.cause == 0x2C)
  let slot := match g.place with | .saved n _ => n | _ => 0
  let ready := fun (deliver : Bool) => s.setGroup { g with place := .saved slot true, handle := none, deliver := deliver }
  match a with
  | .retry => if broken then s.killSaved g else ready false
  | .deliver => if broken || g.kernel.hndlr == 0 then s.killSaved g else ready true
  | .kill => s.killSaved g

/-- GRESUME on a handle, by its UNIT (R393, R404, R441). A copy-pass copy runs again on the engine and channel that it had (log 103). -/
def State.resume (s0 : State) (x : Handle) (a : Act) : State :=
  let s := { s0 with handles := s0.handles.filter fun y => y.gh != x.gh }
  match x.unit with
  | 0 =>
    (match s.groups.find? fun g => g.handle == some x.gh with
     | some g => s.resumeGroup g a
     | none => s)
  | 1 => if a = .retry && !x.killOnly then s.restartTile x.tref else s.endTile x.tref
  | 2 =>
    if a = .retry then
      let s1 := match s.copies.find? fun c => c.id == x.copy with
        | some c => s.rerunCopy x.copy c.engine c.ch
        | none => s
      s1.updTile x.tref fun t => { t with began := some s.nstime }
    else ({ s with copies := s.copies.filter fun c => c.id != x.copy }).endTile x.tref
  | _ =>
    if a = .retry then
      let e := s.leastLoaded (s.tileStack x.tref)
      s.rerunCopy x.copy e.1 e.2
    else
      ({ s with copies := s.copies.filter fun c => c.id != x.copy }).updTile x.tref fun t => { t with killed := t.killed + 1 }

/-- A write to GRESUME (R41, R393). -/
def gresume (m : Master) (gh : BitVec 32) (a : Act) (s : State) : Out :=
  ownerWrite m s fun s =>
    match s.handles.find? fun x => x.gh == gh.toNat with
    | some x => .next (s.resume x a)
    | none => .next { s with fq := { s.fq with rmiss := true } }

/-- GRESUME_RETRY (R393). -/
def execGresumeRetry (m : Master) (gh : BitVec 32) (s : State) : Out := gresume m gh .retry s

/-- GRESUME_DELIVER (R393). -/
def execGresumeDeliver (m : Master) (gh : BitVec 32) (s : State) : Out := gresume m gh .deliver s

/-- GRESUME_KILL (R393). -/
def execGresumeKill (m : Master) (gh : BitVec 32) (s : State) : Out := gresume m gh .kill s

/-! ## Work that waits for a core (R59, R60, R69) -/

/-- A group of a started record tile that a shader node would start now, with what it needs (R347). -/
def State.nodeNeeds (s : State) (st : Nat) : List (List Nat × Need) :=
  s.recTiles.flatMap fun r =>
    match s.passAt r.tref.slot r.tref.pass with
    | none => []
    | some p =>
      if p.rcd.stackOf r.tref.tile != st || r.killed then []
      else (List.range p.nodeCount).filterMap fun n =>
        (s.groupRecords r p n).bind fun recs =>
          (s.nodeSpec r.tref n 0 (recs.map fun x => x.bytes) 0).map fun sp => (s.workKey r.tref st n, s.needOf st sp)

/-- Everything that waits on a stack for a core, with its key of R59, in order: tiles that may start, groups, record-pass groups, saved
groups. -/
def State.waitingWork (s : State) (st : Nat) : List (List Nat × TileRef × Need) :=
  let tiles := ((s.readyTiles st fun k => k ≤ 1).filter fun t => (s.startTile t).isSome).filterMap fun t =>
    (s.firstSpec t).map fun sp => (s.workKey t st 0, t, s.needOf st sp)
  let groups := (s.waitingGroups st).filterMap fun w => (s.waitSpec w).map fun sp => (s.waitKey st w, sp.tref, s.needOf st sp)
  let nodes := s.recTiles.flatMap fun r => (({ s with recTiles := [r] }).nodeNeeds st).map fun (x : List Nat × Need) => (x.1, r.tref, x.2)
  let saved := (s.restoreQueue st).map fun g => (s.savedKey st g, g.tref, g.need)
  sortBy (fun x => x.1) (tiles ++ groups ++ nodes ++ saved)

/-- RECARVE: the lowest empty core takes the carve of a group that no core has room for, unless a recarve under way brings it one
(R69). -/
def execRecarve (st : StackId) (s : State) : Out :=
  match s.recarveFor st.val [] ((s.waitingWork st.val).map fun x => x.2.2) with
  | some (c, scr) => .next (s.beginRecarve c scr)
  | none => .fault .absent

/-! ## Pre-emption (R60) -/

/-- PRIO of the frame of a tile. -/
def State.prioOf (s : State) (t : TileRef) : Nat := ((s.frameAt t.slot).map fun f => f.prio).getD 0

/-- The order in which groups are pre-empted (R60). -/
def State.victimKey (s : State) (st : Nat) (g : Group) : List Nat :=
  let k := s.workKey g.tref st 0
  let tacc := ((s.frameAt g.tref.slot).map fun f => f.tacc).getD 0
  [3 - k.headD 0, s.prioOf g.tref, s.time - tacc, 511 - g.tref.pass, 2 ^ 24 - g.tref.tile, 512 - g.groupId, g.core]

/-- Whether a group is of a record-pass tile, be it launched by a node or by a LAUNCH of the tile (R61, R348). -/
def State.ofRecTile (s : State) (g : Group) : Bool := s.recTiles.any fun r => r.tref == g.tref

/-- Groups that may be pre-empted for waiting work (R60, R398): in slack, of lower priority unless the work is of class 1, and, where
no save slot is free, only those of record passes. -/
def State.victims (s : State) (st : Nat) (work : List Nat × TileRef × Need) : List Group :=
  let pending := (s.groups.filter fun g => g.core / 96 == st && g.savePending.isSome && g.place == .resident).length
  let slots := (List.range (s.slotCount st)).filter fun i => !(s.slotsUsed st).contains i
  s.groups.filter fun g =>
    let c := (s.workKey g.tref st 0).headD 0
    g.place == .resident && g.core / 96 == st && g.savePending.isNone && 2 ≤ c && c ≤ 3
      && (work.1.headD 0 == 1 || s.prioOf g.tref < s.prioOf work.2.1)
      && (s.ofRecTile g || pending < slots.length)

/-- The state without some groups, as placement would see it. -/
def State.without (s : State) (gs : List Group) : State :=
  let s1 := gs.foldl (fun t g => t.releaseCore g false) s
  { s1 with groups := s1.groups.filter fun g => !(gs.any fun x => x.gid == g.gid) }

/-- Whether waiting work would find a core: one that can take it, one that a recarve under way gives its carve, or an empty one to
recarve. -/
def State.wouldFit (s : State) (st : Nat) (n : Need) : Bool :=
  (s.chooseCore st n).isSome || 0 < s.recarvingTo st n.scr || (s.recarvable st n.scr).isSome

/-- The sublists of a length, in order. -/
def choices {A : Type} : Nat → List A → List (List A)
  | 0, _ => [[]]
  | _ + 1, [] => []
  | n + 1, a :: as => (choices n as).map (fun l => a :: l) ++ choices (n + 1) as

/-- The fewest groups whose pre-emption gives waiting work a core, the first in the order of R60; none where it has one, or gets one
from the saves already pending, or where none helps. -/
def State.chooseVictims (s : State) (st : Nat) (work : List Nat × TileRef × Need) : Option (List Group) :=
  let leaving := s.groups.filter fun g => g.place == .resident && g.savePending.isSome
  let s1 := s.without leaving
  if work.1.headD 0 = 3 || s1.wouldFit st work.2.2 then none
  else
    let vs := sortBy (s.victimKey st) (s.victims st work)
    (List.range vs.length).findSome? fun n => (choices (n + 1) vs).find? fun l => (s1.without l).wouldFit st work.2.2

/-- A pre-empted record-pass tile runs again from its start; another group's save becomes pending (R60, R348, R396). -/
def State.preemptGroup (s : State) (g : Group) (why : SaveWhy) : State :=
  if s.ofRecTile g then (s.killRecTile g.tref).restartTile g.tref
  else
    match s.group? g.gid with
    | some x => s.setGroup { x with savePending := some (s.time, why) }
    | none => s

/-- PREEMPT (R60). -/
def execPreempt (st : StackId) (s : State) : Out :=
  match (s.waitingWork st.val).findSome? fun w => s.chooseVictims st.val w with
  | some gs => .next (gs.foldl (fun t g => t.preemptGroup g .preempt) s)
  | none => .fault .absent

/-! ## Eviction (R382) -/

/-- A gang whose every fragment is parked, in fuse-wait, or blocked in CLAIM or BATON.TAKE (R382). -/
def Gang.asleep (h : Gang) : Bool := h.frags.all Fragment.standsStill

/-- The saved group S for which a core would evict: the one for which it does so already, or the first in the order of R59 that is ready, is of
its carve, and finds no core, none evicting for it yet (R382). -/
def State.evictsFor (s : State) (core : Nat) : Option Group :=
  match s.evictingFor core with
  | some g => if (s.chooseFor (core / 96) (some g.gid) g.need).isNone then some g else none
  | none =>
    (s.restoreQueue (core / 96)).find? fun g =>
      (s.core core).scr == g.scr && (s.chooseFor (core / 96) (some g.gid) g.need).isNone && !(s.cores.any fun c => c.2.evictFor == some g.gid)

/-- Whether a core stands in the way of a saved group that is ready: of its carve, and every occupied gang slot asleep (R382). -/
def State.evictable (s : State) (core : Nat) : Bool :=
  (s.slotGangs core) != [] && (s.slotGangs core).all Gang.asleep && (s.evictsFor core).isSome

/-- When a gang parked: the last of its fragments to stand still. -/
def Gang.parkedSince (h : Gang) : Nat := h.frags.foldl (fun n f => max n f.parkedAt) 0

/-- EVICTION: after 4,096 cycles, the group of the gang that parked earliest is saved, when a slot is free, and so on until the core can take the
saved group for which it evicts; until then it takes no other (R382, R398). -/
def execEviction (core : Nat) (s : State) : Out :=
  let gs := s.residents core
  if (4096 ≤ (s.core core).evictCount || (s.evictingFor core).isSome) && s.evictable core && gs.all (fun g => g.savePending.isNone)
      && (s.freeSaveSlot (core / 96)).isSome then
    match s.evictsFor core, leastBy (fun (x : Group × Gang) => [x.2.parkedSince, x.1.gid, x.2.id])
        (gs.flatMap fun g => (g.gangs.filter fun h => !h.exited).map fun h => (g, h)) with
    | some x, some (g, _) =>
      .next ((s.setGroup { g with savePending := some (s.time, .evict) }).updCore core fun k => { k with evictFor := some x.gid })
    | _, _ => .fault .absent
  else .fault .absent

end Sys2Proof.Machine
end

