-- ==== Sys2Proof/Machine/Issue.lean ====
section
/-! DEFINITION. Issue: fetching, which instructions are ready, which the pairs and partitions grant, and the end of a core cycle (R89 to R95, R105 to R107, R125 to R133, R200, R201). -/

namespace Sys2Proof.Machine

open Sys2Proof.Bits

/-! ## Fetch (R89 to R92) -/

/-- What stands at a fragment's program counter: an instruction; an illegal one; a word that cannot be fetched, with the cause and detail of
its trap and its address; or nothing, because the gang's control state is uncorrectable (R404). -/
inductive Fetched where
  | instr (i : Instr)
  | illegal (detail : Nat)
  | fault (cause detail va : Nat)
  | broken
  deriving DecidableEq, Repr

/-- The cause and detail of a failed fetch: an instruction-fetch fault that names the failure, whatever forbids the fetch, R34 and R35 too (R91,
R385). Log 88. -/
def fetchCause (f : Nat × Nat) (va : Nat) : Nat × Nat × Nat := (0x21, f.1, va)

/-- A code word as a core fetches it: the word in memory, or, of a line in its instruction cache, the word before a store changed it; which,
is free (R92). Log 73. -/
def State.codeWord (s : State) (core : Option Nat) (pa : Nat) : Nat :=
  match core, s.caches.old.find? fun x => x.1 == pa / 8 with
  | some k, some (_, v) =>
    if s.caches.icache.contains (k, pa / 128) && Config.staleCode k s.time pa then v.toNat >>> (8 * (pa % 8)) % 2 ^ 32 else s.readPhys pa 4
  | _, _ => s.readPhys pa 4

/-- One code word through the group's translation; one in an uncorrectable line cannot be fetched (R91, R407). -/
def State.fetchWord (s : State) (w : Who) (va : Nat) : Except (Nat × Nat × Nat) Nat :=
  match s.checkGlobal w .fetch va 4 with
  | .error f => .error (fetchCause f va)
  | .ok (pa, _) => if s.memErrBits pa 4 != 0 then .error (0x21, 0x27, va) else .ok (s.codeWord w.core pa)

/-- The `n` words that follow one at an address, or the first that fails. -/
def State.fetchMore (s : State) (w : Who) (va : Nat) : Nat → Except (Nat × Nat × Nat) (List Nat)
  | 0 => .ok []
  | n + 1 =>
    match s.fetchMore w va n with
    | .error e => .error e
    | .ok l =>
      match s.fetchWord w (va + 4 * (n + 1)) with
      | .error e => .error e
      | .ok x => .ok (l ++ [x])

/-- The instruction that words hold; a lane instruction whose operands are illegal is left to its own meaning, which knows the
gang's limits and takes the lowest detail (R90, R116). -/
def decoded (w0 : Nat) (rest : List Nat) : Fetched :=
  match Decode.words w0 (rest.getD 0 0) (rest.getD 1 0) with
  | .ok i => .instr i
  | .error (.lane i) => .instr i
  | .error (.word d) => .illegal d
  | .error .short => .illegal 1

/-- What stands at a program counter (R89 to R91). -/
def State.fetch (s : State) (w : Who) (pc : BitVec 54) : Fetched :=
  match s.fetchWord w (byteAddr pc) with
  | .error e => .fault e.1 e.2.1 e.2.2
  | .ok w0 =>
    match s.fetchMore w (byteAddr pc) (Decode.wordCount w0 - 1) with
    | .error e => .fault e.1 e.2.1 e.2.2
    | .ok rest => decoded w0 rest

/-- What the fetch of a word leaves behind: its translation, and its line in the core's instruction cache (R92, R242, R244). -/
def State.noteFetch (s : State) (w : Who) (va : Nat) : State :=
  let s1 := s.noteWalk w va
  match w.core, s.checkGlobal w .fetch va 4 with
  | some k, .ok (pa, _) =>
    if s1.caches.icache.contains (k, pa / 128) then s1
    else { s1.touchBanks pa 4 with caches := { s1.caches with icache := (k, pa / 128) :: s1.caches.icache } }
  | _, _ => s1

/-- A store of the copy word to the copy aperture is a COPY (R237, R287). -/
def Gang.named (h : Gang) (i : Instr) : Instr :=
  match i with
  | .sst v a off =>
    let va := h.scalarAddr a off
    if inCopyAperture va && va % 8 == 0 && off.toNat % 8 == 0 && off.toNat < 128 then .copy v a (Fin.ofNat 16 (off.toNat / 8)) else i
  | _ => i

/-! ## What an instruction reads and writes, for the interlocks (R95, R107) -/

/-- The s registers that a scalar word reads (R95). -/
def sourcesOf : Instr → List SReg
  | .sadd _ a b | .ssub _ a b | .smul _ a b | .smulh _ a b _ | .sand _ a b | .sor _ a b | .sxor _ a b | .sshl _ a b | .sshr _ a b
  | .ssra _ a b | .smin _ a b | .smax _ a b | .sminn _ a b | .smaxn _ a b | .scmp _ _ a b | .ssel _ a b _ | .park a b _ _
  | .launch a b _ _ | .lease a b | .ffill a b | .qinit a b | .qbyt a b | .qwait a b | .sst a b _ | .ssts a b _ | .copy a b _ => [a, b]
  | .smov _ a | .spopc _ a | .sclz _ a | .fmtset a | .brx a | .batonPass a | .unlease a | .finit a | .ftake _ a | .fpeek _ a _ | .qarr a
  | .saddImm _ a _ | .ssubImm _ a _ | .smulImm _ a _ | .sandImm _ a _ | .sorImm _ a _ | .sxorImm _ a _ | .sshlImm _ a _ | .sshrImm _ a _
  | .ssraImm _ a _ | .sminImm _ a _ | .smaxImm _ a _ | .sminnImm _ a _ | .smaxnImm _ a _ | .scmpImm _ _ a _ | .slih _ a _ | .sliw _ a _
  | .sbfe _ a _ _ | .sld _ a _ | .slds _ a _ | .swr _ a => [a]
  | .sbfi d a _ _ => [d, a]
  | .loop n _ => [n]
  | .ret => [63]
  | _ => []

/-- The s register that a scalar word writes (R107). -/
def destOf : Instr → Option SReg
  | .sadd d _ _ | .ssub d _ _ | .smul d _ _ | .smulh d _ _ _ | .sand d _ _ | .sor d _ _ | .sxor d _ _ | .sshl d _ _ | .sshr d _ _
  | .ssra d _ _ | .smin d _ _ | .smax d _ _ | .sminn d _ _ | .smaxn d _ _ | .ssel d _ _ _ | .smov d _ | .spopc d _ | .sclz d _
  | .fmtget d | .ftake d _ | .fpeek d _ _ | .saddImm d _ _ | .ssubImm d _ _ | .smulImm d _ _ | .sandImm d _ _ | .sorImm d _ _
  | .sxorImm d _ _ | .sshlImm d _ _ | .sshrImm d _ _ | .ssraImm d _ _ | .sminImm d _ _ | .smaxImm d _ _ | .sminnImm d _ _
  | .smaxnImm d _ _ | .sli d _ | .slih d _ _ | .sliw d _ _ | .sbfe d _ _ _ | .sbfi d _ _ _ | .sld d _ _ | .slds d _ _ | .srd d _ => some d
  | .loop n _ => some n
  | .call _ => some 63
  | _ => none

/-- The c bit that a scalar word reads or writes (R95, R107). -/
def cbitOf : Instr → Option CBit
  | .scmp _ k _ _ | .scmpImm _ k _ _ | .ssel _ _ _ k | .launch _ _ _ k | .fpeek _ _ k | .brc _ k _ => some k
  | _ => none

/-- A register, or `n` from a v register on, as `VOp.dests` numbers them: v registers, s from 384 on, predicates from 448 on. -/
def regNumbers (o : Operand) (n : Nat) : List Nat :=
  match o with
  | .v r => (List.range n).map fun k => r.val + k
  | .s r => [384 + r.val]
  | .p r => [448 + r.val]
  | _ => []

/-- The registers a lane instruction of a gang of a width writes: its destination or destination group, with VXLN's predicate, the scale
register of a packing VCVTX, and the register group of MSTA (R107, R226, R228, R311). -/
def laneDests (width : Nat) (op : LOp) (f : Lane) (t : TyCode) (fmt : Nat) : List Nat :=
  (match op, f.d with
    | .msta, .s _ => []
    | .msta, .v _ => regNumbers f.d (tileRegs f t width)
    | _, _ => if (Legal.kinds op f (some t)).1 = .none then [] else regNumbers f.d (groupSize op f t fmt 0))
    ++ (if op = .vxln then regNumbers f.c 1 else [])
    ++ (if op = .vcvtx && Types.isX t && !f.mod.getLsbD 0 then regNumbers (Decode.operand (Legal.scaleCode f)) 1 else [])

/-- Whether a variable-latency write to some register has not landed (R107). -/
def Gang.unlanded (h : Gang) (r : Nat) : Bool := h.ops.any fun o => o.dests.contains r

/-! ## Readiness (R126) -/

/-- An instruction that a fragment would issue now. -/
structure Ready where
  g : Group
  h : Gang
  f : Fragment
  what : Fetched
  deriving DecidableEq, Repr

/-- The lane opcode and fields of what was fetched. A lane encoding that is no instruction, and a word that cannot be fetched, have none: it
takes the partition's scalar slot, and no class phase holds it (R128, log 97). -/
def Fetched.lane? : Fetched → Option (LOp × Lane)
  | .instr i => i.lane?
  | _ => none

/-- Whether a fragment may issue at all in a cycle: runnable, not held by its gang or by a bank that has its word's access, its stall distance past
(R126, R375, R388, R396). -/
def Gang.runs (h : Gang) (f : Fragment) (cycle : Nat) : Bool :=
  f.state == .runnable && !h.frozen && !h.isHeld f.entry && f.hint.isNone && f.nextCycle ≤ cycle
    && (match f.wait with | .bank _ => false | _ => true)

/-- The wait counters of a lane instruction let it issue (R106), and no write to its destination is outstanding (R107). -/
def Gang.laneFree (h : Gang) (f : Fragment) (op : LOp) (ln : Lane) : Bool :=
  let fmt := f.fmtf.toNat
  let t := Types.resolve fmt ln.ty
  (ln.wo.val == 0 || ln.wo.val == 7 || h.wcount f.qset (ln.wo.val - 1) == 0)
    && (ln.set.val == 0 || ln.set.val == 7 || decide (h.wcount f.qset (ln.set.val - 1) < 63))
    && (laneDests h.width op ln t fmt).all fun r => !h.unlanded r

/-- The interlock of scalar words (R95, R107, R200, R375). -/
def Gang.scalarFree (h : Gang) (i : Instr) (cyc : Nat) : Bool :=
  (sourcesOf i).all (fun r => !h.pendingS cyc r.val)
    && (match destOf i with | some d => d == 0 || !h.unlanded (384 + d.val) | none => true)
    && (match cbitOf i with | some k => !h.unlanded (cnum k) | none => true)

/-- Whether the interlocks of what was fetched are clear in a cycle (R95, R106, R107, R126). -/
def Ready.ok (r : Ready) (cyc : Nat) : Bool :=
  match r.what with
  | .instr i =>
    (match i.lane? with
     | some (op, ln) => r.h.laneFree r.f op ln
     | none => r.h.scalarFree i cyc)
  | _ => true

/-- Whether failed copies of a restored group still run again: none of its gangs issues before (R294, R295). -/
def State.rerunning (s : State) (g : Group) : Bool := s.copies.any fun c => c.gid == g.gid && c.rerun

/-- What a fragment of a resident group would issue in a cycle, where the fragment may issue and the interlocks are clear. -/
def State.candidate (s : State) (g : Group) (h : Gang) (f : Fragment) (cyc : Nat) : Option Ready :=
  if !h.runs f cyc then none
  else
    let h1 := h.settle cyc
    let what := if h.ctlErr then .broken else match s.fetch g.who f.pc with
      | .instr i => .instr (h1.named i)
      | w => w
    let r : Ready := ⟨g, h1, f, what⟩
    if r.ok cyc then some r else none

/-- The instructions of a core whose interlocks are clear: all that R126 asks for but what synchronisation holds. -/
def State.candidates (s : State) (core : Nat) : List Ready :=
  (s.residents core).flatMap fun g =>
    if s.rerunning g then []
    else g.gangs.flatMap fun h => h.frags.filterMap fun f => s.candidate g h f (s.core core).cycle

/-! ## Grants (R127, R128, R132, R201) -/

/-- The age of a ready instruction: the cycle in which it became ready, then its entry (R126, R127). -/
def Ready.age (r : Ready) (cycle : Nat) : List Nat := [r.f.readyAt.getD cycle, r.f.entry]

/-- The pair of a gang (R125). -/
def Gang.pair (h : Gang) : Nat := h.home / 2

/-- The class phase of a pair. -/
def Core.phase (k : Core) (pair : Nat) : Nat × Nat := if pair = 0 then k.phase0 else k.phase1

/-- The partitions that a gang's lane instruction takes, and the datapath lanes of each (R125, R127). -/
def Gang.partitions (h : Gang) : List Nat := if h.width = 64 then [h.home, h.home + 1] else [h.home]
def Gang.lanesNeeded (h : Gang) : Nat := min h.width 32

/-- Whether a lane instruction is half-rate (R201). -/
def halfRate (op : LOp) (t : TyCode) : Bool := Types.width t == 64 && 2 ≤ Legal.minClass op t

/-- Adds a gang's lanes to those taken of each partition. -/
def Gang.takeLanes (h : Gang) (l : List Nat) : List Nat := h.partitions.foldl (fun l p => l.modify p fun n => n + h.lanesNeeded) l

/-- What the lane grants of a cycle have taken so far: datapath lanes and opcodes of 0x80 and above, by partition. -/
structure Taken where
  lanes : List Nat
  mem : List Bool
  words : List Ready
  deriving DecidableEq, Repr

/-- A lane instruction is granted if the lanes it needs are still free, and no partition would have a second opcode of 0x80 or above
(R127). -/
def Taken.grant (a : Taken) (r : Ready) (op : LOp) : Taken :=
  let isMem := 0x80 ≤ Legal.opcode op
  if r.h.partitions.all fun p => a.lanes.getD p 0 + r.h.lanesNeeded ≤ 32 && !(isMem && a.mem.getD p false) then
    ⟨r.h.takeLanes a.lanes, if isMem then r.h.partitions.foldl (fun l p => l.set p true) a.mem else a.mem, a.words ++ [r]⟩
  else a

/-- The slots that an instruction takes on its core as it issues (R129, R201). -/
def Core.take (k : Core) (h : Gang) (f : Fragment) (what : Fetched) : Core :=
  match what.lane? with
  | some (op, ln) =>
    { k with
      lanesHeld := if halfRate op (Types.resolve f.fmtf.toNat ln.ty) then h.takeLanes k.lanesHeld else k.lanesHeld,
      stages := k.stages ++ [(k.cycle, ln.cls.val)] }
  | none => k

/-- The lane instructions that a core grants of those ready in its cycle, oldest first: those whose class the pair's phase admits (R127,
R132). -/
def Core.grantLanes (k : Core) (rs : List Ready) : List Ready :=
  ((sortBy (fun r => r.age k.cycle) rs).foldl (fun (a : Taken) r => match r.what.lane? with
    | some (op, ln) => if ln.cls.val ≤ (k.phase r.h.pair).1 then a.grant r op else a
    | none => a) ⟨k.lanesUsed, [false, false, false, false], []⟩).words

/-- What a core grants of the words ready in its cycle: lane instructions, and of each partition the oldest scalar word (R127, R128). -/
def Core.granted (k : Core) (rs : List Ready) : List Ready :=
  k.grantLanes rs ++ [0, 1, 2, 3].filterMap fun p =>
    leastBy (fun r => r.age k.cycle) (rs.filter fun r => r.what.lane?.isNone && r.h.home == p)

/-- The rank of a word among those of its cycle: exits, then GIVEs and passes of the baton, then the rest (R84, R307). -/
def Fetched.rank : Fetched → Nat
  | .instr (.exit _ _) => 0
  | .instr (.give _) | .instr (.batonPass _) | .instr .batonPassAny => 1
  | _ => 2

/-- The order in which the words granted in one cycle take effect: by rank, then by partition and gang slot, and of one gang by
split-table entry, so that the lower of two that trap takes its trap (R84, R200, R261, R307, R386). Log 1. -/
def Ready.order (gs : List Ready) (r : Ready) : List Nat :=
  let mine := gs.filter fun x => x.g.gid == r.g.gid && x.h.id == r.h.id && r.f.entry ≤ x.f.entry
  [mine.foldl (fun m x => min m x.what.rank) 2, r.h.home, r.h.slot, r.f.entry]

/-- The first cycle in which the fragment's next instruction may issue (R105). -/
def Fetched.next (w : Fetched) (cycle : Nat) : Nat :=
  match w.lane? with
  | some (_, ln) => cycle + 1 + ln.st.val
  | none => cycle + 1

/-- The words of an instruction that has been fetched (R89). -/
def Fetched.words : Fetched → Nat
  | .instr i => if i.lane?.isSome then 3 else match i with | .sliw _ _ _ => 2 | _ => 1
  | .illegal _ => 1
  | _ => 0

/-- The word of a grant, whoever has been granted with it. -/
def Grant.isFor (x : Grant) (r : Ready) : Bool := x.gid == r.g.gid && x.gang == r.h.id && x.entry == r.f.entry

/-- The word that is granted with a fragment's word no more waits to issue in this cycle. -/
def Turn.done (t : Turn) (r : Ready) : Turn := { t with grants := t.grants.filter fun x => !x.isFor r }

/-- The state in which a fragment issues: its words fetched, its gang's fixed-latency writes made, the issue named, its slots taken (R105,
R126 to R129). -/
def State.issueStart (s : State) (r : Ready) : State :=
  let k := s.core r.g.core
  let f := { r.f with nextCycle := r.what.next k.cycle, readyAt := none }
  let s1 := ((List.range r.what.words).foldl (fun t n => t.noteFetch r.g.who (byteAddr r.f.pc + 4 * n)) s).setGroup (r.g.setGang (r.h.setFrag f))
  { s1.setCore r.g.core { k.take r.h r.f r.what with turn := k.turn.map fun t => t.done r } with cur := some ⟨r.g.gid, r.h.id, r.f.entry⟩ }

/-- The trap of an instruction that cannot be fetched: precise at its first word, the owner's route (R91, R385). -/
def fetchFault (cause detail va : Nat) (s : State) : Out :=
  withCur s fun c => (s.noteWalk c.g.who va).trap c ⟨cause, detail, c.h.enabled c.f, true, va, 0⟩

/-- The trap of a gang whose control state is uncorrectable: the owner's route (R385, R404). -/
def controlFault (s : State) : Out :=
  withCur s fun c => s.trap c { Trap.inGang 0x2C 0 (c.h.enabled c.f) with owner := true }

/-! ## The beginning of a cycle (R126 to R128) -/

/-- What comes to issue, by the meaning of each instruction. -/
def Fetched.run (w : Fetched) (meaning : Instr → State → Out) (s : State) : Out :=
  match w with
  | .instr i => meaning i s
  | .illegal d => meaning (.illegalInstruction (BitVec.ofNat 16 d)) s
  | .fault cause detail va => fetchFault cause detail va s
  | .broken => controlFault s

/-- Whether a fragment that waits keeps its age: WAIT, WAITB, and a matrix instruction that finds no room (R164, R292, R312). -/
def Wait.keepsAge : Wait → Bool
  | .counter _ _ | .batches _ | .matrix _ => true
  | _ => false

/-- The fragment of an instruction that has come to issue, as it stands afterwards. -/
def State.fragOf? (s : State) (r : Ready) : Option Fragment :=
  (s.gangOf? r.g.gid r.h.id).bind fun x => x.2.frag? r.f.entry

/-- Whether an instruction of `r` that has come to issue stands there still: it has not issued, or, a WAIT, a WAITB or a load whose fault is held
that has, waits on (R164, R292, R371). -/
def Fragment.stands (f : Fragment) (r : Ready) : Bool :=
  f.pc == r.f.pc && (f.wait.unissued || ((f.wait.keepsAge || f.wait == .fault) && f.wait == r.f.wait))

/-- What synchronisation holds an instruction for, if it would not issue now (R126, R148, R164, R173, R267, R292, R312, R365 to R372): its
own meaning says so. -/
def State.heldFor (s : State) (meaning : Instr → State → Out) (r : Ready) : Option Wait :=
  match r.what.run meaning (s.issueStart r) with
  | .next t => (t.fragOf? r).bind fun f => if f.stands r then some f.wait else none
  | _ => none

/-- A fragment at the beginning of a cycle: one whose instruction is ready has its age from the cycle in which it became ready on; one that
waits names what for, and keeps its age where its wait says so (R126, R164, R292, R312). `now` holds the candidates with what holds them. -/
def Fragment.begin (f : Fragment) (now : Option (Option Wait)) (cycle : Nat) : Fragment :=
  match now with
  | some none => { f with readyAt := some (f.readyAt.getD cycle) }
  | some (some w) => { f with wait := w, readyAt := if w.keepsAge then some (f.readyAt.getD cycle) else none }
  | none => { f with readyAt := if f.wait.keepsAge then f.readyAt else none }

/-- The lane instructions ready in a cycle and not granted in it, each with its pair, its class and its age (R131). Log 99. -/
def Core.passedOver (k : Core) (rs granted : List Ready) : List (Nat × Nat × List Nat) :=
  (rs.filter fun r => !granted.contains r).filterMap fun r => r.what.lane?.map fun x => (r.h.pair, x.2.cls.val, r.age k.cycle)

/-- The beginning of a core's cycle: which instructions are ready, which are granted, and the ages. What becomes ready later in the cycle
waits for the next (log 98). -/
def State.beginTurn (s : State) (meaning : Instr → State → Out) (core : Nat) : State :=
  let k := s.core core
  if k.turn.isSome then s
  else
    let tried := (s.candidates core).map fun r => (r, s.heldFor meaning r)
    let rs := (tried.filter fun x => x.2.isNone).map fun x => x.1
    let gs := k.granted rs
    let find := fun (gid gang entry : Nat) =>
      (tried.find? fun x => x.1.g.gid == gid && x.1.h.id == gang && x.1.f.entry == entry).map fun x => x.2
    let s1 : State := { s with groups := s.groups.map fun g =>
      if g.core = core && g.place == .resident then
        { g with gangs := g.gangs.map fun h => { h with frags := h.frags.map fun f => f.begin (find g.gid h.id f.entry) k.cycle } }
      else g }
    s1.setCore core { k with turn := some ⟨gs.map fun r => ⟨r.g.gid, r.h.id, r.f.entry, r.f.pc⟩, k.passedOver rs gs⟩ }

/-- The word of a grant as it stands now: its fragment may still issue it. -/
def State.grantedWord (s : State) (core : Nat) (x : Grant) : Option Ready := do
  let p ← s.gangOf? x.gid x.gang
  let f ← p.2.frag? x.entry
  if p.1.core == core && p.1.place == .resident && f.pc == x.pc then s.candidate p.1 p.2 f (s.core core).cycle else none

/-- What issues next on a core in its current cycle, of what was granted at its beginning (R127, log 98). -/
def State.choose (s : State) (core : Nat) : Option Ready :=
  let gs := ((s.core core).turn.elim [] fun t => t.grants).filterMap fun x => s.grantedWord core x
  leastBy (Ready.order gs) gs

/-! ## What has come to issue -/

/-- A word that stands at issue has not issued: nothing has changed but its wait, and it is tried again in the next cycle (R126, R148). -/
def State.heldAt (s : State) (r : Ready) (w : Wait) : State :=
  let k := s.core r.g.core
  let s1 := s.updGang r.g.gid r.h.id fun h =>
    h.setFrag { r.f with wait := w, readyAt := if w.keepsAge then some (r.f.readyAt.getD k.cycle) else none }
  { s1.setCore r.g.core { k with turn := k.turn.map fun t => t.done r } with cur := none }

/-- After an instruction has issued: nothing is issuing, a WAIT or WAITB that waits keeps its age (R164, R292), and serial mode has gone past
the instruction (R371). -/
def State.issued (s : State) (r : Ready) : State :=
  let cyc := (s.core r.g.core).cycle
  let aged := fun (f : Fragment) => if f.entry = r.f.entry && f.wait.keepsAge then { f with readyAt := some (r.f.readyAt.getD cyc) } else f
  { s.updGang r.g.gid r.h.id fun h => ({ h with frags := h.frags.map aged }).serialPast r.f with cur := none }

/-- The state after an instruction of `s` has come to issue and its meaning has answered `t`. A granted word that a word of the same cycle
has made wait stands at issue. -/
def State.afterIssue (s : State) (r : Ready) (t : State) : State :=
  match t.fragOf? r with
  | some f => if f.wait.unissued && f.pc == r.f.pc then s.heldAt r f.wait else t.issued r
  | none => t.issued r

/-! ## The end of a cycle (R87, R105, R126, R131, R382) -/

/-- The phase of a pair in the next cycle, by the ready lane instructions that the cycle has not granted (R131). Log 99. -/
def nextPhase (k : Core) (pair : Nat) (left : List (Nat × Nat × List Nat)) : Nat × Nat :=
  let p := k.phase pair
  let a := p.2 + 1
  let lanes := left.filter fun x => x.1 == pair
  match leastBy (fun x => x.2.2) lanes with
  | none => (p.1, a)
  | some o =>
    if 64 ≤ a || (16 ≤ a && p.1 < o.2.1) || (16 ≤ a && !(lanes.any fun x => x.2.1 == p.1)) then (o.2.1, 0) else (p.1, a)

/-- A pair with no gang is idle, in phase class 0 with age 0 (R131). -/
def State.pairIdle (s : State) (core pair : Nat) : Bool := !((s.slotGangs core).any fun h => h.pair == pair)

/-- A fragment in the next cycle: YIELD ends (R165). -/
def Fragment.turn (f : Fragment) (cycle : Nat) : Fragment :=
  match f.wait with
  | .cycle n => if n ≤ cycle then { f.wake with tested := false } else f
  | _ => f

/-- The claim-deadlock counts of a core: a change of a pool starts a count again, and the cycle of the change is not one of its 4,096 (R87).
Log 85. -/
def State.deadlockCounts (s : State) (core : Nat) : List (Nat × Nat × Nat) :=
  (s.residents core).filterMap fun g =>
    if !s.claimStuck g then none
    else
      let pools := g.spare + 2 ^ 32 * s.freePool core
      match (s.core core).deadlock.find? fun d => d.1 == g.gid with
      | some d => if d.2.2 = pools then some (g.gid, d.2.1 + 1, pools) else some (g.gid, 0, pools)
      | none => some (g.gid, 1, pools)

/-- The core's clock turns: its counters, phases and slots, and the counts of R87 and R382. A word granted in the cycle no more counts as ready
at its end (R131, log 99). -/
def State.turnCore (s : State) (core : Nat) : State :=
  let k := s.core core
  let ph := fun (pair : Nat) => if s.pairIdle core pair then (0, 0) else nextPhase k pair (k.turn.elim [] fun t => t.left)
  let k1 := k.endCycle (ph 0) (ph 1)
  let s1 := s.setCore core { k1 with
    deadlock := s.deadlockCounts core, evictCount := if s.evictable core then k.evictCount + 1 else 0 }
  { s1 with time := max s.time k1.start }

/-- The gangs of a core in the next cycle: fixed-latency writes made, fragments woken (R105, R165). -/
def State.turnGangs (s : State) (core : Nat) : State :=
  let cyc := (s.core core).cycle
  { s with groups := s.groups.map fun g =>
      if g.core = core && g.place == .resident then
        { g with gangs := g.gangs.map fun h =>
            { h.settle cyc with frags := h.frags.map fun f => f.turn cyc } }
      else g }

/-- CLASS_PHASE_CHANGE: the end of a core's cycle, at which each pair decides its phase (R131). -/
def execClassPhaseChange (core : Nat) (s : State) : Out :=
  if 192 ≤ core then .fault .absent else .next ((s.turnCore core).turnGangs core)

end Sys2Proof.Machine
end

