-- ==== Sys2Proof/Machine/Bus.lean ====
section
/-! DEFINITION. When the vertical bus of a core retrains (R300, R408). -/

namespace Sys2Proof.Machine

/-- Whether an outstanding operation crosses the vertical bus: accesses to global memory, and macro-operations with their operands and readouts
(R297). -/
def VOp.onBus (o : VOp) : Bool :=
  o.bus && match o.wait with
    | .time | .bank _ | .macroOp => true
    | .rays _ | .emit => false

/-- Whether a copy that a gang handed out moves its elements now. -/
def State.copying (s : State) (gid gang : Nat) : Bool :=
  s.copies.any fun c => c.gid == gid && c.gang == gang && (match c.state with | .running _ => true | _ => false)

/-- Whether a fragment is parked, or waits at issue, on a transfer in flight: on a wait counter, on accesses, on copies, or on the wo and set
conditions and the interlocks of its next word (R95, R106, R107, R408). -/
def State.onTransfer (s : State) (g : Group) (h : Gang) (f : Fragment) : Bool :=
  let bus := { h with ops := h.ops.filter VOp.onBus }
  let cyc := (s.core g.core).cycle
  match f.wait with
  | .counter k n => decide (n < h.wcount f.qset k) && decide (0 < bus.wcount f.qset k)
  | .access | .own _ _ | .room _ | .window | .give | .bank _ => f.state == .runnable && !bus.ops.isEmpty
  | .batches _ | .batchesTo _ _ | .seal | .channel _ _ _ => s.copying g.gid h.id
  | .none =>
    f.state == .runnable && !bus.ops.isEmpty
      && (match s.fetch g.who f.pc with
        | .instr i =>
          let r : Ready := ⟨g, h.settle cyc, f, .instr i⟩
          !r.ok cyc && ({ r with h := { r.h with ops := [] } } : Ready).ok cyc
        | _ => false)
  | _ => false

/-- Whether some fragment of a core waits on a transfer in flight (R408). -/
def State.waitsForBus (s : State) (core : Nat) : Bool :=
  (s.residents core).any fun g => g.gangs.any fun h => h.frags.any fun f => s.onTransfer g h f

/-- Whether a retraining that has fallen due starts now (R300, R408). -/
def State.retrains (s : State) (core : Nat) : Bool :=
  let k := s.core core
  k.retraining.isNone && k.retrainDue ≤ s.time
    && (k.retrainDue + 5000000000 ≤ s.time || (!(k.macros.any fun m => m.running) && !s.waitsForBus core))

/-- BUS_RETRAIN: 2 µs without a slot, by which the macro-operation that runs is put off; other transfers take as long as the free latency of
each says. The next retraining falls due 100 ms after this one began (R300, R408). -/
def execBusRetrain (core : Nat) (s : State) : Out :=
  if s.retrains core then
    .next (s.updCore core fun k => { k with
      retraining := some (s.time + 2000000), retrainDue := s.time + 100000000000,
      macros := k.macros.map fun m => if m.running then { m with due := m.due + 2000000 } else m })
  else .fault .absent

end Sys2Proof.Machine
end

