-- ==== Sys2Proof/Machine/Retire.lean ====
section
/-! DEFINITION. Retirement of tiles, completion of passes and frames, completion records and the event ring, copy-pass tiles (R27 to R31, R50, R54, R56 to R58, R290, R409 to R415). -/

namespace Sys2Proof.Machine

open Sys2Proof.Bits

/-! ## When a tile may retire (R409) -/

/-- Groups of a tile. -/
def State.tileGroups (s : State) (t : TileRef) : List Group := s.groups.filter fun g => g.tref == t

/-- Whether the groups, copies, matrix work and launches of a tile are done, and every access of it has performed, contributions that a
home slice holds among them: each precedes every access of the tiles that the retirement releases (R362, R409, R410, log 55). -/
def State.workDone (s : State) (t : TileRef) : Bool :=
  let gs := s.tileGroups t
  gs.all (fun g => g.place == .exited && g.gangs.all fun h => h.ops.isEmpty)
    && !(s.copies.any fun c => c.tref == t) && !(s.launches.any fun e => e.tref == t)
    && !(s.cores.any fun c => c.2.macros.any fun m => gs.any fun g => g.gid == m.gid)

/-- Whether every node of a record-pass tile is idle (R348, R409). -/
def State.nodesDone (s : State) (r : RecTile) (p : Pass) : Bool :=
  !r.killed && r.emits.isEmpty && (List.range p.nodeCount).all (s.nodeIdle r)

/-- Whether a tile may retire but for its targets and statistics (R409). -/
def State.retirable (s : State) (t : TileRef) : Bool :=
  match s.passAt t.slot t.pass, s.tileAt t with
  | some p, some x =>
    x.state == .started && !(s.loads 0 (64 * p.rcd.stackOf t.tile))
      && (x.retiredAsKilled
        || (s.workDone t
          && (match p.rcd.kind with
              | 0 => x.placed == p.rcd.ngroups
              | 1 => (match s.recTile? t with | some r => s.nodesDone r p | none => false)
              | _ => x.engineDone)))
  | _, _ => false

/-! ## Completion (R54, R56, R57, R413) -/

/-- What a number counts up to at most. -/
def upTo (limit n : Nat) : Nat := min n limit

/-- The completion record of 32 bytes: `own` and `above` say through what the promise has lapsed (R57, R413). -/
def completionRecord (f : Frame) (i : Nat) (p : Pass) (now : Nat) (own above byteOver last : Bool) : List Byte :=
  toBytes 32 (
    1 + bitAt last 1 + bitAt (!p.promised) 8 + bitAt own 9 + bitAt above 10 + bitAt (p.nkill != 0) 11 + bitAt byteOver 12
    + upTo 255 p.nkill * 2 ^ 16 + f.slot * 2 ^ 29 + i * 2 ^ 32 + p.sats.toNat * 2 ^ 42 + p.errs.toNat * 2 ^ 46
    + upTo 65535 p.ovrt * 2 ^ 55 + p.retired * 2 ^ 71 + upTo 0xFFFFFFFF p.ovrns * 2 ^ 96 + f.ftag.toNat * 2 ^ 128 + now * 2 ^ 192)

/-- The decrements still on their way that belong to a frame are applied; they change nothing else after its last pass. -/
def State.flushDecrements (s : State) (serial : Nat) : State :=
  let mine := s.decrements.filter fun d => d.frame == serial
  let s1 := mine.foldl (fun u d => u.decrementOn d.stack d.tref d.frame) s
  { s1 with decrements := s1.decrements.filter fun d => d.frame != serial }

/-- A frame whose last pass has completed leaves: its slot, counters and rings go, but for slots of exported transients that
still hold their extra reader (R37, R50, R54). -/
def State.endFrame (s0 : State) (f : Frame) : State :=
  let s := s0.flushDecrements f.serial
  let keep := fun (r : Ring) => { r with held := r.held.filter fun sl => sl.extra }
  { s with
    frames := s.frames.filter (fun x => x.serial != f.serial),
    reserved := s.reserved.filter (fun r => r.frame != f.serial),
    rings := (s.rings.map fun r => if r.frame = f.serial then keep r else r).filter fun r => r.frame != f.serial || !r.held.isEmpty }

/-- A pass completes: its promise is measured, its record is written, its later reservations are released (R56, R57, R413). -/
def State.completePass (s : State) (slot pass : Nat) : State :=
  match s.frameAt slot, s.passAt slot pass with
  | some f0, some p0 =>
    let past := decide (p0.rcd.gbytes < Config.passBytes f0.serial pass)
    let s1 := if past then s.lapse slot pass else s
    match s1.frameAt slot, s1.passAt slot pass with
    | some f, some p =>
      let last := ((List.range f.passes.length).zip f.passes).all fun ip => ip.1 == pass || ip.2.complete
      let rec' := completionRecord f pass p s1.nstime (s1.lapsedSelf f pass) (s1.lapsedAbove f pass) past last
      let s2 := { s1.updPass slot pass (fun x => { x with complete := true }) with
        reserved := s1.reserved.filter (fun r => !(r.frame == f.serial && r.pass == pass && decide (s1.nstime / 50000 < r.quantum))),
        ev := { s1.ev with waiting := s1.ev.waiting ++ [rec'] } }
      if last then s2.endFrame f else s2
    | _, _ => s1
  | _, _ => s

/-! ## The step of retirement (R27, R31, R410, R411) -/

/-- Whether a retirement changes anything that the graph unit of a stack holds. -/
def State.concerns (s : State) (f : Frame) (t : TileRef) (st : Nat) : Bool :=
  (f.edges.any fun e => e.prod == t.pass && (f.rcd e.cons).holders.contains st)
    || s.rings.any fun r => r.frame == f.serial && r.stack == st && f.edges.any fun e => e.res == r.res && e.cons == t.pass

/-- The decrements of a retired tile: at once on its own stack, and within 1 µs on the other (R410, R411). -/
def State.sendDecrements (s : State) (f : Frame) (t : TileRef) (st : Nat) : State :=
  let s1 := s.decrementOn st t f.serial
  if s.concerns f t (1 - st) then
    { s1 with free := s1.free + 1,
              decrements := s1.decrements ++ [⟨s1.time + Config.latency s1.free % 1000001, 1 - st, t, f.serial⟩] }
  else s1

/-- What a retired tile adds to the totals of its pass (R410, R413). -/
def Pass.addTile (p : Pass) (x : Tile) (gs : List Group) (meter : Nat) : Pass :=
  { p with
    retired := p.retired + 1,
    ovrns := p.ovrns + (meter - p.rcd.budget),
    ovrt := p.ovrt + (if p.rcd.budget < meter then 1 else 0),
    errs := gs.foldl (fun a g => a ||| g.errsum) (p.errs ||| x.errsum),
    sats := gs.foldl (fun a g => g.gangs.foldl (fun b h => h.fpend.foldl (fun c w => c ||| w.writes.satf) (b ||| h.satf)) a) (p.sats ||| x.satf),
    nkill := p.nkill + x.killed + x.retiredAsKilled.toNat }

/-- A tile retires (R27, R31, R410). -/
def State.retireTile (s : State) (t : TileRef) : State :=
  match s.frameAt t.slot, s.passAt t.slot t.pass, s.tileAt t with
  | some f, some p, some x =>
    let meter := s.tileMeter t
    let late := if p.rcd.budget < meter && !x.overrun then s.lapse t.slot t.pass else s
    let s1 := (late.updPass t.slot t.pass fun p => p.addTile x (s.tileGroups t) meter).updTile t fun x => { x with state := .retired }
    let s2 := { s1 with
      groups := s1.groups.filter (fun g => g.tref != t),
      recTiles := s1.recTiles.filter (fun r => r.tref != t),
      rings := s1.rings.map fun (r : Ring) => if r.frame = f.serial && r.prod = t.pass then r.retire t.tile else r }
    let s3 := s2.sendDecrements f t (p.rcd.stackOf t.tile)
    if p.retired + 1 = p.rcd.tiles then s3.completePass t.slot t.pass else s3
  | _, _, _ => s

/-- TILE_RETIRE: a record-pass tile first writes its targets and statistics, and a fault there kills it instead (R348, R358, R409, R410). -/
def execTileRetire (slot pass tile : Nat) (s : State) : Out :=
  let t : TileRef := ⟨slot, pass, tile⟩
  if !s.retirable t then .fault .absent
  else
    match s.recTile? t, s.passAt slot pass with
    | some r, some p =>
      (match s.finishRecTile r p with
       | .ok s1 => .next (s1.retireTile t)
       | .error e => .next (s.unitFault t e))
    | _, _ => .next (s.retireTile t)

/-- The decrements that a stack's graph unit applies next of those that have come over UCIe, by cycle and then by tile (R28, R411); none while it
loads its image (R435). -/
def State.nextDecrement (s : State) (st : StackId) : Option Decrement :=
  if s.loads 0 (64 * st.val) then none
  else leastBy (fun d => [d.due / 625, d.tref.pass, d.tref.tile]) (s.decrements.filter fun d => d.stack == st.val && d.due ≤ s.time)

/-- DECREMENT_ARRIVAL: those that have arrived are applied in the order of R28 (R28, R411). -/
def execDecrementArrival (st : StackId) (s : State) : Out :=
  match s.nextDecrement st with
  | some d => .next (({ s with decrements := s.decrements.erase d }).decrementOn d.stack d.tref d.frame)
  | none => .fault .absent

/-! ## The event ring (R413 to R415) -/

/-- COMPLETION_RECORD_WRITE: the oldest waiting record, when the ring is enabled and not full (R413, R414). -/
def execCompletionRecordWrite (s : State) : Out :=
  let e := s.ev
  let size := 2 ^ (e.logn + 6)
  match e.waiting with
  | [] => .fault .absent
  | r :: rest =>
    if !e.en || (e.tail - e.head).toNat == size then .fault .absent
    else
      let pa := e.base.toNat * 4096 + 32 * (e.tail.toNat % size)
      let lost := s.recordLost pa 32
      let s1 := if lost then s else s.putRecord pa r
      .next { s1 with ev := { e with
        tail := e.tail + 1, werr := e.werr || lost, waiting := rest, u := e.u + 1, t0 := if e.u = 0 then s.nstime else e.t0 } }

/-- Whether the coalescing count or time has been reached (R415). -/
def EventRing.due (e : EventRing) (now : Nat) : Bool := e.cntm1 + 1 ≤ e.u || (1 ≤ e.u && 1000 * e.time ≤ now - e.t0)

/-- EVENT_INTERRUPT: the owner is signalled, for the event ring, and for a fault record that found no owner (R415). -/
def execEventInterrupt (s : State) : Out :=
  match s.own.now with
  | none => .fault .absent
  | some m =>
    if s.ev.due s.nstime then
      .next { s with ev := { s.ev with irq := true, u := 0 }, irqs := s.irqs ++ [⟨s.time, m, false⟩] }
    else if s.fq.waitIrq then .next { s with fq := { s.fq with waitIrq := false }, irqs := s.irqs ++ [⟨s.time, m, true⟩] }
    else .fault .absent

/-! ## Copy passes (R290) -/

/-- A tile of a copy pass as a copy on its stack's least loaded engine and channel (R290). -/
def State.tileCopy (s : State) (t : TileRef) (p : Pass) (e : Nat × Nat) : Copy where
  id := s.idCount
  engine := e.1
  ch := e.2
  state := .waiting
  gid := s.gidCount
  gang := 0
  batch := 0
  word := 0
  tref := t
  fmt := 0
  tplBase := 0
  tplZero := false
  tpl := some (p.nodes.headD 0)
  c0 := p.rcd.column t.tile * 2 ^ p.rcd.twl
  c1 := p.rcd.row t.tile * 2 ^ p.rcd.thl
  satf := 0
  leaseKey := 0
  leaseLines := []
  leaseUs := 0
  orphan := true
  handle := none
  rerun := false

/-- The copy-pass tile that starts next on a stack (R29, R30, R59). -/
def State.nextCopyTile (s : State) (st : Nat) : Option TileRef :=
  (s.readyTiles st fun k => k == 2).find? fun t => (s.startTile t).isSome

/-- COPY_PASS_TILE (R290): once the chosen channel has a place, and its engine its image (R435). -/
def execCopyPassTile (st : StackId) (s : State) : Out :=
  match s.nextCopyTile st.val with
  | none => .fault .absent
  | some t =>
    let e := s.leastLoaded st.val
    if 4 ≤ s.channelLoad e.1 e.2 || s.loads 1 (unitArg e.1) then .fault .absent
    else
      match s.passAt t.slot t.pass, s.startTile t with
      | some p, some s1 => .next { s1 with copies := s1.copies ++ [s.tileCopy t p e], idCount := s1.idCount + 1, gidCount := s1.gidCount + 1 }
      | _, _ => .fault .absent

end Sys2Proof.Machine
end

