-- ==== Sys2Proof/Machine/Link.lean ====
section
/-! DEFINITION. Collective passes and the Nararauth link (R416 to R419). -/

namespace Sys2Proof.Machine

open Sys2Proof.Bits
open Sys2Proof.Types (width)

/-! ## Participants (R416) -/

/-- Whether a collective pass crosses to the peer box (R18). -/
def PassRec.crossBox (p : PassRec) : Bool := p.kind == 3 && p.cspan.testBit 2

/-- Rank indices of the participants of this box, and of the peer's, which names one stack at least (R416). Log 12. -/
def State.rankOf (s : State) (st : Nat) : Nat := 2 * s.cfg.linkRank.toNat + st
def State.ownRanks (s : State) (p : PassRec) : List Nat := (affStacks p.cspan).map s.rankOf
def State.peerRanks (s : State) (serial pass : Nat) (p : PassRec) : List Nat :=
  if p.crossBox then (affStacks (Config.peerSpan serial pass % 3 + 1)).map fun b => 2 * s.link.peerRank.toNat + b else []

/-- The participants, in increasing rank index (R416). -/
def State.participants (s : State) (serial pass : Nat) (p : PassRec) : List Nat :=
  sortBy (fun r => [r]) (s.ownRanks p ++ s.peerRanks serial pass p)

/-! ## The fold (R418) -/

/-- The values of the participants for an element; `own` is the element of this box's buffer, which its participants share. -/
def State.elementsOf (s : State) (serial pass : Nat) (p : PassRec) (tile i own : Nat) : List Nat :=
  (s.participants serial pass p).map fun r =>
    if r / 2 = s.cfg.linkRank.toNat then own else (Config.peerElement serial pass tile i).toNat % 2 ^ width p.ctype

/-- The fold of R418: left to right, once rounded a step, without saturation or flushing. -/
def foldAll (p : PassRec) : List Nat → Nat
  | [] => 0
  | x :: xs => xs.foldl (fun r y => (foldOp p.cred ⟨0, false, false⟩ p.ctype r y).1) x

/-- What a participant writes at an element of a tile, if anything, from the values of all (R418). -/
def collectiveResult (p : PassRec) (ranks : List Nat) (me tile : Nat) (xs : List Nat) : Option Nat :=
  let k := tile % ranks.length
  match p.cop with
  | 0 => some (foldAll p xs)
  | 1 => if ranks.getD k 0 = me then some (foldAll p xs) else none
  | 2 => some (xs.getD k 0)
  | _ => some (xs.getD 0 0)

/-- What the couch engines read of a tile: the device after the reads, the elements, and the error bits; or the fault (R407, R417). -/
def State.readElements (s : State) (w : Who) (p : PassRec) (va : Nat) : Nat → Except (Nat × Nat × Nat) (State × List Nat × BitVec 9)
  | 0 => .ok (s, [], 0)
  | n + 1 =>
    match s.readElements w p va n with
    | .error e => .error e
    | .ok (t, l, err) =>
      let a := va + p.csize * n
      match t.checkGlobal w .copyRead a p.csize with
      | .error f => .error (copyStatus f.1, a % 2 ^ 56, 4)
      | .ok (pa, _) =>
        .ok (((t.noteWalk w a).conflict none pa p.csize false).readHome pa p.csize, l ++ [t.readPhys pa p.csize], err ||| t.memErrBits pa p.csize)

/-- Writes the elements of a tile that change, or the fault (R417). -/
def State.writeElements (s : State) (w : Who) (p : PassRec) (va : Nat) : List (Option Nat) → Except (Nat × Nat × Nat) State
  | [] => .ok s
  | none :: xs => s.writeElements w p (va + p.csize) xs
  | some v :: xs =>
    match s.checkGlobal w .copyWrite va p.csize with
    | .error f => .error (copyStatus f.1, va % 2 ^ 56, 5)
    | .ok (pa, _) => ((s.noteWalk w va).writePhys none pa (toBytes p.csize v)).writeElements w p (va + p.csize) xs

/-! ## A tile of a collective pass (R290, R417, R418) -/

/-- Whether the owner has still to act on a fault of a tile. -/
def State.awaitsOwner (s : State) (t : TileRef) : Bool := s.handles.any fun x => x.unit == 2 && x.tref == t

/-- Every tile of a pass that has not retired ends as killed (R417). -/
def State.endPass (s : State) (slot pass : Nat) : State :=
  match s.passAt slot pass with
  | none => s
  | some p =>
    (List.range p.tiles.length).foldl (fun u i =>
      if (u.tileAt ⟨slot, pass, i⟩).any fun x => x.state != .retired then u.endTile ⟨slot, pass, i⟩ else u) s

/-- Cross-box collective passes of frames in flight, as slot and index. -/
def State.crossPasses (s : State) : List (Nat × Nat) :=
  s.frames.flatMap fun f => ((List.range f.passes.length).zip f.passes).filterMap fun ip =>
    if ip.2.rcd.crossBox && !ip.2.complete then some (f.slot, ip.1) else none

/-- The fields that pair a pass with the peer's (R417). -/
def PassRec.pairKey (p : PassRec) : List Nat := [p.cop, p.cred, Types.code p.ctype, p.ccount, p.gx, p.gy]

/-- What the peer's contributions make of a waiting cross-box pass: it pairs with the first that has its fields; where none has, and the
oldest has those of no pass that waits, the peer's pass differs, and every tile ends as killed (R417, log 12). -/
def State.pairPass (s : State) (slot pass : Nat) : Option State :=
  match s.passAt slot pass with
  | none => none
  | some p =>
    match s.link.offers.find? fun o => Config.offered o == p.rcd.pairKey with
    | some o =>
      some ({ s with link := { s.link with offers := s.link.offers.erase o } }.updPass slot pass fun p => { p with paired := true })
    | none =>
      match s.link.offers with
      | [] => none
      | o :: rest =>
        if s.crossPasses.any fun x => (s.passAt x.1 x.2).any fun q => !q.paired && Config.offered o == q.rcd.pairKey then none
        else some ({ s with link := { s.link with offers := rest } }.endPass slot pass)

/-- What a stack's couch engines do next with a collective tile. -/
inductive CollectiveAct where
  /-- the part of the stack's own participant -/
  | run
  /-- a waiting pass meets the peer's -/
  | pair
  /-- the tile starts, or runs again whole -/
  | start
  deriving DecidableEq, Repr

/-- The tile that a stack's couch engines go on with (R59, R416, R417): a tile that waits for the peer holds back no other. -/
def State.collectiveNext (s : State) (st : Nat) : Option (TileRef × CollectiveAct) :=
  let named := fun (t : TileRef) (f : Pass → Bool) => (s.passAt t.slot t.pass).any f
  match s.colls.find? fun c => !c.ran.contains st
      && named c.tref (fun p => (affStacks p.rcd.cspan).contains st && (!p.rcd.crossBox || p.paired)) with
  | some c => some (c.tref, .run)
  | none =>
    match s.colls.find? fun c => s.tileStack c.tref == st && named c.tref (fun p => p.rcd.crossBox && !p.paired)
        && (s.pairPass c.tref.slot c.tref.pass).isSome with
    | some c => some (c.tref, .pair)
    | none =>
      let again := (s.tilesWhere st fun p x => p.rcd.kind == 3 && x.state == .started && !x.engineDone).filter fun t =>
        !s.awaitsOwner t && !(s.colls.any fun c => c.tref == t)
      let ready := (s.readyTiles st fun k => k == 3).filter fun t => (s.startTile t).isSome
      (again ++ ready).head?.map fun t => (t, .start)

/-- A collective tile that faults waits for the owner as a copy-pass tile does (R290, R417). -/
def State.collectiveFault (s : State) (t : TileRef) (p : Pass) (e : Nat × Nat × Nat) : State :=
  let gh := s.newHandle
  let c := s.tileCopy t p (s.leastLoaded (s.tileStack t))
  ({ s.lapse t.slot t.pass with
    handleCount := gh, idCount := s.idCount + 1, gidCount := s.gidCount + 1, colls := s.colls.filter (fun c => c.tref != t),
    handles := s.handles ++ [⟨gh, 2, t, s.idCount, false⟩],
    fq := { s.fq with waiting := s.fq.waiting ++ [s.copyRecord c gh e.1 e.2.1 e.2.2] } } : State).leaveEngine t

/-- The first element of a tile. -/
def PassRec.tileBase (p : PassRec) (tile : Nat) : Nat := p.cbuf + tile * p.ccount * p.csize

/-- A collective tile starts: its elements are read (R418). -/
def State.startCollective (s : State) (t : TileRef) (p : Pass) (serial : Nat) : State :=
  match s.readElements ⟨none, some (serial, t.pass)⟩ p.rcd (p.rcd.tileBase t.tile) p.rcd.ccount with
  | .error e => s.collectiveFault t p e
  | .ok (s1, xs, err) =>
    { s1.updTile t fun x => { x with errsum := x.errsum ||| err } with colls := s1.colls ++ [⟨t, xs, []⟩] }

/-- The participant of a stack writes its part of a tile; the tile is done when every named stack of the box has (R416, R418). -/
def State.runCollective (s : State) (st : Nat) (c : Collective) (p : Pass) (serial : Nat) : State :=
  let rc := p.rcd
  let t := c.tref
  let ranks := s.participants serial t.pass rc
  let ys := ((List.range c.xs.length).zip c.xs).map fun ix =>
    collectiveResult rc ranks (s.rankOf st) t.tile (s.elementsOf serial t.pass rc t.tile ix.1 ix.2)
  match s.writeElements ⟨none, some (serial, t.pass)⟩ rc (rc.tileBase t.tile) ys with
  | .error e => s.collectiveFault t p e
  | .ok s1 =>
    let ran := c.ran ++ [st]
    if (affStacks rc.cspan).all ran.contains then
      { s1.updTile t fun x => x.finish s.nstime with colls := s1.colls.filter fun x => x.tref != t }
    else { s1 with colls := s1.colls.map fun x => if x.tref = t then { x with ran := ran } else x }

/-- COLLECTIVE_CHUNK: a tile starts and its elements are read; it waits for the peer's matching pass where it crosses to the peer; then
each named stack of the box runs it once (R416 to R418). -/
def execCollectiveChunk (st : StackId) (s : State) : Out :=
  match s.collectiveNext st.val with
  | none => .fault .absent
  | some (t, act) =>
    let s0 := if (s.tileAt t).any fun x => x.state == .started then s else (s.startTile t).getD s
    match s0.passAt t.slot t.pass with
    | none => .fault .absent
    | some p =>
      let serial := s0.frameSerial t.slot
      match act with
      | .start => .next (s0.startCollective t p serial)
      | .pair => .next ((s0.pairPass t.slot t.pass).getD s0)
      | .run =>
        match s0.colls.find? fun c => c.tref == t with
        | some c => .next (s0.runCollective st.val c p serial)
        | none => .fault .absent

/-- COLLECTIVE_LINK_TIMEOUT: the link has been down for 100 ms (R417). -/
def execCollectiveLinkTimeout (s : State) : Out :=
  match s.link.downSince with
  | none => .fault .absent
  | some d =>
    let open' := s.crossPasses.filter fun sp =>
      (s.passAt sp.1 sp.2).any fun p => p.tiles.any fun x => x.state != .retired && !x.retiredAsKilled
    if s.time < d + 100000000000 || open' == [] then .fault .absent
    else .next (open'.foldl (fun u sp => u.endPass sp.1 sp.2) s)

/-! ## The link (R419) -/

/-- The sequence number of a flit. -/
def flitSeq (flit : List Byte) : BitVec 24 := BitVec.ofNat 24 (ofBytes ((flit.drop 1).take 3))

/-- Whether a flit is whole and its CRC holds. -/
def flitGood (flit : List Byte) : Bool := flit.length == 256 && Config.crc64 (flit.take 248) == flit.drop 248

/-- A contribution of the peer's tells that it has accepted a pass; further ones of that pass tell nothing new (R417). -/
def Link.offer (k : Link) (payload : List Byte) : Link :=
  if k.known.contains (Config.offeredPass payload) then k
  else { k with offers := k.offers ++ [payload], known := k.known ++ [Config.offeredPass payload] }

/-- FLIT_RECEIVE: a bad flit is discarded and its replay requested; one out of sequence is not delivered; an unknown type is dropped
and counted (R417, R419). -/
def execFlitReceive (flit : List Byte) (s : State) : Out :=
  if !s.dev.linkUp then .next s
  else if !flitGood flit then .next { s with dev := { s.dev with linkrpl := s.dev.linkrpl + 1 } }
  else if flitSeq flit != s.link.nextSeq then .next s
  else
    let s1 := { s with link := { s.link with nextSeq := s.link.nextSeq + 1 } }
    match (flit.headD 0).toNat with
    | 0 | 1 | 2 | 4 | 5 | 6 => .next s1
    | 3 => .next { s1 with link := s1.link.offer ((flit.drop 8).take 240) }
    | _ => .next { s1 with dev := { s1.dev with linkdrp := s1.dev.linkdrp + 1 } }

/-- The link as it goes or stays down: the time of R417 starts where it was up. -/
def State.linkLost (s : State) : State :=
  { s with dev := { s.dev with linkUp := false },
           link := { s.link with downSince := if s.dev.linkUp then some s.time else s.link.downSince } }

/-- LINK_TRAIN: the ranks are exchanged; equal ranks keep the link down, with RKDUP set (R419). -/
def execLinkTrain (up peerRank : Bool) (s : State) : Out :=
  if !s.cfg.link || !up then .next s.linkLost
  else if peerRank == s.cfg.linkRank then .next { s.linkLost with dev := { s.linkLost.dev with rkdup := true } }
  else .next { s with
    dev := { s.dev with linkUp := true, rkdup := false }, link := { s.link with downSince := none, peerRank := peerRank } }

/-- LINK_DOWN (R417). -/
def execLinkDown (s : State) : Out := .next s.linkLost

end Sys2Proof.Machine
end

