-- ==== Sys2Proof/Machine/Power.lean ====
section
/-! DEFINITION. Power-gated arrays, recalibration of the class periods, and the thermal trip (R130, R262, R263, R432, R438, R439). -/

namespace Sys2Proof.Machine

open Sys2Proof.Bits

/-! ## Power-gated arrays (R262, R263) -/

/-- Whether a vat page occupies a bank: even pages banks 0 to 7, odd pages banks 8 to 15 (R249). -/
def pageInBank (page : Nat) (bank : Fin 16) : Bool := page % 2 == bank.val / 8

/-- Whether a bank holds a direct page, a mapped ring slot, a leased line, or a dirty cached line (R262). When a dirty line is written
back to GDDR 7 is a free value (R252, log 74). -/
def State.bankHolds (s : State) (st : StackId) (slice : Fin 64) (bank : Fin 16) : Bool :=
  ((List.range (min 2 (s.vat st).dp)).any fun p => pageInBank p bank)
    || (s.rings.any fun r => r.stack == st.val && r.held.any fun sl => !sl.isOvf
        && ((r.pages.drop (sl.index * r.slotp)).take r.slotp).any fun p => pageInBank p bank)
    || ((s.vat st).leases.any fun l => l.lines.any fun x => bankOf (128 * x) == .vatBank st slice bank)
    || s.caches.dirty.any fun d => bankOf (128 * d.1) == .vatBank st slice bank && !Config.writtenBack d.1 d.2 s.time

/-- Whether a range of 4 KiB of a core's scratchpad region lies in no group's window (R262). -/
def State.rangeFree (s : State) (core range : Nat) : Bool :=
  decide (range < 16 * (s.core core).scr)
    && !((s.residents core).any fun g => g.window / 4096 ≤ range && range < g.window / 4096 + g.kernel.scrg)

/-- The lines that a way of a core's L1 holds. -/
def inWay (core way : Nat) (x : L1Line) : Bool := x.core == core && Config.l1WayOf core x.line == way

/-- Whether an array may be gated: an L1 way that holds a marked or claimed line may not (R262, R366). -/
def State.gateable (s : State) : GatedArray → Bool
  | .vatBank st slice bank => !s.bankHolds st slice bank
  | .l1Way core way => !((s.pinnedL1 core).any fun l => Config.l1WayOf core l == way)
  | .scratch core range => s.rangeFree core range

/-- Whether a physical address lies in a bank of a stack's vat (R249). -/
def inBank (st : StackId) (slice : Fin 64) (bank : Fin 16) (pa : Nat) : Bool :=
  decide (vatBase st.val ≤ pa) && decide (pa < vatBase (st.val + 1))
    && field 12 7 pa == slice.val && field 16 13 pa == bank.val

/-- An array is gated: from then on it holds zero; an L1 way has written back its dirty lines, and drops them all (R262). -/
def State.gate (s : State) : GatedArray → State
  | .vatBank st slice bank =>
    let v := s.vat st
    { s.setVat st { v with gatedBanks := v.gatedBanks ++ [bankNumber slice bank] } with
      mem := s.mem.filter fun c => !inBank st slice bank c.1 }
  | .l1Way core way =>
    { s.updCore core fun k => { k with gatedWays := k.gatedWays ++ [way] } with caches := s.caches.drop (inWay core way) }
  | .scratch core range =>
    s.updCore core fun k => { k with
      gated := k.gated ++ [range], scratch := k.scratch.filter fun e => e.1 / 4096 != range,
      scratchErr := k.scratchErr.filter fun w => w / 512 != range }

/-- ARRAY_GATE (R262): when and whether is the device's choice. -/
def execArrayGate (arr : GatedArray) (s : State) : Out :=
  if s.isGated arr || !s.gateable arr then .fault .absent else .next (s.gate arr)

/-- ARRAY_WAKE: an access meets a gated array, and its wake-up begins (R263). -/
def execArrayWake (arr : GatedArray) (s : State) : Out :=
  if !s.isGated arr || s.waking.any (fun x => x.1 == arr) then .fault .absent else .next (s.wakeArray arr)

/-- The array is gated no more. -/
def State.ungate (s : State) : GatedArray → State
  | .vatBank st slice bank =>
    let v := s.vat st
    s.setVat st { v with gatedBanks := v.gatedBanks.filter fun b => b != bankNumber slice bank }
  | .l1Way core way => s.updCore core fun k => { k with gatedWays := k.gatedWays.filter fun w => w != way }
  | .scratch core range => s.updCore core fun k => { k with gated := k.gated.filter fun r => r != range }

/-- ARRAY_WAKE_END: the wake-up ends within 1.5 µs (R263). -/
def execArrayWakeEnd (arr : GatedArray) (s : State) : Out :=
  if s.waking.any fun x => x.1 == arr && x.2 ≤ s.time then
    .next ({ s with waking := s.waking.filter fun x => x.1 != arr }.ungate arr)
  else .fault .absent


/-! ## Recalibration (R130, R438) -/

/-- Whether a period lies within the bounds of its class (R130). -/
def periodOk (k : Fin 4) (p : Nat) : Bool := Config.nominalPeriod k ≤ p && 100 * p ≤ 105 * Config.nominalPeriod k

/-- The longest calibrated period of a class over the cores in service (R432). -/
def State.longest (s : State) (k : Nat) : Nat :=
  (List.range 192).foldl (fun m c => max m (((s.core c).recal.getD (s.core c).periods).getD k 0)) 0

/-- When the next recalibration is due, ps: each core has one every 1 ms, the cores in turn (R438). -/
def State.recalDue (s : State) : Nat := (s.recalCount / 192 + 1) * 1000000000

/-- RECALIBRATION: new periods of the core whose 1 ms has passed, from its next cycle on, and the longest of each class (R432, R438). -/
def execRecalibration (core p0 p1 p2 p3 : Nat) (s : State) : Out :=
  if core = s.recalCount % 192 && s.recalDue ≤ s.time && periodOk 0 p0 && periodOk 1 p1 && periodOk 2 p2 && periodOk 3 p3 then
    let s1 := (s.clocked core).updCore core fun k => { k with recal := some [p0, p1, p2, p3] }
    .next { s1 with dev := { s1.dev with clscal := (List.range 4).map s1.longest }, recalCount := s1.recalCount + 1 }
  else .fault .absent

/-- The recalibration that comes next, with the periods it finds (log 7). -/
def State.nextRecal (s : State) : Instr :=
  let p := fun (k : Fin 4) => Config.nominalPeriod k + Config.drift s.recalCount k.val % (Config.nominalPeriod k / 20 + 1)
  .recalibration (s.recalCount % 192) (p 0) (p 1) (p 2) (p 3)

/-! ## The thermal trip (R432, R439) -/

/-- THERMAL_TRIP: the junction temperature in steps of 0.125 degrees; at 110 degrees every clock stops (R439). -/
def execThermalTrip (tj : Nat) (s : State) : Out :=
  .next { s with dev := { s.dev with tjmax := BitVec.ofNat 64 tj, tripped := s.dev.tripped || decide (880 ≤ tj) } }

end Sys2Proof.Machine
end

