-- ==== Sys2Proof/Machine/Service.lean ====
section
/-! DEFINITION. Signed images, the configuration record, reset, and the service commands (R426 to R437). -/

namespace Sys2Proof.Machine

open Sys2Proof.Bits

/-! ## Images and the configuration record (R426 to R428) -/

/-- A little-endian number in a byte list. -/
def numAt (b : List Byte) (off n : Nat) : Nat := ofBytes ((b.drop off).take n)

/-- Length of an image's payload (R427). -/
def imageLength (b : List Byte) : Nat := numAt b 0x10 8

/-- Header and payload of an image, and its payload alone. -/
def imageSigned (b : List Byte) : List Byte := b.take (0x80 + imageLength b)
def imagePayload (b : List Byte) : List Byte := (imageSigned b).drop 0x80

/-- Whether an image is accepted as one of a kind, of a least version (R426, R427). -/
def imageOk (b : List Byte) (kind least : Nat) : Bool :=
  let n := imageLength b
  numAt b 0 8 == 0x4B4E414950465731 && numAt b 8 4 == kind && numAt b 0x18 104 == 0
    && n % 64 == 0 && n ≤ 0x1000000 && 0xC0 + n ≤ b.length && least ≤ numAt b 0xC 4
    && Crypto.verify Config.rootKey (Crypto.sha512 (imageSigned b)) ((b.drop (0x80 + n)).take 64)

/-- The record in a payload, unless a field lies out of range (R428). -/
def configOf (p : List Byte) : Option ConfigRecord :=
  let mode := numAt p 0 1
  let bits := numAt p 1 1
  let ms := numAt p 2 2
  let rank := numAt p 4 1
  if p.length == 64 && mode ≤ 1 && bits ≤ 3 && 1 ≤ ms && ms ≤ 10000 && rank ≤ 1 && numAt p 5 11 == 0 && numAt p 0x24 28 == 0 then
    some ⟨mode == 1, bits.testBit 0, bits.testBit 1, ms, rank == 1, (List.range 5).map fun k => numAt p (0x10 + 4 * k) 4⟩
  else none

/-- The configuration record of a flash, if it is accepted. -/
def flashConfig (f : Flash) : Option ConfigRecord := if imageOk f.config 5 0 then configOf (imagePayload f.config) else none

/-- Whether the image of a kind 0 to 4 is accepted under a record. -/
def flashAccepts (f : Flash) (c : ConfigRecord) (kind : Nat) : Bool := imageOk (f.images.getD kind []) kind (c.minVersions.getD kind 0)

/-- UNITBAD after a boot (R428, R431). -/
def flashUnitBad (f : Flash) : BitVec 9 :=
  let c := (flashConfig f).getD .default
  BitVec.ofNat 9 (maskOf (((List.range 5).filter fun k => !flashAccepts f c k) ++ (if (flashConfig f).isNone then [8] else [])))

/-- The machine right after a reset from a flash (R430). -/
def bootState (f : Flash) : State :=
  let c := (flashConfig f).getD .default
  let s := State.reset
  { s with
    cfg := c, own := { s.own with windowEnd := c.electMs * 1000000000 },
    dev := { s.dev with
      unitbad := flashUnitBad f, measurements := (List.range 5).map fun k => Crypto.sha512 (imageSigned (f.images.getD k [])) } }

/-- DEVICE_RESET (R430): what the outside still asks for, and the model's count of free values, are no state of the device. -/
def execDeviceReset (flash : Flash) (s : State) : Out :=
  .next { bootState flash with inputs := s.inputs, free := s.free }

/-! ## Service commands (R433, R434) -/

/-- A command ends with a code (R434). -/
def State.svcEnd (s : State) (code : Nat) : State := { s with svc := { s.svc with busy := false, done := true, code := code, run := none } }

/-- A command runs until a time (R434). -/
def State.svcStart (s : State) (cmd arg kind due : Nat) : State :=
  { s with svc := { s.svc with busy := true, run := some ⟨cmd, arg, kind, due, false⟩ } }

/-- A time that the manual bounds: at most `most` ps from now (log 4). -/
def State.within (s : State) (most : Nat) : State × Nat :=
  ({ s with free := s.free + 1 }, s.time + Config.latency s.free % (most + 1))

/-- A write of SVCCMD by the owner: busy, out of range, or the command itself with its ARG and KIND (R433, R434). -/
def svcWrite (m : Master) (val : Word) (s : State) (k : Nat → Nat → State → State) : Out :=
  ownerWrite m s fun s =>
    let n := val.toNat
    if s.svc.busy then .next { s with svc := { s.svc with code := 0x01 } }
    else if field 63 20 n != 0 then .next (s.svcEnd 0x05)
    else .next (k (field 19 8 n) (field 7 4 n) s)

/-- Units of a kind on a stack (R4, R433). -/
def unitCount (kind : Nat) : Nat := if kind = 1 || kind = 3 then 12 else 1

/-- Whether a frame in flight holds a promised pass (R435). -/
def State.promises (s : State) : Bool := s.frames.any fun f => f.passes.any fun p => p.promised

/-- The bytes of an image at a physical address, where memory holds them without error. -/
def State.imageAt (s : State) (pa : Nat) : List Byte :=
  let n := 0xC0 + field 63 0 (s.readPhys (pa + 0x10) 8)
  if s.busError pa || regionOf pa == .control || n > 0x10000C0 || regionEnd pa < pa + n || s.busError (pa + n - 1)
      || s.memErrBits pa n != 0 then []
  else toBytes n (s.readPhys pa n)

/-- SVCCMD_UPDATE (R435). -/
def execSvccmdUpdate (m : Master) (val : Word) (s : State) : Out :=
  svcWrite m val s fun arg kind s =>
    if 3 < kind || 128 ≤ arg || unitCount kind ≤ arg % 64 then s.svcEnd 0x05
    else if s.promises then s.svcEnd 0x03
    else if !imageOk (s.imageAt (64 * s.svc.addr.toNat)) kind (s.cfg.minVersions.getD kind 0) then s.svcEnd 0x02
    else
      let w := s.within 2000000000
      { w.1.svcStart 1 arg kind w.2 with loading := w.1.loading ++ [(kind, arg, w.2)] }

/-- Spares left on a stack (R432). -/
def Device.spares (d : Device) (st : Nat) : Nat := if st = 0 then d.spares0 else d.spares1

/-- SVCCMD_SPARE_CORE (R436). -/
def execSvccmdSpareCore (m : Master) (val : Word) (s : State) : Out :=
  svcWrite m val s fun arg kind s =>
    if 192 ≤ arg || kind != 0 then s.svcEnd 0x05
    else if s.dev.spares (arg / 96) = 0 then s.svcEnd 0x04
    else ((s.updCore arg fun k => { k with draining := true }).svcStart 2 arg 0 (s.time + 100000000000))

/-- SVCCMD_REMAP_VAT_BANK (R436). -/
def execSvccmdRemapVatBank (m : Master) (val : Word) (s : State) : Out :=
  svcWrite m val s fun arg kind s =>
    if 2048 ≤ arg || kind != 0 then s.svcEnd 0x05
    else
      let w := s.within 200000000
      w.1.svcStart 3 arg 0 w.2

/-- SVCCMD_RETRAIN_CHANNEL (R436). -/
def execSvccmdRetrainChannel (m : Master) (val : Word) (s : State) : Out :=
  svcWrite m val s fun arg kind s =>
    if 16 ≤ arg || kind != 0 then s.svcEnd 0x05
    else
      let w := s.within 200000000
      w.1.svcStart 4 arg 0 w.2

/-- SVCCMD_ATTEST (R437). -/
def execSvccmdAttest (m : Master) (val : Word) (s : State) : Out :=
  svcWrite m val s fun arg kind s =>
    if kind != 0 then s.svcEnd 0x05
    else { s.svcStart 5 arg 0 (s.time + Config.latency s.free) with free := s.free + 1 }

/-- A write of the command ends whole at a physical address, or is lost where no memory is (R437). -/
def State.svcStore (s : State) (pa : Nat) (bytes : List Byte) : State :=
  if s.busError pa || s.busError (pa + bytes.length - 1) then s else s.writePhys none pa bytes

/-- What an attestation writes (R437). -/
def State.attest (s : State) : State :=
  let pa := 64 * s.svc.addr.toNat
  let nonce := if s.busError pa then [] else toBytes 32 (s.readPhys pa 32)
  let digest := Crypto.sha512 s.dev.measurements.flatten
  (s.svcStore (pa + 32) digest).svcStore (pa + 96) (Crypto.sign Crypto.identitySeed (Crypto.sha512 (nonce ++ digest)))

/-- Whether a core to be spared holds nothing more (R436). -/
def State.drainedCore (s : State) (core : Nat) : Bool :=
  (s.residents core).isEmpty && (s.core core).macros.isEmpty && (s.core core).claims.isEmpty && (s.core core).recarve.isNone

/-- The spare takes the core's index, with carve 0 (R69, R436). -/
def State.replaceCore (s : State) (core : Nat) : State :=
  { s.setCore core Core.fresh with
    dev := if core < 96 then { s.dev with spares0 := s.dev.spares0 - 1 } else { s.dev with spares1 := s.dev.spares1 - 1 } }

/-- Whether a unit that takes an image has finished the work it had: a couch engine the copies it has accepted. No new copy is accepted
meanwhile, so that none starts while the engine loads (R435). -/
def State.unitQuiet (s : State) (r : ServiceRun) : Bool :=
  r.kind != 1 || !(s.copies.any fun c => unitArg c.engine == r.arg && (match c.state with | .waiting | .running _ => true | _ => false))

/-- SERVICE_COMMAND_DONE (R434 to R437). -/
def execServiceCommandDone (s : State) : Out :=
  match s.svc.run with
  | none => .fault .absent
  | some r =>
    match r.cmd with
    | 1 =>
      if r.due ≤ s.time && s.unitQuiet r then
        .next ({ s with loading := s.loading.filter fun x => !(x.1 == r.kind && x.2.1 == r.arg) }.svcEnd 0x00)
      else .fault .absent
    | 2 => if s.drainedCore r.arg then .next ((s.replaceCore r.arg).svcEnd 0x00) else .fault .absent
    | 5 => if r.due ≤ s.time then .next (s.attest.svcEnd 0x00) else .fault .absent
    | _ => if r.due ≤ s.time then .next (s.svcEnd 0x00) else .fault .absent

/-- SPARE_DRAIN_TIMEOUT: 100 ms after the command, each group still resident is saved as an eviction (R396, R436). -/
def execSpareDrainTimeout (s : State) : Out :=
  match s.svc.run with
  | none => .fault .absent
  | some r =>
    if r.cmd = 2 && !r.drained && r.due ≤ s.time then
      .next { s with
        svc := { s.svc with run := some { r with drained := true } },
        groups := s.groups.map fun g =>
          if g.core = r.arg && g.place == .resident && g.savePending.isNone then { g with savePending := some (s.time, .evict) } else g }
    else .fault .absent

end Sys2Proof.Machine
end

