-- ==== Sys2Proof/Machine/Registers.lean ====
section
/-! DEFINITION. Writes of device control space by a master, at any offset (R41 to R48, R239, R243, R250, R331, R391, R393, R414, R433). -/

namespace Sys2Proof.Machine

open Sys2Proof.Bits

/-! ## OWNCTL by its fields (R43) -/

/-- A write of OWNCTL: one with a reserved bit set, or an unlisted CMD, is ignored (R43, R44). -/
def ownctl (m : Master) (n : Nat) (s : State) : Out :=
  if field 63 6 n != 0 then .next s
  else
    match n % 16 with
    | 1 => execOwnctlClaim m s
    | 2 => execOwnctlGive m (Fin.ofNat 4 (n / 16)) s
    | 3 => execOwnctlAccept m s
    | 4 => execOwnctlCancel m s
    | 5 => execOwnctlForce m s
    | _ => .next s

/-- The place of an OWNCTL command among those of one cycle: a CANCEL from the owner first, then by master number; none for any
other step (R44). -/
def State.ownctlKey (s : State) : Instr → Option (List Nat)
  | .ownctlClaim m | .ownctlGive m _ | .ownctlAccept m | .ownctlForce m => some [1, m.val]
  | .ownctlCancel m => some [if s.own.isOwner m then 0 else 1, m.val]
  | .registerWrite m 0x010008 v => some [if s.own.isOwner m && v.toNat % 16 == 4 && field 63 6 v.toNat == 0 then 0 else 1, m.val]
  | _ => none

/-- The OWNCTL commands that follow one another in the list of inputs. -/
def State.ownctlRun (s : State) : List Input → List Instr
  | .command i :: rest => if (s.ownctlKey i).isSome then i :: s.ownctlRun rest else []
  | _ => []

/-- The command taken first of a list that begins with a command: OWNCTL commands that stand together arrive in one cycle of the
graph unit (R44). Log 1. -/
def State.firstCommand (s : State) (i : Instr) (rest : List Input) : Instr × List Input :=
  let all := i :: s.ownctlRun rest
  match (s.ownctlKey i).bind fun _ => leastBy (fun x => (s.ownctlKey x).getD []) all with
  | none => (i, rest)
  | some x => (x, (all.erase x).map Input.command ++ rest.drop (all.length - 1))

/-! ## Writes by the owner, block by block -/

/-- The graph-unit block's registers without a row of their own (R42, R43, R46, R331). -/
def State.setGraph (s : State) (off n : Nat) : State :=
  match off with
  | 0x000 => { s with own := { s.own with nowr := s.own.nowr &&& ~~~(BitVec.ofNat 4 (field 23 20 n)) } }
  | 0x048 => { s with gu := { s.gu with
      sbad := s.gu.sbad && !n.testBit 23, sqovf := s.gu.sqovf && !n.testBit 22, xmiss := s.gu.xmiss && !n.testBit 21,
      aflt := s.gu.aflt && !n.testBit 20 } }
  | 0x058 => { s with gu := { s.gu with rsvb := field 15 8 n, rsvc := field 7 0 n } }
  | 0x060 => { s with gu := { s.gu with tp1 := min 4096 (field 28 16 n), tp0 := min 4096 (field 12 0 n) } }
  | _ =>
    if 0x080 ≤ off && off < 0x0C0 && off % 16 = 8 then
      let k := (off - 0x080) / 16
      { s with nets := s.nets.modify k fun x => { x with drops := field 63 40 n } }
    else s

/-- The translation block's (R243). -/
def State.setTranslation (s : State) (off n : Nat) : State :=
  match off with
  | 0x000 => { s with xl := { s.xl with root := BitVec.ofNat 40 (field 51 12 n), en := n.testBit 0 } }
  | 0x010 => { s with xl := { s.xl with dropped := s.xl.dropped && !n.testBit 1, cbad := s.xl.cbad && !n.testBit 2 } }
  | _ => s

/-- A vat block's (R279). -/
def State.setVatBlock (s : State) (st : StackId) (off n : Nat) : State :=
  match off with
  | 0x008 => s.setVat st { s.vat st with refd := (s.vat st).refd && !n.testBit 31 }
  | _ => s

/-- A write to EVBASE, unless a record waits or the enabled ring is not empty (R414). -/
def State.setEvbase (s : State) (n : Nat) : State :=
  let e := s.ev
  if e.waiting != [] || (e.en && e.tail != e.head) then s
  else { s with ev := { e with base := BitVec.ofNat 40 (field 51 12 n), logn := min 10 (field 4 1 n), en := n.testBit 0 } }

/-- The fault-queue and event-ring block's (R391, R414). -/
def State.setQueues (s : State) (off n : Nat) : State :=
  let q := s.fq
  let e := s.ev
  let free := s.handles.isEmpty
  match off with
  | 0x000 =>
    if free then { s with fq := { q with base := BitVec.ofNat 40 (field 51 12 n), logn := min 9 (field 4 1 n), en := n.testBit 0 } } else s
  | 0x008 => { s with fq := { q with head := BitVec.ofNat 16 n } }
  | 0x018 => { s with fq := { q with
      rmiss := q.rmiss && !n.testBit 2, svfull := q.svfull && !n.testBit 1, werr := q.werr && !n.testBit 0 } }
  | 0x020 => if free then { s with fq := { q with svbase0 := BitVec.ofNat 29 (field 51 23 n), svn0 := BitVec.ofNat 12 n } } else s
  | 0x028 => if free then { s with fq := { q with svbase1 := BitVec.ofNat 29 (field 51 23 n), svn1 := BitVec.ofNat 12 n } } else s
  | 0x040 => s.setEvbase n
  | 0x048 => { s with ev := { e with head := BitVec.ofNat 32 n } }
  | 0x058 => { s with ev := { e with time := min 1000 (field 25 16 n), cntm1 := field 7 0 n } }
  | 0x060 => { s with ev := { e with werr := e.werr && !n.testBit 2, irq := e.irq && !n.testBit 1 } }
  | _ => s

/-- The service block's without a row of their own; a command out of range ends with CODE 5 (R433, R434). -/
def State.setService (s : State) (off n : Nat) : State :=
  match off with
  | 0x000 => if s.svc.busy then { s with svc := { s.svc with code := 0x01 } } else s.svcEnd 0x05
  | 0x008 => { s with svc := { s.svc with done := s.svc.done && !n.testBit 1 } }
  | 0x010 => { s with svc := { s.svc with addr := BitVec.ofNat 46 (field 51 6 n) } }
  | _ => s

/-- A register without a row of its own; the device description and undefined offsets ignore the write (R239, R432). -/
def State.setPlain (s : State) (off n : Nat) : State :=
  let low := off % 0x10000
  match off / 0x10000 with
  | 1 => s.setGraph low n
  | 2 => s.setTranslation low n
  | 3 => s.setVatBlock 0 low n
  | 4 => s.setVatBlock 1 low n
  | 5 => s.setQueues low n
  | 6 => s.setService low n
  | _ => s

/-- A write of GRESUME by its fields (R393). -/
def gresumeWrite (m : Master) (n : Nat) (s : State) : Out :=
  let gh := BitVec.ofNat 32 n
  match field 33 32 n with
  | 0 => execGresumeRetry m gh s
  | 1 => execGresumeDeliver m gh s
  | 2 => execGresumeKill m gh s
  | _ => ownerWrite m s fun s => .next s

/-- A write of SVCCMD by its CMD (R433). -/
def svccmdWrite (m : Master) (val : Word) (s : State) : Out :=
  match val.toNat % 16 with
  | 1 => execSvccmdUpdate m val s
  | 2 => execSvccmdSpareCore m val s
  | 3 => execSvccmdRemapVatBank m val s
  | 4 => execSvccmdRetrainChannel m val s
  | 5 => execSvccmdAttest m val s
  | _ => ownerWrite m s fun s => .next (s.setService 0x000 val.toNat)

/-- REGISTER_WRITE: a write of 8 bytes at an offset of control space; one that has a row of its own is that row's (R41). -/
def execRegisterWrite (m : Master) (off : Nat) (val : Word) (s : State) : Out :=
  let n := val.toNat
  match off with
  | 0x010008 => ownctl m n s
  | 0x010040 => execGsubmitWrite m val s
  | 0x010050 => execGxrelWrite m val s
  | 0x010068 => gresumeWrite m n s
  | 0x020008 => if n.testBit 3 then execTlbinvAll m val s else execTlbinvRange m val s
  | 0x030000 => execVatdirWrite m 0 val s
  | 0x040000 => execVatdirWrite m 1 val s
  | 0x030010 => execOrdclrWrite m 0 val s
  | 0x040010 => execOrdclrWrite m 1 val s
  | 0x060000 => svccmdWrite m val s
  | 0x010080 => if n.testBit 0 then execGnetEnable m 0 val s else execGnetDisable m 0 val s
  | 0x010090 => if n.testBit 0 then execGnetEnable m 1 val s else execGnetDisable m 1 val s
  | 0x0100A0 => if n.testBit 0 then execGnetEnable m 2 val s else execGnetDisable m 2 val s
  | 0x0100B0 => if n.testBit 0 then execGnetEnable m 3 val s else execGnetDisable m 3 val s
  | _ => ownerWrite m s fun s => .next (s.setPlain off n)

end Sys2Proof.Machine
end

