-- ==== Sys2Proof/Machine/Scalar.lean ====
section
/-! DEFINITION. Scalar arithmetic, logic, literals, bit fields, formats and special registers (R147 to R155, R169, R170). -/

namespace Sys2Proof.Machine

open Sys2Proof.Bits

/-- A scalar word of two registers (R151). -/
def scalar2 (d a b : SReg) (op : Word → Word → Word) (s : State) : Out :=
  scalarWord s [a, b] 1 fun h => h.writeS d.val (op (h.readS a.val) (h.readS b.val))

/-- A scalar word of a register and a sign-extended immediate (R151). -/
def scalarImm (d a : SReg) (i : BitVec 12) (op : Word → Word → Word) (s : State) : Out :=
  scalarWord s [a] 1 fun h => h.writeS d.val (op (h.readS a.val) (i.signExtend 64))

/-- A scalar word of a register and a shift amount (R151). -/
def scalarShift (d a : SReg) (i : BitVec 6) (op : Word → Word → Word) (s : State) : Out :=
  scalarWord s [a] 1 fun h => h.writeS d.val (op (h.readS a.val) (i.setWidth 64))

/-- A scalar word of one register (R151). -/
def scalar1 (d a : SReg) (op : Word → Word) (s : State) : Out :=
  scalarWord s [a] 1 fun h => h.writeS d.val (op (h.readS a.val))

/-- Shifts by op2[5:0] (R151). -/
def shiftLeft (x n : Word) : Word := x <<< (n.toNat % 64)
def shiftRight (x n : Word) : Word := x >>> (n.toNat % 64)
def shiftArith (x n : Word) : Word := x.sshiftRight (n.toNat % 64)

/-- Signed and unsigned minimum and maximum (R151). -/
def minSigned (x y : Word) : Word := if y.slt x then y else x
def maxSigned (x y : Word) : Word := if x.slt y then y else x
def minUnsigned (x y : Word) : Word := if y.ult x then y else x
def maxUnsigned (x y : Word) : Word := if x.ult y then y else x

/-- Bits [127:64] of the signed and of the unsigned product (R151). -/
def mulHighSigned (x y : Word) : Word := BitVec.ofInt 64 ((x.toInt * y.toInt) / (2 ^ 64 : Int))
def mulHighUnsigned (x y : Word) : Word := BitVec.ofNat 64 (x.toNat * y.toNat / 2 ^ 64)

/-- A zero-extended field of `len` bits at `pos`, cut at bit 63 (R155). -/
def bitField (x : Word) (pos len : Nat) : Word := BitVec.ofNat 64 (x.toNat / 2 ^ pos % 2 ^ len)

/-- Inserts the low `len` bits of `x` into `old` at `pos`, cut at bit 63 (R155). -/
def bitInsert (old x : Word) (pos len : Nat) : Word :=
  let mask := BitVec.ofNat 64 ((2 ^ len - 1) * 2 ^ pos)
  (old &&& ~~~mask) ||| (BitVec.ofNat 64 (x.toNat % 2 ^ len * 2 ^ pos) &&& mask)

/-- SADD, register form (R151). -/
def execSadd (d a b : SReg) (s : State) : Out := scalar2 d a b (fun x y => x + y) s

/-- SSUB, register form (R151). -/
def execSsub (d a b : SReg) (s : State) : Out := scalar2 d a b (fun x y => x - y) s

/-- SMUL, register form (R151). -/
def execSmul (d a b : SReg) (s : State) : Out := scalar2 d a b (fun x y => x * y) s

/-- SAND, register form (R151). -/
def execSand (d a b : SReg) (s : State) : Out := scalar2 d a b (fun x y => x &&& y) s

/-- SOR, register form (R151). -/
def execSor (d a b : SReg) (s : State) : Out := scalar2 d a b (fun x y => x ||| y) s

/-- SXOR, register form (R151). -/
def execSxor (d a b : SReg) (s : State) : Out := scalar2 d a b (fun x y => x ^^^ y) s

/-- SSHL, register form (R151). -/
def execSshl (d a b : SReg) (s : State) : Out := scalar2 d a b shiftLeft s

/-- SSHR, register form (R151). -/
def execSshr (d a b : SReg) (s : State) : Out := scalar2 d a b shiftRight s

/-- SSRA, register form (R151). -/
def execSsra (d a b : SReg) (s : State) : Out := scalar2 d a b shiftArith s

/-- SMIN, register form (R151). -/
def execSmin (d a b : SReg) (s : State) : Out := scalar2 d a b minSigned s

/-- SMAX, register form (R151). -/
def execSmax (d a b : SReg) (s : State) : Out := scalar2 d a b maxSigned s

/-- SMINN, register form (R151). -/
def execSminn (d a b : SReg) (s : State) : Out := scalar2 d a b minUnsigned s

/-- SMAXN, register form (R151). -/
def execSmaxn (d a b : SReg) (s : State) : Out := scalar2 d a b maxUnsigned s

/-- SMULH, and SMULH.N with both operands unsigned (R151). -/
def execSmulh (d a b : SReg) (unsigned : Bool) (s : State) : Out :=
  scalar2 d a b (if unsigned then mulHighUnsigned else mulHighSigned) s

/-- SCMP, register form (R152). -/
def execScmp (cc : SCond) (k : CBit) (a b : SReg) (s : State) : Out :=
  scalarWord s [a, b] 1 fun h => h.writeC k (Flags.compare cc (h.readS a.val) (h.readS b.val))

/-- SSEL (R153). -/
def execSsel (d a b : SReg) (k : CBit) (s : State) : Out :=
  scalarWord s [a, b] 1 fun h => h.writeS d.val (if h.readC k then h.readS a.val else h.readS b.val)

/-- SMOV (R151). -/
def execSmov (d a : SReg) (s : State) : Out := scalar1 d a id s

/-- SPOPC (R151). -/
def execSpopc (d a : SReg) (s : State) : Out := scalar1 d a (fun x => BitVec.ofNat 64 (popcount 64 x.toNat)) s

/-- SCLZ (R151). -/
def execSclz (d a : SReg) (s : State) : Out := scalar1 d a (fun x => BitVec.ofNat 64 (clz 64 x.toNat)) s

/-- SADD, immediate form (R151). -/
def execSaddImm (d a : SReg) (i : BitVec 12) (s : State) : Out := scalarImm d a i (fun x y => x + y) s

/-- SSUB, immediate form (R151). -/
def execSsubImm (d a : SReg) (i : BitVec 12) (s : State) : Out := scalarImm d a i (fun x y => x - y) s

/-- SMUL, immediate form (R151). -/
def execSmulImm (d a : SReg) (i : BitVec 12) (s : State) : Out := scalarImm d a i (fun x y => x * y) s

/-- SAND, immediate form (R151). -/
def execSandImm (d a : SReg) (i : BitVec 12) (s : State) : Out := scalarImm d a i (fun x y => x &&& y) s

/-- SOR, immediate form (R151). -/
def execSorImm (d a : SReg) (i : BitVec 12) (s : State) : Out := scalarImm d a i (fun x y => x ||| y) s

/-- SXOR, immediate form (R151). -/
def execSxorImm (d a : SReg) (i : BitVec 12) (s : State) : Out := scalarImm d a i (fun x y => x ^^^ y) s

/-- SSHL, immediate form (R151). -/
def execSshlImm (d a : SReg) (i : BitVec 6) (s : State) : Out := scalarShift d a i shiftLeft s

/-- SSHR, immediate form (R151). -/
def execSshrImm (d a : SReg) (i : BitVec 6) (s : State) : Out := scalarShift d a i shiftRight s

/-- SSRA, immediate form (R151). -/
def execSsraImm (d a : SReg) (i : BitVec 6) (s : State) : Out := scalarShift d a i shiftArith s

/-- SMIN, immediate form (R151). -/
def execSminImm (d a : SReg) (i : BitVec 12) (s : State) : Out := scalarImm d a i minSigned s

/-- SMAX, immediate form (R151). -/
def execSmaxImm (d a : SReg) (i : BitVec 12) (s : State) : Out := scalarImm d a i maxSigned s

/-- SMINN, immediate form (R151). -/
def execSminnImm (d a : SReg) (i : BitVec 12) (s : State) : Out := scalarImm d a i minUnsigned s

/-- SMAXN, immediate form (R151). -/
def execSmaxnImm (d a : SReg) (i : BitVec 12) (s : State) : Out := scalarImm d a i maxUnsigned s

/-- SCMP, immediate form (R152). -/
def execScmpImm (cc : SCond) (k : CBit) (a : SReg) (i : BitVec 12) (s : State) : Out :=
  scalarWord s [a] 1 fun h => h.writeC k (Flags.compare cc (h.readS a.val) (i.signExtend 64))

/-- SLI (R154). -/
def execSli (d : SReg) (i : BitVec 12) (s : State) : Out :=
  scalarWord s [] 1 fun h => h.writeS d.val (i.signExtend 64)

/-- SLIH (R154). -/
def execSlih (d a : SReg) (i : BitVec 12) (s : State) : Out :=
  scalar1 d a (fun x => (x &&& 0x000FFFFFFFFFFFFF) ||| (i.setWidth 64 <<< 52)) s

/-- SLIW (R154); it goes on by two words (R89). -/
def execSliw (d a : SReg) (lit : BitVec 32) (s : State) : Out :=
  scalarWord s [a] 2 fun h => h.writeS d.val ((h.readS a.val <<< 32) ||| lit.setWidth 64)

/-- SBFE (R155). -/
def execSbfe (d a : SReg) (len pos : BitVec 6) (s : State) : Out :=
  scalar1 d a (fun x => bitField x pos.toNat (len.toNat + 1)) s

/-- SBFI (R155); sd is read before it is written. -/
def execSbfi (d a : SReg) (len pos : BitVec 6) (s : State) : Out :=
  scalarWord s [d, a] 1 fun h => h.writeS d.val (bitInsert (h.readS d.val) (h.readS a.val) pos.toNat (len.toNat + 1))

/-- FMTSET: bits that FMT reserves are ignored (R169, R186). -/
def execFmtset (a : SReg) (s : State) : Out :=
  withCur s fun c =>
    .next (s.put (c.g.orErr (c.h.sourceErr [a])) c.h { c.f.advance 1 with fmtf := Flags.fmtOf (c.h.readS a.val) })

/-- FMTGET (R169). -/
def execFmtget (d : SReg) (s : State) : Out :=
  withCur s fun c => .next (s.put c.g (c.h.writeS d.val (c.f.fmtf.setWidth 64)) (c.f.advance 1))

/-- BUDGET of a tile's pass, in ns (R16). -/
def State.tileBudget (s : State) (t : TileRef) : Nat :=
  match (s.frames.find? (fun f => f.slot == t.slot)).bind fun f => f.passes[t.pass]? with
  | some p => p.rcd.budget
  | none => 0

/-- The value of a special register (R65, R109, R134, R177). -/
def specialValue (n : Special) (s : State) (c : Ctx) : Word :=
  let k := s.core c.g.core
  match n with
  | .gangid => BitVec.ofNat 64 c.h.id
  | .groupid => BitVec.ofNat 64 c.g.groupId
  | .tilex => BitVec.ofNat 64 c.g.tilex
  | .tiley => BitVec.ofNat 64 c.g.tiley
  | .passid => BitVec.ofNat 64 c.g.tref.pass
  | .gangw => BitVec.ofNat 64 c.h.width
  | .lmask => c.h.lmask
  | .helper => c.h.helper
  | .fmt => c.f.fmtf.setWidth 64
  | .satf => c.h.satf.setWidth 64
  | .fltmask => c.h.fltmask
  | .trappc => BitVec.ofNat 64 (byteAddr c.h.trappc)
  | .trapcause => BitVec.ofNat 64 c.h.trapcause.toNat
  | .errsum => c.g.errsum.setWidth 64
  | .ckrb => c.h.ckrb
  | .cycles => BitVec.ofNat 64 k.cycle
  | .clscyc j => BitVec.ofNat 64 (k.clscyc.getD j.val 0)
  | .nstime => BitVec.ofNat 64 s.nstime
  | .batch => BitVec.ofNat 64 c.h.batch
  | .budget => BitVec.ofInt 64 ((s.tileBudget c.g.tref : Int) - (s.tileMeter c.g.tref : Int))
  | .vcnt => BitVec.ofNat 64 c.h.vcount

/-- SRD (R170). -/
def execSrd (d : SReg) (n : Special) (s : State) : Out :=
  withCur s fun c => .next (s.put c.g (c.h.writeS d.val (specialValue n s c)) (c.f.advance 1))

/-- SWR: FMT acts as FMTSET; SATF and ERRSUM clear the bits written as one; TRAPPC takes bits [55:2]; SATF, TRAPPC and ERRSUM
are deferred; an RO register is illegal with detail 0x0A (R110, R148, R170). -/
def execSwr (n : Special) (a : SReg) (s : State) : Out :=
  match n with
  | .fmt =>
    withCur s fun c =>
      .next (s.put (c.g.orErr (c.h.sourceErr [a])) c.h { c.f.advance 1 with fmtf := Flags.fmtOf (c.h.readS a.val) })
  | .satf =>
    deferred s fun c =>
      .next (s.put (c.g.orErr (c.h.sourceErr [a]))
        { c.h with satf := c.h.satf &&& ~~~((c.h.readS a.val).setWidth 4) } (c.f.advance 1))
  | .trappc =>
    deferred s fun c =>
      .next (s.put (c.g.orErr (c.h.sourceErr [a]))
        { c.h with trappc := BitVec.ofNat 54 ((c.h.readS a.val).toNat / 4) } (c.f.advance 1))
  | .errsum =>
    deferred s fun c =>
      let g1 := c.g.orErr (c.h.sourceErr [a])
      .next (s.put { g1 with errsum := g1.errsum &&& ~~~((c.h.readS a.val).setWidth 9) } c.h (c.f.advance 1))
  | _ => withCur s fun c => s.trap c (Trap.inGang 0x01 0x0A (c.h.enabled c.f))

end Sys2Proof.Machine
end

