-- ==== Sys2Proof/Machine/Dispatch.lean ====
section
/-! DEFINITION. The meaning of every instruction: one arm per constructor of Instr. -/

namespace Sys2Proof.Machine

def exec (i : Instr) (s : State) : Host.Outcome State Fault Refusal :=
  match i with
  | .sadd d a b => Sys2Proof.Machine.execSadd d a b s
  | .ssub d a b => Sys2Proof.Machine.execSsub d a b s
  | .smul d a b => Sys2Proof.Machine.execSmul d a b s
  | .smulh d a b unsigned => Sys2Proof.Machine.execSmulh d a b unsigned s
  | .sand d a b => Sys2Proof.Machine.execSand d a b s
  | .sor d a b => Sys2Proof.Machine.execSor d a b s
  | .sxor d a b => Sys2Proof.Machine.execSxor d a b s
  | .sshl d a b => Sys2Proof.Machine.execSshl d a b s
  | .sshr d a b => Sys2Proof.Machine.execSshr d a b s
  | .ssra d a b => Sys2Proof.Machine.execSsra d a b s
  | .smin d a b => Sys2Proof.Machine.execSmin d a b s
  | .smax d a b => Sys2Proof.Machine.execSmax d a b s
  | .sminn d a b => Sys2Proof.Machine.execSminn d a b s
  | .smaxn d a b => Sys2Proof.Machine.execSmaxn d a b s
  | .scmp cc k a b => Sys2Proof.Machine.execScmp cc k a b s
  | .ssel d a b k => Sys2Proof.Machine.execSsel d a b k s
  | .smov d a => Sys2Proof.Machine.execSmov d a s
  | .spopc d a => Sys2Proof.Machine.execSpopc d a s
  | .sclz d a => Sys2Proof.Machine.execSclz d a s
  | .fmtset a => Sys2Proof.Machine.execFmtset a s
  | .fmtget d => Sys2Proof.Machine.execFmtget d s
  | .brx a => Sys2Proof.Machine.execBrx a s
  | .park a b dbl ne => Sys2Proof.Machine.execPark a b dbl ne s
  | .launch a b nw k => Sys2Proof.Machine.execLaunch a b nw k s
  | .batonTake => Sys2Proof.Machine.execBatonTake s
  | .batonPass b => Sys2Proof.Machine.execBatonPass b s
  | .batonPassAny => Sys2Proof.Machine.execBatonPassAny s
  | .lease a b => Sys2Proof.Machine.execLease a b s
  | .unlease a => Sys2Proof.Machine.execUnlease a s
  | .finit a => Sys2Proof.Machine.execFinit a s
  | .ffill a b => Sys2Proof.Machine.execFfill a b s
  | .ftake d a => Sys2Proof.Machine.execFtake d a s
  | .fpeek d a k => Sys2Proof.Machine.execFpeek d a k s
  | .qinit a b => Sys2Proof.Machine.execQinit a b s
  | .qarr a => Sys2Proof.Machine.execQarr a s
  | .qbyt a b => Sys2Proof.Machine.execQbyt a b s
  | .qwait a b => Sys2Proof.Machine.execQwait a b s
  | .saddImm d a im => Sys2Proof.Machine.execSaddImm d a im s
  | .ssubImm d a im => Sys2Proof.Machine.execSsubImm d a im s
  | .smulImm d a im => Sys2Proof.Machine.execSmulImm d a im s
  | .sandImm d a im => Sys2Proof.Machine.execSandImm d a im s
  | .sorImm d a im => Sys2Proof.Machine.execSorImm d a im s
  | .sxorImm d a im => Sys2Proof.Machine.execSxorImm d a im s
  | .sshlImm d a im => Sys2Proof.Machine.execSshlImm d a im s
  | .sshrImm d a im => Sys2Proof.Machine.execSshrImm d a im s
  | .ssraImm d a im => Sys2Proof.Machine.execSsraImm d a im s
  | .sminImm d a im => Sys2Proof.Machine.execSminImm d a im s
  | .smaxImm d a im => Sys2Proof.Machine.execSmaxImm d a im s
  | .sminnImm d a im => Sys2Proof.Machine.execSminnImm d a im s
  | .smaxnImm d a im => Sys2Proof.Machine.execSmaxnImm d a im s
  | .scmpImm cc k a im => Sys2Proof.Machine.execScmpImm cc k a im s
  | .sli d im => Sys2Proof.Machine.execSli d im s
  | .slih d a im => Sys2Proof.Machine.execSlih d a im s
  | .sliw d a lit => Sys2Proof.Machine.execSliw d a lit s
  | .sbfe d a len pos => Sys2Proof.Machine.execSbfe d a len pos s
  | .sbfi d a len pos => Sys2Proof.Machine.execSbfi d a len pos s
  | .sld d a im => Sys2Proof.Machine.execSld d a im s
  | .sst v a im => Sys2Proof.Machine.execSst v a im s
  | .copy v a ch => Sys2Proof.Machine.execCopy v a ch s
  | .slds d a im => Sys2Proof.Machine.execSlds d a im s
  | .ssts v a im => Sys2Proof.Machine.execSsts v a im s
  | .srd d n => Sys2Proof.Machine.execSrd d n s
  | .swr n a => Sys2Proof.Machine.execSwr n a s
  | .give n => Sys2Proof.Machine.execGive n s
  | .claim n => Sys2Proof.Machine.execClaim n s
  | .nop => Sys2Proof.Machine.execNop s
  | .bra off => Sys2Proof.Machine.execBra off s
  | .brc neg k off => Sys2Proof.Machine.execBrc neg k off s
  | .brv t p neg off => Sys2Proof.Machine.execBrv t p neg off s
  | .rtok t => Sys2Proof.Machine.execRtok t s
  | .loop n off => Sys2Proof.Machine.execLoop n off s
  | .call off => Sys2Proof.Machine.execCall off s
  | .ret => Sys2Proof.Machine.execRet s
  | .exit p neg => Sys2Proof.Machine.execExit p neg s
  | .wait k n => Sys2Proof.Machine.execWait k n s
  | .yield => Sys2Proof.Machine.execYield s
  | .waitb n => Sys2Proof.Machine.execWaitb n s
  | .yieldB n off => Sys2Proof.Machine.execYieldB n off s
  | .seal => Sys2Proof.Machine.execSeal s
  | .hint k => Sys2Proof.Machine.execHint k s
  | .trap code => Sys2Proof.Machine.execTrap code s
  | .bkpt code => Sys2Proof.Machine.execBkpt code s
  | .vadd f => Sys2Proof.Machine.execVadd f s
  | .vsub f => Sys2Proof.Machine.execVsub f s
  | .vmul f => Sys2Proof.Machine.execVmul f s
  | .vmulh f => Sys2Proof.Machine.execVmulh f s
  | .vmad f => Sys2Proof.Machine.execVmad f s
  | .vmadw f => Sys2Proof.Machine.execVmadw f s
  | .vabs f => Sys2Proof.Machine.execVabs f s
  | .vneg f => Sys2Proof.Machine.execVneg f s
  | .vmin f => Sys2Proof.Machine.execVmin f s
  | .vmax f => Sys2Proof.Machine.execVmax f s
  | .vabsd f => Sys2Proof.Machine.execVabsd f s
  | .vsad f => Sys2Proof.Machine.execVsad f s
  | .vand f => Sys2Proof.Machine.execVand f s
  | .vor f => Sys2Proof.Machine.execVor f s
  | .vxor f => Sys2Proof.Machine.execVxor f s
  | .vnot f => Sys2Proof.Machine.execVnot f s
  | .vshl f => Sys2Proof.Machine.execVshl f s
  | .vshr f => Sys2Proof.Machine.execVshr f s
  | .vsra f => Sys2Proof.Machine.execVsra f s
  | .vrot f => Sys2Proof.Machine.execVrot f s
  | .vbfe f => Sys2Proof.Machine.execVbfe f s
  | .vbfi f => Sys2Proof.Machine.execVbfi f s
  | .vpopc f => Sys2Proof.Machine.execVpopc f s
  | .vclz f => Sys2Proof.Machine.execVclz f s
  | .vctz f => Sys2Proof.Machine.execVctz f s
  | .vbrev f => Sys2Proof.Machine.execVbrev f s
  | .vbswp f => Sys2Proof.Machine.execVbswp f s
  | .vcmp f => Sys2Proof.Machine.execVcmp f s
  | .vsel f => Sys2Proof.Machine.execVsel f s
  | .vmov f => Sys2Proof.Machine.execVmov f s
  | .vpack f => Sys2Proof.Machine.execVpack f s
  | .vunpk f => Sys2Proof.Machine.execVunpk f s
  | .vfadd f => Sys2Proof.Machine.execVfadd f s
  | .vfsub f => Sys2Proof.Machine.execVfsub f s
  | .vfmul f => Sys2Proof.Machine.execVfmul f s
  | .vfma f => Sys2Proof.Machine.execVfma f s
  | .vfmin f => Sys2Proof.Machine.execVfmin f s
  | .vfmax f => Sys2Proof.Machine.execVfmax f s
  | .vfcmp f => Sys2Proof.Machine.execVfcmp f s
  | .vfclass f => Sys2Proof.Machine.execVfclass f s
  | .vfrnd f => Sys2Proof.Machine.execVfrnd f s
  | .vfrcp f => Sys2Proof.Machine.execVfrcp f s
  | .vfrsq f => Sys2Proof.Machine.execVfrsq f s
  | .vfsqrt f => Sys2Proof.Machine.execVfsqrt f s
  | .vfdiv f => Sys2Proof.Machine.execVfdiv f s
  | .vfexp2 f => Sys2Proof.Machine.execVfexp2 f s
  | .vflog2 f => Sys2Proof.Machine.execVflog2 f s
  | .vfsin f => Sys2Proof.Machine.execVfsin f s
  | .vfcos f => Sys2Proof.Machine.execVfcos f s
  | .vdot f => Sys2Proof.Machine.execVdot f s
  | .vcvt f => Sys2Proof.Machine.execVcvt f s
  | .vcvtx f => Sys2Proof.Machine.execVcvtx f s
  | .vscale f => Sys2Proof.Machine.execVscale f s
  | .vxln f => Sys2Proof.Machine.execVxln f s
  | .vqswz f => Sys2Proof.Machine.execVqswz f s
  | .vqdx f => Sys2Proof.Machine.execVqdx f s
  | .vqdy f => Sys2Proof.Machine.execVqdy f s
  | .vmatch f => Sys2Proof.Machine.execVmatch f s
  | .vballot f => Sys2Proof.Machine.execVballot f s
  | .vvote f => Sys2Proof.Machine.execVvote f s
  | .vscan f => Sys2Proof.Machine.execVscan f s
  | .vred f => Sys2Proof.Machine.execVred f s
  | .vbcast f => Sys2Proof.Machine.execVbcast f s
  | .vld f => Sys2Proof.Machine.execVld f s
  | .vst f => Sys2Proof.Machine.execVst f s
  | .vlds f => Sys2Proof.Machine.execVlds f s
  | .vsts f => Sys2Proof.Machine.execVsts f s
  | .vpref f => Sys2Proof.Machine.execVpref f s
  | .vatom f => Sys2Proof.Machine.execVatom f s
  | .vcas f => Sys2Proof.Machine.execVcas f s
  | .vfar f => Sys2Proof.Machine.execVfar f s
  | .emit f => Sys2Proof.Machine.execEmit f s
  | .mma f => Sys2Proof.Machine.execMma f s
  | .mmaS f => Sys2Proof.Machine.execMmaS f s
  | .mmaCsr f => Sys2Proof.Machine.execMmaCsr f s
  | .mzero f => Sys2Proof.Machine.execMzero f s
  | .mlda f => Sys2Proof.Machine.execMlda f s
  | .msta f => Sys2Proof.Machine.execMsta f s
  | .vrcq f => Sys2Proof.Machine.execVrcq f s
  | .vtrace f => Sys2Proof.Machine.execVtrace f s
  | .vsamp f => Sys2Proof.Machine.execVsamp f s
  | .vsampl f => Sys2Proof.Machine.execVsampl f s
  | .vcov f => Sys2Proof.Machine.execVcov f s
  | .illegalInstruction detail => Sys2Proof.Machine.execIllegalInstruction detail s
  | .ownctlClaim m => Sys2Proof.Machine.execOwnctlClaim m s
  | .ownctlGive m t => Sys2Proof.Machine.execOwnctlGive m t s
  | .ownctlAccept m => Sys2Proof.Machine.execOwnctlAccept m s
  | .ownctlCancel m => Sys2Proof.Machine.execOwnctlCancel m s
  | .ownctlForce m => Sys2Proof.Machine.execOwnctlForce m s
  | .electionWindowExpiry => Sys2Proof.Machine.execElectionWindowExpiry s
  | .giveTimerExpiry => Sys2Proof.Machine.execGiveTimerExpiry s
  | .gsubmitWrite m val => Sys2Proof.Machine.execGsubmitWrite m val s
  | .admission => Sys2Proof.Machine.execAdmission s
  | .gxrelWrite m val => Sys2Proof.Machine.execGxrelWrite m val s
  | .gresumeRetry m gh => Sys2Proof.Machine.execGresumeRetry m gh s
  | .gresumeDeliver m gh => Sys2Proof.Machine.execGresumeDeliver m gh s
  | .gresumeKill m gh => Sys2Proof.Machine.execGresumeKill m gh s
  | .tileStart st => Sys2Proof.Machine.execTileStart st s
  | .groupPlace st => Sys2Proof.Machine.execGroupPlace st s
  | .recarve st => Sys2Proof.Machine.execRecarve st s
  | .recarveDone core => Sys2Proof.Machine.execRecarveDone core s
  | .claimGrant core => Sys2Proof.Machine.execClaimGrant core s
  | .claimDeadlock core => Sys2Proof.Machine.execClaimDeadlock core s
  | .classPhaseChange core => Sys2Proof.Machine.execClassPhaseChange core s
  | .varResultLand gid gang op => Sys2Proof.Machine.execVarResultLand gid gang op s
  | .windowCommit gid gang => Sys2Proof.Machine.execWindowCommit gid gang s
  | .serialModeEnd gid gang => Sys2Proof.Machine.execSerialModeEnd gid gang s
  | .heldFaultResolve gid gang => Sys2Proof.Machine.execHeldFaultResolve gid gang s
  | .bankRequest => Sys2Proof.Machine.execBankRequest s
  | .orderedContribution st => Sys2Proof.Machine.execOrderedContribution st s
  | .ordclrWrite m st val => Sys2Proof.Machine.execOrdclrWrite m st val s
  | .parkReread gid gang entry => Sys2Proof.Machine.execParkReread gid gang entry s
  | .waiterResend gid gang entry => Sys2Proof.Machine.execWaiterResend gid gang entry s
  | .copyAccept engine ch => Sys2Proof.Machine.execCopyAccept engine ch s
  | .copyRun engine ch => Sys2Proof.Machine.execCopyRun engine ch s
  | .copyComplete engine ch => Sys2Proof.Machine.execCopyComplete engine ch s
  | .leaseExpiry st => Sys2Proof.Machine.execLeaseExpiry st s
  | .macroOpStart core => Sys2Proof.Machine.execMacroOpStart core s
  | .macroOpComplete core => Sys2Proof.Machine.execMacroOpComplete core s
  | .slotPayloadReceive core sends => Sys2Proof.Machine.execSlotPayloadReceive core sends s
  | .busRetrain core => Sys2Proof.Machine.execBusRetrain core s
  | .busRetrainEnd core => Sys2Proof.Machine.execBusRetrainEnd core s
  | .recalibration core p0 p1 p2 p3 => Sys2Proof.Machine.execRecalibration core p0 p1 p2 p3 s
  | .arrayGate arr => Sys2Proof.Machine.execArrayGate arr s
  | .arrayWake arr => Sys2Proof.Machine.execArrayWake arr s
  | .tlbinvRange m val => Sys2Proof.Machine.execTlbinvRange m val s
  | .tlbinvAll m val => Sys2Proof.Machine.execTlbinvAll m val s
  | .tlbinvDone => Sys2Proof.Machine.execTlbinvDone s
  | .vatdirWrite m st val => Sys2Proof.Machine.execVatdirWrite m st val s
  | .gnetEnable m n val => Sys2Proof.Machine.execGnetEnable m n val s
  | .gnetDisable m n val => Sys2Proof.Machine.execGnetDisable m n val s
  | .trainingStep st => Sys2Proof.Machine.execTrainingStep st s
  | .nodeGroupLaunch slot pass tile node => Sys2Proof.Machine.execNodeGroupLaunch slot pass tile node s
  | .rasterise slot pass tile node => Sys2Proof.Machine.execRasterise slot pass tile node s
  | .traverseRay unit => Sys2Proof.Machine.execTraverseRay unit s
  | .treeletLoad unit => Sys2Proof.Machine.execTreeletLoad unit s
  | .rayWaitTimeout unit => Sys2Proof.Machine.execRayWaitTimeout unit s
  | .blend slot pass tile node => Sys2Proof.Machine.execBlend slot pass tile node s
  | .tileOverrun slot pass tile => Sys2Proof.Machine.execTileOverrun slot pass tile s
  | .preempt st => Sys2Proof.Machine.execPreempt st s
  | .eviction core => Sys2Proof.Machine.execEviction core s
  | .saveTimeout gid => Sys2Proof.Machine.execSaveTimeout gid s
  | .saveCapture gid => Sys2Proof.Machine.execSaveCapture gid s
  | .hitDeliveryToSave => Sys2Proof.Machine.execHitDeliveryToSave s
  | .groupRestore st => Sys2Proof.Machine.execGroupRestore st s
  | .faultRecordWrite => Sys2Proof.Machine.execFaultRecordWrite s
  | .tileRetire slot pass tile => Sys2Proof.Machine.execTileRetire slot pass tile s
  | .decrementArrival st => Sys2Proof.Machine.execDecrementArrival st s
  | .completionRecordWrite => Sys2Proof.Machine.execCompletionRecordWrite s
  | .eventInterrupt => Sys2Proof.Machine.execEventInterrupt s
  | .copyPassTile st => Sys2Proof.Machine.execCopyPassTile st s
  | .collectiveChunk st => Sys2Proof.Machine.execCollectiveChunk st s
  | .collectiveLinkTimeout => Sys2Proof.Machine.execCollectiveLinkTimeout s
  | .flitReceive flit => Sys2Proof.Machine.execFlitReceive flit s
  | .linkTrain up peerRank => Sys2Proof.Machine.execLinkTrain up peerRank s
  | .svccmdUpdate m val => Sys2Proof.Machine.execSvccmdUpdate m val s
  | .svccmdSpareCore m val => Sys2Proof.Machine.execSvccmdSpareCore m val s
  | .svccmdRemapVatBank m val => Sys2Proof.Machine.execSvccmdRemapVatBank m val s
  | .svccmdRetrainChannel m val => Sys2Proof.Machine.execSvccmdRetrainChannel m val s
  | .svccmdAttest m val => Sys2Proof.Machine.execSvccmdAttest m val s
  | .serviceCommandDone => Sys2Proof.Machine.execServiceCommandDone s
  | .deviceReset flash => Sys2Proof.Machine.execDeviceReset flash s
  | .thermalTrip tj => Sys2Proof.Machine.execThermalTrip tj s
  | .registerWrite m off val => Sys2Proof.Machine.execRegisterWrite m off val s
  | .linkDown => Sys2Proof.Machine.execLinkDown s
  | .spareDrainTimeout => Sys2Proof.Machine.execSpareDrainTimeout s
  | .arrayWakeEnd arr => Sys2Proof.Machine.execArrayWakeEnd arr s

end Sys2Proof.Machine
end

