-- ==== Sys2Proof/Machine/Events.lean ====
section
/-! DEFINITION. What the device does next by itself: the steps that are due, in the order in which the model takes them, and when the next falls due (log 1). -/

namespace Sys2Proof.Machine

open Sys2Proof.Bits

/-- Every gang with its group. -/
def State.allGangs (s : State) : List (Group × Gang) := s.groups.flatMap fun g => g.gangs.map fun h => (g, h)

/-- Windows that may close: a held fault or a commit (R368, R371). -/
def State.windowEvents (s : State) : List Instr :=
  s.allGangs.flatMap fun x =>
    if x.2.window.isNone then [] else [.heldFaultResolve x.1.gid x.2.id, .windowCommit x.1.gid x.2.id]

/-- Outstanding operations that may land (R106). -/
def State.landEvents (s : State) : List Instr :=
  s.allGangs.flatMap fun x =>
    (if x.2.serial = some (.count 0) then [.serialModeEnd x.1.gid x.2.id] else [])
      ++ (x.2.ops.filter fun o => o.wait == .time && o.due ≤ s.time).map fun o => .varResultLand x.1.gid x.2.id o.id

/-- Words to be sent again, of resident groups whose gang no waiting CLAIM holds (R174, R378). -/
def State.resendEvents (s : State) : List Instr :=
  s.allGangs.flatMap fun x =>
    if x.1.place != .resident || x.2.claim.isSome then []
    else (x.2.frags.filter fun f => match f.wait with
      | .resend n _ _ => decide (n ≤ (s.core x.1.core).cycle)
      | _ => false).map fun f => .waiterResend x.1.gid x.2.id f.entry

/-- Requests at the banks, ordered contributions among them, in the order in which the banks accept them (R254, R255, R275, R380). -/
def State.bankEvents (s : State) : List Instr :=
  let come := (s.nextRequest.toList.map fun r => (r, Instr.bankRequest))
    ++ ([0, 1] : List StackId).filterMap fun st => (s.nextOrdered st).map fun r => (r, Instr.orderedContribution st)
  (sortBy (fun x => s.accepted x.1) (come.filter fun x => x.1.due ≤ s.time)).map fun x => x.2

/-- The couch engines (R288): channels with a copy, or with a COPY blocked on them. -/
def State.copyEvents (s : State) : List Instr :=
  let blocked := s.allGangs.flatMap fun x => x.2.frags.filterMap fun f => match f.wait with | .channel e ch _ => some (e, ch) | _ => none
  (s.copies.filterMap fun c => match c.state with
    | .running due => if due ≤ s.time then some (.copyComplete c.engine c.ch) else none
    | .waiting => some (.copyRun c.engine c.ch)
    | _ => none)
    ++ (s.copies.filterMap fun c => if c.state = .queued then some (.copyAccept c.engine c.ch) else none)
    ++ blocked.map fun x => .copyAccept x.1 x.2

/-- A core's own steps: claims, macro-operations, the bus, a recarve, eviction. -/
def State.coreEvents (s : State) : List Instr :=
  s.cores.flatMap fun c =>
    (if c.2.claims.isEmpty then [] else [.claimGrant c.1, .claimDeadlock c.1])
      ++ (if c.2.macros.isEmpty then [] else [.macroOpStart c.1])
      ++ [.busRetrainEnd c.1, .busRetrain c.1, .recarveDone c.1, .eviction c.1]

/-- The engines that share the scratchpads' banks with the gangs, which come first in a cycle: matrix sequencers, then couch engines (R261). -/
def State.engineEvents (s : State) : List Instr :=
  (s.cores.filterMap fun c => if c.2.macros.any fun m => m.running && m.due ≤ s.time then some (Instr.macroOpComplete c.1) else none)
    ++ s.copyEvents

/-- Saves (R396 to R403). -/
def State.saveEvents (s : State) : List Instr :=
  ((s.groups.filter fun g => g.savePending.isSome).flatMap fun g => [.saveCapture g.gid, .saveTimeout g.gid]) ++ [.hitDeliveryToSave]

/-- Units of the record passes: rasterisers, blenders, traversal units (R350 to R354). -/
def State.recordEvents (s : State) : List Instr :=
  (s.recTiles.flatMap fun r =>
    ((List.range 16).filter fun n => !(r.queue n).isEmpty).flatMap fun n =>
      [.rasterise r.tref.slot r.tref.pass r.tref.tile n, .blend r.tref.slot r.tref.pass r.tref.tile n])
    ++ (if s.recTiles.isEmpty && s.rays.isEmpty then []
        else (List.range 24).flatMap fun u => [.traverseRay u, .rayWaitTimeout u, .treeletLoad u])

/-- Work that a stack could start now, with its key of R59: a tile, a group, a saved group, a record-pass group, an engine's tile. -/
def State.startable (s : State) (st : StackId) : List (List Nat × Instr) :=
  let i := st.val
  let key := fun (t : TileRef) => s.workKey t i 0
  (match s.nextStart i with | some t => [(key t, .tileStart st)] | none => [])
    ++ (match s.nextPlace i with | some w => [(s.waitKey i w, .groupPlace st)] | none => [])
    ++ (match s.nextRestore i with | some x => [(s.savedKey i x.1, .groupRestore st)] | none => [])
    ++ (s.recTiles.flatMap fun r =>
      if s.tileStack r.tref != i then []
      else ((List.range 16).filter fun n => !(r.queue n).isEmpty).filterMap fun n =>
        (s.launchNode r.tref n).map fun _ => (s.workKey r.tref i n, .nodeGroupLaunch r.tref.slot r.tref.pass r.tref.tile n))
    ++ (match s.nextCopyTile i with | some t => [(key t, .copyPassTile st)] | none => [])
    ++ (match s.collectiveNext i with | some x => [(key x.1, .collectiveChunk st)] | none => [])
    ++ (match s.trainingTile i with | some t => [(key t, .trainingStep st)] | none => [])

/-- What the stacks start next, in the order of R59, of tiles released together the lower first whichever stack launches it (R29); then
recarving and pre-emption (R60, R69). -/
def State.startEvents (s : State) : List Instr :=
  if s.frames.isEmpty then []
  else
    (sortBy (fun (x : List Nat × Instr) => x.1) (s.startable 0 ++ s.startable 1)).map (fun x => x.2)
      ++ [.recarve 0, .recarve 1, .preempt 0, .preempt 1]

/-- Tiles that have started. -/
def State.startedTiles (s : State) : List TileRef := [0, 1].flatMap fun st => s.tilesWhere st fun _ x => x.state == .started

/-- Overruns of tiles that have started (R58). -/
def State.tileEvents (s : State) : List Instr := s.startedTiles.map fun t => .tileOverrun t.slot t.pass t.tile

/-- The retirements that the graph units apply at the end of one of their cycles, those of tiles of this stack and those that have come over UCIe, in
the order of their tiles (R28, R409, R411). That their cycle is the base die's of 625 ps is a reading (log 123). -/
def State.retireEvents (s : State) : List Instr :=
  let key := fun (t : TileRef) => [t.pass, t.tile, t.slot]
  let come := ([0, 1] : List StackId).filterMap fun st => (s.nextDecrement st).bind fun d =>
    if d.due / 625 ≤ s.gu.cycle then some (key d.tref, Instr.decrementArrival st) else none
  (sortBy (fun (x : List Nat × Instr) => x.1) (come ++ s.startedTiles.map fun t => (key t, .tileRetire t.slot t.pass t.tile))).map fun x => x.2

/-- The graph unit's other steps, and those of the device as a whole. -/
def State.unitEvents (s : State) : List Instr :=
  [.admission, .faultRecordWrite, .completionRecordWrite, .eventInterrupt,
   .electionWindowExpiry, .giveTimerExpiry, .leaseExpiry 0, .leaseExpiry 1, .tlbinvDone, .collectiveLinkTimeout,
   .serviceCommandDone, .spareDrainTimeout]
    ++ (s.waking.filter fun x => x.2 ≤ s.time).map fun x => .arrayWakeEnd x.1

/-- What the graph units do at the end of one of their cycles: retirements, then what these let start (R28, R29). -/
def State.graphEvents (s : State) : List Instr := s.retireEvents ++ s.startEvents

/-- Every other step that may be due now, in the model's order (log 1). -/
def State.events (s : State) : List Instr :=
  s.landEvents ++ s.bankEvents ++ s.resendEvents ++ s.coreEvents ++ s.saveEvents ++ s.recordEvents
    ++ s.tileEvents ++ s.unitEvents ++ (if s.recalDue ≤ s.time then [s.nextRecal] else [])

/-! ## Time -/

/-- Times at which something falls due. -/
def State.timers (s : State) : List Nat :=
  (s.allGangs.flatMap fun x => x.2.ops.map fun o => o.due)
    ++ s.bankQ.map (fun r => r.due)
    ++ (s.copies.filterMap fun c => match c.state with | .running due => some due | _ => none)
    ++ (s.cores.flatMap fun c =>
      c.2.macros.map (fun m => m.due) ++ c.2.retraining.toList ++ (c.2.recarve.map fun r => r.1).toList
        ++ [c.2.retrainDue, c.2.retrainDue + 5000000000])
    ++ (s.groups.filterMap fun g => g.savePending.map fun p => p.1 + 20000000)
    ++ (s.rays.map fun y => (y.entered + 20000) * 1000)
    ++ (s.decrements.map fun d => d.due)
    ++ ((s.vat0.leases ++ s.vat1.leases).map fun l => l.ends * 1000)
    ++ s.waking.map (fun x => x.2)
    ++ (s.svc.run.map fun r => r.due).toList
    ++ (s.link.downSince.map fun d => d + 100000000000).toList
    ++ [s.own.windowEnd, s.own.giveEnd, (s.ev.t0 + 1000 * s.ev.time) * 1000, s.recalDue]
    ++ (s.frames.flatMap fun f => f.passes.flatMap fun p => p.tiles.filterMap fun x => x.began.map fun b => (b + p.rcd.budget + 1) * 1000)

/-- Cores that hold a group, which alone are stepped cycle by cycle; of these the one whose current cycle began first. -/
def State.liveCore (s : State) : Option Nat :=
  let cs := (s.groups.filter fun g => g.place == .resident).map fun g => g.core
  leastBy (fun c => [(s.core c).start, c]) cs

/-- The time up to which everything has happened that reaches a graph unit: no core that holds a group is behind it. -/
def State.reached (s : State) : Nat :=
  match s.liveCore with
  | some c => (s.core c).start
  | none => s.time

/-- Whether a cycle of the graph units has ended, with frames in flight, and what arrived in it is to be applied (R28, R254). -/
def State.graphDue (s : State) : Bool := !s.frames.isEmpty && decide (s.gu.cycle < s.reached / 625)

/-- The end of the graph units' cycle, where no core holds a group. -/
def State.graphTimer (s : State) : List Nat := if s.frames.isEmpty || s.liveCore.isSome then [] else [(s.gu.cycle + 1) * 625]

/-- The next time at which something falls due, or that the outside waits for. -/
def State.nextTimer (s : State) : Option Nat :=
  let outside := match s.inputs with | .elapse t :: _ => [t] | _ => []
  (s.timers ++ s.graphTimer ++ outside).foldl (fun (m : Option Nat) t =>
    if t ≤ s.time then m else match m with | none => some t | some x => some (min x t)) none

/-- Whether a table, or one under it, has a PRIVATE leaf whose page holds a physical address; fuel counts the levels left (R240, R241). -/
def State.privateUnder (s : State) (pa : Nat) : Nat → Nat → Bool
  | 0, _ => false
  | n + 1, t =>
    let lv := 5 - n
    (List.range (tableSize lv / 8)).any fun i =>
      let e := s.mem.readN (t + 8 * i) 8
      e.testBit 0 && !s.memBad (t + 8 * i) && !s.entryBad lv e
        && if e.testBit 1 then entryAttr e == 3 && decide (entryAddr e ≤ pa) && decide (pa < entryAddr e + pageSize lv)
           else s.privateUnder pa n (entryAddr e)

/-- Whether a physical address lies on a PRIVATE page of the address space (R247, log 115). -/
def State.isPrivate (s : State) (pa : Nat) : Bool :=
  s.xl.en && s.plainRange (s.xl.root.toNat * 4096) 4096 && s.privateUnder pa 5 (s.xl.root.toNat * 4096)

/-- Whether an access of a host fails: it meets no memory, or a PRIVATE page, whose private-owner fault is the host's (R247, R250). -/
def State.hostFault (s : State) (pa n : Nat) : Bool :=
  n = 0 || s.busError pa || s.busError (pa + n - 1) || (pageStarts pa n).any s.isPrivate

/-- A host store as it arrives at its home slice (R363); one that fails has no effect. -/
def State.hostStore (s : State) (pa : Nat) (bytes : List Byte) : State :=
  if s.hostFault pa bytes.length then s else s.writePhys none pa bytes

/-- A host load as it takes its place at the home slice of its bytes (R363, R369); one that fails has no effect. -/
def State.hostLoad (s : State) (pa n : Nat) : State :=
  if s.hostFault pa n then s else (s.conflict none pa n false).readHome pa n

/-- A number joins a list that has it once. -/
def joinOnce (n : Nat) (l : List Nat) : List Nat := if l.contains n then l else n :: l

/-- An uncorrectable error arises (R330, R404, R407). -/
def State.flawed (s : State) : Flaw → State
  | .line n => { s with memErr := (n, 2 ^ 128 - 1) :: s.memErr.filter fun e => e.1 != n }
  | .scratch core w => s.updCore core fun k => { k with scratchErr := joinOnce w k.scratchErr }
  | .tile core key => s.updCore core fun k => { k with accErr := joinOnce key k.accErr }
  | .vreg gid gang key => s.updGang gid gang fun h => { h with verr := joinOnce key h.verr }
  | .sreg gid gang n => s.updGang gid gang fun h => { h with serr := joinOnce n h.serr }
  | .preg gid gang n => s.updGang gid gang fun h => { h with perr := (List.range 64).foldl (fun l k => joinOnce (64 * n + k) l) h.perr }
  | .staging core op ofB w => s.updCore core fun k => { k with macros := k.macros.map fun m =>
      if m.op != op then m else if ofB then { m with errB := joinOnce w m.errB } else { m with errA := joinOnce w m.errA } }
  | .control gid gang => s.updGang gid gang fun h => { h with ctlErr := true }

end Sys2Proof.Machine
end

