-- ==== Sys2Proof/Machine/Step.lean ====
section
/-! DEFINITION. One step of the machine, and the placing of one instruction where the next step fetches (log 1). -/

namespace Sys2Proof.Machine

/-- The state after an instruction has come to issue; a fault or a refusal stands. -/
def finishIssue (s : State) (r : Ready) : Out → Out
  | .next t => .next (s.afterIssue r t)
  | .fault e => .fault e
  | .refused e => .refused e

/-- A granted instruction comes to issue: the instruction that its fragment fetched runs. -/
def State.issue (s : State) (r : Ready) : Out := finishIssue s r (r.what.run exec (s.issueStart r))

/-- The first device step of a list that happens. -/
def State.firstStep (s : State) : List Instr → Option State
  | [] => none
  | i :: is =>
    match exec i s with
    | .next t => some t
    | _ => s.firstStep is

/-- What the outside asks for: a step that the device cannot take now has no effect. -/
def State.obey (s : State) (i : Instr) : Out :=
  match exec i s with
  | .next t => .next t
  | _ => .next s

/-- Time goes on: to the end of the cycle of the core that is furthest behind, or to what falls due before it. -/
def State.advance (s : State) : Out :=
  match s.liveCore, s.nextTimer with
  | some c, some t =>
    if t < (s.core c).start + (s.core c).cycleLength then .next { s with time := t } else exec (.classPhaseChange c) s
  | some c, none => exec (.classPhaseChange c) s
  | none, some t => .next { s with time := t }
  | none, none => .next s

/-- The first of some steps that happens, or else what follows. -/
def State.firstOr (s : State) (is : List Instr) (k : Out) : Out :=
  match s.firstStep is with
  | some t => .next t
  | none => k

/-- What the device does by itself once no window closes and no instruction issues. -/
def State.background (s : State) : Out := s.firstOr s.events s.advance

/-- A cycle of the graph units ends: what arrived in it is applied, and what that lets start starts (R28). -/
def State.graphTurn (s : State) : Out := s.firstOr s.graphEvents (.next { s with gu := { s.gu with cycle := s.gu.cycle + 1 } })

/-- A core's cycle: the engines first, at its beginning (R261); then an instruction granted in it issues, or, once none is left, a step that is
due. -/
def State.coreTurn (s : State) (core : Nat) : Out :=
  s.firstOr (if (s.core core).turn.isNone then s.engineEvents else []) (
    let s1 := s.beginTurn exec core
    match s1.choose core with
    | some r => s1.issue r
    | none => s1.background)

/-- The device by itself: a window closes; a cycle of the graph units ends; the core furthest behind goes on with its cycle; a step that is due; time
goes on. -/
def State.run (s : State) : Out :=
  s.firstOr s.windowEvents (
    if s.graphDue then s.graphTurn
    else
      match s.liveCore with
      | none => s.firstOr s.engineEvents s.background
      | some core => s.coreTurn core)

/-- One step of the machine. -/
def step (s : State) : Host.Outcome State Fault Refusal :=
  match s.dev.tripped, s.inputs with
  | true, .command (.deviceReset f) :: rest => exec (.deviceReset f) { s with inputs := rest }
  | true, _ => .fault .heldInReset
  | false, .command i :: rest =>
    let x := s.firstCommand i rest
    ({ s with inputs := x.2 } : State).obey x.1
  | false, .hostStore pa bytes :: rest => .next (({ s with inputs := rest } : State).hostStore pa bytes)
  | false, .hostLoad pa n :: rest => .next (({ s with inputs := rest } : State).hostLoad pa n)
  | false, .flaw x :: rest => .next (({ s with inputs := rest } : State).flawed x)
  | false, .elapse t :: rest => if t ≤ s.time then .next { s with inputs := rest } else s.run
  | false, [] => s.run

/-! ## Placing an instruction -/

/-- The address, virtual and physical, at which `withFetchWord` places an instruction. -/
def placedAt : Nat := 0x10000

/-- The kernel of the group that runs a placed instruction. -/
def placedKernel : Kernel := ⟨0, 0, 0, 0, BitVec.ofNat 56 placedAt, false, 16, 2, 2, 7, 40⟩

/-- The gang that runs a placed instruction: 32 lanes on partition 0. -/
def placedGang : Gang := Gang.start 0 32 0 0 0 0xFFFFFFFF 0 0 320 (BitVec.ofNat 56 placedAt)

/-- The group that runs a placed instruction, with a scratchpad window and every accumulator tile of core 0. -/
def placedGroup : Group where
  gid := 0
  place := .resident
  core := 0
  tref := ⟨0, 0, 0⟩
  frame := 0
  ftag := 0
  node := none
  groupId := 0
  tilex := 0
  tiley := 0
  kernel := placedKernel
  scr := 16
  chk := false
  window := 0
  tiles := [0, 1, 2, 3, 4, 5, 6, 7]
  spare := 0
  errsum := 0
  gangs := [placedGang]
  savePending := none
  handle := none
  since := 0
  deliver := false
  meter := 0
  macros := []
  chunks := []

/-- The page tables that map the first 512 MiB one to one, writable and executable: levels 1 to 3 at 1 MiB. -/
def placedTables (m : Memory) : Memory :=
  ((m.writeL 0x100000 (Bits.toBytes 8 0x101001)).writeL 0x101000 (Bits.toBytes 8 0x102001)).writeL 0x102000 (Bits.toBytes 8 0x1B)

/-- One instruction stored where the next step fetches: a running group on core 0 stands at it, translation is on, and nothing
else asks for the step. -/
def State.withFetchWord (s : State) (nbits w : Nat) : State :=
  { s with
    dev := { s.dev with tripped := false }, inputs := [], cur := none, copies := [], cores := [(0, { Core.fresh with scr := 16, phase0 := (3, 0), phase1 := (3, 0) })],
    xl := { s.xl with root := 0x100, en := true }, rings := [], groups := [placedGroup], gidCount := 1,
    mem := (placedTables s.mem).writeL placedAt (Decode.tableBytes (w % 2 ^ nbits)), memErr := [], caches := .empty }

end Sys2Proof.Machine
end

