-- ==== Sys2Proof/Safety.lean ====
section
/-! DEFINITION. What counts as a safe run, and the vocabulary of the statements: what a word leaves unchanged, and when a lane instruction issues. -/

namespace Sys2Proof.Machine

/-- An outcome that is a next state. -/
def isNext : Out → Bool
  | .next _ => true
  | _ => false

/-- A run of some steps that meets neither a fault nor a refusal. -/
def SafeFor : Nat → State → Prop
  | 0, _ => True
  | n + 1, s => ∃ t, step s = .next t ∧ SafeFor n t

/-- The state after a step, where there is one. -/
def Reaches (s t : State) : Prop := step s = .next t

/-- Memory and the table of cores are in their canonical forms: keys strictly rise and no entry holds what an unlisted key reads as. -/
def Canonical (s : State) : Prop := s.mem.wf = true ∧ Table.wf Core.fresh s.cores = true

/-- The instruction words of a fragment: all that a program can hold, the illegal ones included. -/
def isWord (i : Instr) : Bool :=
  i.lane?.isSome || !(Decode.encode i).isEmpty || (match i with | .illegalInstruction _ => true | _ => false)

/-- A scalar word is done: REGE where a source is uncorrectable, the gang as given, the fragment at the next word. -/
def wordDone (s : State) (c : Ctx) (srcs : List SReg) (h : Gang) : Out :=
  .next (s.put (c.g.orErr (c.h.sourceErr srcs)) h (c.f.advance 1))

/-- The registers of a gang are in canonical form, and the fields of its block of a save record fit the places that R401 gives them. -/
def Gang.FitsBlock (h : Gang) : Prop :=
  Table.wf 0 h.v = true ∧ Table.wf 0 h.s = true ∧ Table.wf 0 h.p = true ∧
    h.id < 32 ∧ h.width ≤ 64 ∧ (h.id + 1) * h.width ≤ 1024 ∧ h.vcount ≤ 320 ∧ h.frags.length ≤ 16 ∧ (∀ q, (h.stack q).length ≤ 16) ∧
    h.unfinished.length < 16 ∧ h.batch < 16 ∧ h.claim.getD 0 < 512 ∧ (∀ f ∈ h.frags, ∀ x, f.hint = some x → x.1 < 256) ∧
    ∀ x, h.handler = some x → x.1 ∈ h.frags.map fun f => f.entry

/-- The parts of a group that a save writes lie apart in its slot, inside the places that R399 gives them. -/
def Group.FitsSlot (g : Group) : Prop :=
  (g.gangs.map fun h => h.id).Nodup ∧ g.tiles.length ≤ 8 ∧ g.kernel.scrg < 512 ∧
    ∀ h ∈ g.gangs, h.FitsBlock ∧ ∀ k ∈ g.gangs, k.width = h.width

/-- A word that no window may hold issues: no window is open, and serial mode does not hold it back (R148, R370). -/
def Ctx.Issues (c : Ctx) : Prop := c.h.window = none ∧ c.h.serialBlocked = false

/-- No window is open, and every access of the gang has performed: an access that issues is not speculative (R365, R372). -/
def Ctx.Quiet (c : Ctx) : Prop := c.h.window = none ∧ c.h.accessPending = false

/-- A master whose commands reach the device: the PCIe port sends some in endpoint mode only (R3, R41). -/
def State.Sends (s : State) (m : Master) : Prop := m = 1 → s.cfg.rootComplex = false

/-- A master that is the owner, and whose writes reach the device (R41). -/
def State.Commands (s : State) (m : Master) : Prop := s.own.isOwner m = true ∧ s.Sends m

/-- No window of any gang has claimed a line of a range, or, against a write, marked one: an access there rolls nothing back (R369). -/
def State.NoConflict (s : State) (pa n : Nat) (write : Bool) : Prop :=
  ∀ g ∈ s.groups, ∀ h ∈ g.gangs, ∀ w : Window, h.window = some w → w.conflicts (linesOf pa n) write = false

/-- A park point goes past its saturation test: it has been made, or it finds nothing (R150). -/
def Ctx.Passes (c : Ctx) : Prop := c.f.tested = true ∨ c.saturated = false

/-- What a word of a fragment leaves unchanged: everything outside its gang; in the gang everything but the s register and the c bit
named, and in the fragment everything but where it stands and, where `fmt` says so, its FMT. -/
structure WordFrame (s t : State) (c : Ctx) (dest : Option SReg) (bit : Option CBit) (fmt : Bool) : Prop where
  device : t = { s with groups := t.groups }
  memory : ∀ pa, t.mem.read pa = s.mem.read pa
  groups : ∀ gid, gid ≠ c.g.gid → t.group? gid = s.group? gid
  now : ∃ c' : Ctx, t.ctx? = some c' ∧
    c'.g = { c.g with errsum := c'.g.errsum, gangs := c'.g.gangs } ∧ c'.g.errsum ||| REGE = c.g.errsum ||| REGE ∧
    (∀ id, id ≠ c.h.id → c'.g.gang? id = c.g.gang? id) ∧
    c'.h = { c.h with s := c'.h.s, serr := c'.h.serr, c := c'.h.c, frags := c'.h.frags } ∧
    (∀ r : Nat, (∀ x, dest = some x → r ≠ x.val) → c'.h.readS r = c.h.readS r) ∧
    (∀ k : CBit, bit ≠ some k → c'.h.readC k = c.h.readC k) ∧
    (∀ e, e ≠ c.f.entry → c'.h.frag? e = c.h.frag? e) ∧
    c'.f = { c.f with pc := c'.f.pc, fmtf := c'.f.fmtf, wait := .none, state := .runnable, tested := false } ∧
    (fmt = false → c'.f.fmtf = c.f.fmtf)

/-- The words whose whole effect is on registers of their gang and on where their fragment stands, with the c bit they write and
whether they write FMT. The s register they write is `destOf`'s. -/
def registerWord : Instr → Option (Option CBit × Bool)
  | .sadd _ _ _ | .ssub _ _ _ | .smul _ _ _ | .smulh _ _ _ _ | .sand _ _ _ | .sor _ _ _ | .sxor _ _ _ | .sshl _ _ _ | .sshr _ _ _
  | .ssra _ _ _ | .smin _ _ _ | .smax _ _ _ | .sminn _ _ _ | .smaxn _ _ _ | .ssel _ _ _ _ | .smov _ _ | .spopc _ _ | .sclz _ _
  | .fmtget _ | .saddImm _ _ _ | .ssubImm _ _ _ | .smulImm _ _ _ | .sandImm _ _ _ | .sorImm _ _ _ | .sxorImm _ _ _
  | .sshlImm _ _ _ | .sshrImm _ _ _ | .ssraImm _ _ _ | .sminImm _ _ _ | .smaxImm _ _ _ | .sminnImm _ _ _ | .smaxnImm _ _ _
  | .sli _ _ | .slih _ _ _ | .sliw _ _ _ | .sbfe _ _ _ _ | .sbfi _ _ _ _ | .srd _ _ | .nop | .bra _ | .brc _ _ _ | .call _
  | .loop _ _ => some (none, false)
  | .scmp _ k _ _ | .scmpImm _ k _ _ => some (some k, false)
  | .fmtset _ | .swr .fmt _ => some (none, true)
  | _ => none

/-! ## Lane instructions at issue -/

/-- A lane instruction may issue: it is legal for its gang and format, and the stall check, where the pass makes it, finds nothing
(R102, R116, R146). `far` gives the lanes in which a lane reads its first source. -/
structure LaneReady (op : LOp) (ln : Lane) (far : Remote) (s : State) (c : Ctx) : Prop where
  ctx : s.ctx? = some c
  legal : Legal.illegal op ln ⟨some c.f.fmtf.toNat, some c.h.vcount, some c.g.tiles.length⟩ = none
  clear : c.g.chk = true →
    (c.issue op ln).stalled (s.core c.g.core).cycle (sources op ln (c.issue op ln).t c.f.fmtf.toNat) (far (c.issue op ln)) = none

/-- The issue, with REGE where a source is uncorrectable (R407). -/
def laneIssue (op : LOp) (ln : Lane) (far : Remote) (c : Ctx) : Issue :=
  let i := c.issue op ln
  { i with g := c.g.orErr (i.errBits (sources op ln i.t i.fmt) (far i)) }

/-- A fixed-latency instruction has issued: its writes are made at the end of cycle c + 4, and the fragment stands three words on
(R105, R198). -/
def fixedDone (op : LOp) (ln : Lane) (far : Remote) (s : State) (c : Ctx) (w : Writes) (err : BitVec 9) : Out :=
  let i := laneIssue op ln far c
  let cyc := (s.core c.g.core).cycle
  let h := (i.count cyc).h
  .next (s.put (i.g.orErr err) { h with fpend := insertF ⟨cyc + 4, c.f.entry, w⟩ h.fpend } (c.f.advance 3))

/-- A lane instruction of fixed latency that is ready, outside a window, makes the writes that `body` gives. -/
def LaneResult (ins : Instr) (op : LOp) (ln : Lane) (far : Remote) (body : Issue → Writes × BitVec 9) : Prop :=
  ∀ (s : State) (c : Ctx), LaneReady op ln far s c → c.h.window = none →
    exec ins s = fixedDone op ln far s c (body (laneIssue op ln far c)).1 (body (laneIssue op ln far c)).2

/-- In every active lane, the register d takes a value; no ERRSUM bit. -/
def laneValue (i : Issue) (f : Nat → Nat) : Writes × BitVec 9 := (i.toV fun l => some (f l, 0), 0)

/-- In every active lane, each element of d takes the value of an operation on the elements of a. -/
def each1 (i : Issue) (f : Nat → Nat × Nat) : Writes × BitVec 9 :=
  (i.toV fun l => some (joinElems (Types.width i.t) ((i.elems i.ln.a l).map f)), 0)

/-- The same of a and b. -/
def each2 (i : Issue) (f : Nat → Nat → Nat × Nat) : Writes × BitVec 9 :=
  (i.toV fun l => some (joinElems (Types.width i.t) (List.zipWith f (i.elems i.ln.a l) (i.elems i.ln.b l))), 0)

/-- The same of a, b and c. -/
def each3 (i : Issue) (f : Nat → Nat → Nat → Nat × Nat) : Writes × BitVec 9 :=
  (i.toV fun l => some (joinElems (Types.width i.t)
    (List.zipWith (fun p z => f p.1 p.2 z) ((i.elems i.ln.a l).zip (i.elems i.ln.b l)) (i.elems i.ln.c l))), 0)

/-- Element masks, or one predicate bit a lane, of a comparison of a and b (R211). -/
def eachCompare (i : Issue) (f : Nat → Nat → Bool) : Writes × BitVec 9 :=
  let rs := fun l => List.zipWith f (i.elems i.ln.a l) (i.elems i.ln.b l)
  match i.ln.d with
  | .p p => (i.toP p.val fun l => if i.ln.mod.getLsbD 3 then (rs l).all id else (rs l).any id, 0)
  | _ => laneValue i fun l => fromElems (Types.width i.t) ((rs l).map fun b => if b then 2 ^ Types.width i.t - 1 else 0)

/-- A variable-latency instruction has issued: its operation is outstanding and counted, the fragment stands three words on, and no
register or flag of the gang has changed yet (R106); but where its access rolls another gang back, a tentative launch may be freed, and a LAUNCH of
this gang that is parked take its entry and set its c bit (R62, R369). -/
structure Started (s t : State) (c : Ctx) (ln : Lane) (o : VOp) : Prop where
  count : s.idCount + 1 ≤ t.idCount
  now : ∃ c' : Ctx, t.ctx? = some c' ∧ c'.h.ops = c.h.ops ++ [o] ∧ c'.f.pc = c.f.pc + 3 ∧ c'.f.fmtf = c.f.fmtf ∧ c'.h.v = c.h.v ∧
    c'.h.s = c.h.s ∧ c'.h.p = c.h.p ∧ c'.h.satf = c.h.satf ∧ c'.h.fpend = c.h.fpend ∧ c'.h.lmask = c.h.lmask ∧
    ((∀ e ∈ s.launches, e.tentative = none) → c'.h.c = c.h.c)
  counter : o.set = ln.set.val
  quads : o.quads = c.f.qset
  id : o.id = s.idCount

/-- The lanes that VXLN reads for a lane: those of its elements, or its own where a source is not active (R228). -/
def xlnFar : Remote := fun i l => (List.range (64 / Types.width i.t)).map fun k => ((i.xlnSource l k).map fun p => p.1).getD l

/-- The lane that VQSWZ reads, where it is active (R229). -/
def swzFar (ln : Lane) : Remote := fun i l => [selector ln l].filter i.isActive

/-- The two lanes whose difference VQDX or VQDY takes, where both are active (R230). -/
def diffFar (ln : Lane) (y : Bool) : Remote := fun i l =>
  let p := diffLanes ln y l
  if i.isActive p.1 && i.isActive p.2 then [p.1, p.2] else []

/-- The lane that VBCAST copies (R235). -/
def bcastFar : Remote := fun i _ => i.bcastLane.toList

/-- The check of a lane's scratchpad access: the byte of the core's scratchpad that an offset names, or the fault (R260, R265). -/
def scratchOk (g : Group) (n off : Nat) : Except (Nat × Nat) (Nat × Nat) :=
  if off % n ≠ 0 then .error (0x28, 0) else if g.kernel.scrg * 4096 < off + n then .error (0x29, 0) else .ok (g.window + off, 0)

/-- The lanes in which a lane instruction reads its first source. -/
def farOf (op : LOp) (ln : Lane) : Remote :=
  match op with
  | .vxln => xlnFar
  | .vqswz => swzFar ln
  | .vqdx => diffFar ln false
  | .vqdy => diffFar ln true
  | .vbcast => bcastFar
  | _ => ownLane

/-- The difference of the two columns, or rows, of a quad in each of its active lanes; a lane keeps its old value where one of the two is
not active (R230). -/
def quadDifference (i : Issue) (rows : Bool) : Writes × BitVec 9 :=
  (i.toV fun l =>
    let q := l - l % 4
    let keep := i.ln.mod.getLsbD 0
    let m := if rows then q + (if keep then 0 else l % 2) + 2 else q + 2 * (if keep then 0 else l % 4 / 2) + 1
    let n := if rows then q + (if keep then 0 else l % 2) else q + 2 * (if keep then 0 else l % 4 / 2)
    if i.active.getLsbD m && i.active.getLsbD n then
      some (joinElems (Types.width i.t) (List.zipWith (fun x y =>
        Num.roundF i.ctl i.t (Num.addE i.ctl.rm (Num.decodeFl i.ctl.flush i.t x) (Num.decodeFl i.ctl.flush i.t y).neg))
        (i.elems i.ln.a m) (i.elems i.ln.a n)))
    else none, 0)

/-- The lane instructions other than the matrix words, each with its opcode (R114). -/
def laneOps : List ((Lane → Instr) × LOp) :=
  [(.vadd, .vadd), (.vsub, .vsub), (.vmul, .vmul), (.vmulh, .vmulh), (.vmad, .vmad), (.vmadw, .vmadw), (.vabs, .vabs), (.vneg, .vneg),
   (.vmin, .vmin), (.vmax, .vmax), (.vabsd, .vabsd), (.vsad, .vsad), (.vand, .vand), (.vor, .vor), (.vxor, .vxor), (.vnot, .vnot),
   (.vshl, .vshl), (.vshr, .vshr), (.vsra, .vsra), (.vrot, .vrot), (.vbfe, .vbfe), (.vbfi, .vbfi), (.vpopc, .vpopc), (.vclz, .vclz),
   (.vctz, .vctz), (.vbrev, .vbrev), (.vbswp, .vbswp), (.vcmp, .vcmp), (.vsel, .vsel), (.vmov, .vmov), (.vpack, .vpack),
   (.vunpk, .vunpk), (.vfadd, .vfadd), (.vfsub, .vfsub), (.vfmul, .vfmul), (.vfma, .vfma), (.vfmin, .vfmin), (.vfmax, .vfmax),
   (.vfcmp, .vfcmp), (.vfclass, .vfclass), (.vfrnd, .vfrnd), (.vfrcp, .vfrcp), (.vfrsq, .vfrsq), (.vfsqrt, .vfsqrt), (.vfdiv, .vfdiv),
   (.vfexp2, .vfexp2), (.vflog2, .vflog2), (.vfsin, .vfsin), (.vfcos, .vfcos), (.vdot, .vdot), (.vcvt, .vcvt), (.vcvtx, .vcvtx),
   (.vscale, .vscale), (.vxln, .vxln), (.vqswz, .vqswz), (.vqdx, .vqdx), (.vqdy, .vqdy), (.vmatch, .vmatch), (.vballot, .vballot),
   (.vvote, .vvote), (.vscan, .vscan), (.vred, .vred), (.vbcast, .vbcast), (.vld, .vld), (.vst, .vst), (.vlds, .vlds), (.vsts, .vsts),
   (.vpref, .vpref), (.vatom, .vatom), (.vcas, .vcas), (.vfar, .vfar), (.emit, .emit), (.vrcq, .vrcq), (.vtrace, .vtrace),
   (.vsamp, .vsamp), (.vsampl, .vsampl), (.vcov, .vcov)]

/-- The element codes of unit u of row (or column) m of a matrix operand in K-step ks, where no word of it is in error (R194, R314 to R318). -/
def operandCodes (o : OperandSrc) (k : Core) (l : Layout) (us ks m u : Nat) : List Nat :=
  (List.range us).map fun j =>
    let e := u * us + j
    if l.tr then elem l.w (o.row k l ks e).bits m else elem l.w (o.row k l ks m).bits e

/-- The same unit as the port delivers it, with its scale (R301). -/
def operandUnit (o : OperandSrc) (k : Core) (l : Layout) (t : TyCode) (us ke ks m u : Nat) : OpUnit :=
  deliver t (operandCodes o k l us ks m u) (if Types.isX t && !l.tr then (o.scale k l ks (m * (ke / 32) + u)).1 else 127) 0 fun _ => false

/-- The matrix words, each with its opcode (R310). -/
def matrixOps : List ((Lane → Instr) × LOp) :=
  [(.mma, .mma), (.mmaS, .mmaS), (.mmaCsr, .mmaCsr), (.mzero, .mzero), (.mlda, .mlda), (.msta, .msta)]

end Sys2Proof.Machine
end

