-- ==== Sys2Proof/Certificates/Slice0/Obligations.lean ====
section
/-! DEFINITION. The statements for the provers. -/

open Sys2Proof
open Sys2Proof.Machine

/-! ## Registers -/

/-- s0 reads zero and p0 true, and both discard writes; every other s register, v register and predicate reads back what was written to it,
lane by lane for v and p, and a write leaves every other register and lane as it was. Numbers stand in memory little-endian: byte k of an n-byte number is
the byte at address + k, and a number written is read back while every byte outside it is unchanged (R10, R79, R98, R108). -/
def Obligations.RegistersAndMemory : Prop :=
  (∀ (h : Gang) (r q : Nat) (v : Word), Table.wf 0 h.s = true →
    h.readS 0 = 0 ∧ h.writeS 0 v = h ∧
    (r ≠ 0 → (h.writeS r v).readS r = v) ∧
    (r ≠ q → (h.writeS r v).readS q = h.readS q) ∧
    Table.wf 0 (h.writeS r v).s = true) ∧
  (∀ (h : Gang) (r q l m : Nat) (v lanes vals : Word), Table.wf 0 h.v = true → Table.wf 0 h.p = true → l < 64 → m < 64 →
    (h.writeV r l v).readV r l = v ∧
    ((r, l) ≠ (q, m) → (h.writeV r l v).readV q m = h.readV q m) ∧
    (∀ j : Nat, j < 64 → (h.readP 0).getLsbD j = true) ∧ h.writeP 0 lanes vals = h ∧
    (r ≠ 0 → (h.writeP r lanes vals).readP r = (h.readP r &&& ~~~lanes) ||| (vals &&& lanes)) ∧
    (r ≠ q → (h.writeP r lanes vals).readP q = h.readP q) ∧
    Table.wf 0 (h.writeV r l v).v = true ∧ Table.wf 0 (h.writeP r lanes vals).p = true) ∧
  (∀ (m : Memory) (pa x n q : Nat), m.wf = true →
    (m.writeL pa (Bits.toBytes n x)).readN pa n = x % 2 ^ (8 * n) ∧
    (q < pa ∨ pa + n ≤ q → (m.writeL pa (Bits.toBytes n x)).read q = m.read q) ∧
    (∀ k, k < n → (m.writeL pa (Bits.toBytes n x)).read (pa + k) = BitVec.ofNat 8 (x / 256 ^ k)) ∧
    (m.writeL pa (Bits.toBytes n x)).wf = true)

/-- Every word that acts on registers alone leaves all else as it was: memory, every other gang and fragment, every register but its
destination, every flag but the one it names (R147, R151). -/
def Obligations.RegisterWordFrame : Prop :=
  ∀ (i : Instr) (bit : Option CBit) (fmt : Bool) (s t : State) (c : Ctx),
    registerWord i = some (bit, fmt) → s.ctx? = some c → Table.wf 0 c.h.s = true → exec i s = .next t →
    WordFrame s t c (destOf i) bit fmt

/-! ## Scalar arithmetic (R151 to R155) -/

/-- The arithmetic and logic words, register and immediate: sd takes the value of R151's table; SMOV, SPOPC, SCLZ, the constants of SLI, SLIH and
SLIW, which goes on by two words, and the fields of SBFE and SBFI; SCMP writes the c bit of its condition and SSEL picks by one (R151 to R155). -/
def Obligations.ScalarResults : Prop :=
  (∀ (s : State) (c : Ctx) (d a b : SReg), s.ctx? = some c →
    let x := c.h.readS a.val
    let y := c.h.readS b.val
    let done := fun v => wordDone s c [a, b] (c.h.writeS d.val v)
    exec (.sadd d a b) s = done (x + y) ∧ exec (.ssub d a b) s = done (x - y) ∧ exec (.smul d a b) s = done (x * y) ∧
    exec (.smulh d a b false) s = done ((x.signExtend 128 * y.signExtend 128).extractLsb' 64 64) ∧
    exec (.smulh d a b true) s = done ((x.setWidth 128 * y.setWidth 128).extractLsb' 64 64) ∧
    exec (.sand d a b) s = done (x &&& y) ∧ exec (.sor d a b) s = done (x ||| y) ∧ exec (.sxor d a b) s = done (x ^^^ y) ∧
    exec (.sshl d a b) s = done (x <<< (y.toNat % 64)) ∧ exec (.sshr d a b) s = done (x >>> (y.toNat % 64)) ∧
    exec (.ssra d a b) s = done (x.sshiftRight (y.toNat % 64)) ∧
    exec (.smin d a b) s = done (if x.toInt ≤ y.toInt then x else y) ∧
    exec (.smax d a b) s = done (if x.toInt ≤ y.toInt then y else x) ∧
    exec (.sminn d a b) s = done (if x.toNat ≤ y.toNat then x else y) ∧
    exec (.smaxn d a b) s = done (if x.toNat ≤ y.toNat then y else x)) ∧
  (∀ (s : State) (c : Ctx) (d a : SReg) (im : BitVec 12) (n : BitVec 6), s.ctx? = some c →
    let x := c.h.readS a.val
    let y := im.signExtend 64
    let done := fun v => wordDone s c [a] (c.h.writeS d.val v)
    exec (.saddImm d a im) s = done (x + y) ∧ exec (.ssubImm d a im) s = done (x - y) ∧ exec (.smulImm d a im) s = done (x * y) ∧
    exec (.sandImm d a im) s = done (x &&& y) ∧ exec (.sorImm d a im) s = done (x ||| y) ∧ exec (.sxorImm d a im) s = done (x ^^^ y) ∧
    exec (.sshlImm d a n) s = done (x <<< n.toNat) ∧ exec (.sshrImm d a n) s = done (x >>> n.toNat) ∧
    exec (.ssraImm d a n) s = done (x.sshiftRight n.toNat) ∧
    exec (.sminImm d a im) s = done (if x.toInt ≤ y.toInt then x else y) ∧
    exec (.smaxImm d a im) s = done (if x.toInt ≤ y.toInt then y else x) ∧
    exec (.sminnImm d a im) s = done (if x.toNat ≤ y.toNat then x else y) ∧
    exec (.smaxnImm d a im) s = done (if x.toNat ≤ y.toNat then y else x)) ∧
  (∀ (s : State) (c : Ctx) (d a : SReg), s.ctx? = some c →
    let x := c.h.readS a.val
    let done := fun v => wordDone s c [a] (c.h.writeS d.val v)
    exec (.smov d a) s = done x ∧
    exec (.spopc d a) s = done (BitVec.ofNat 64 ((List.range 64).filter fun j => x.getLsbD j).length) ∧
    ∃ n : Nat, exec (.sclz d a) s = done (BitVec.ofNat 64 n) ∧ n ≤ 64 ∧ (∀ j, 64 - n ≤ j → x.getLsbD j = false) ∧
      (n < 64 → x.getLsbD (63 - n) = true)) ∧
  (∀ (s : State) (c : Ctx) (d a : SReg) (im : BitVec 12) (lit : BitVec 32), s.ctx? = some c →
    let x := c.h.readS a.val
    exec (.sli d im) s = wordDone s c [] (c.h.writeS d.val (im.signExtend 64)) ∧
    exec (.slih d a im) s = wordDone s c [a] (c.h.writeS d.val (im ++ x.extractLsb' 0 52)) ∧
    exec (.sliw d a lit) s =
      .next (s.put (c.g.orErr (c.h.sourceErr [a])) (c.h.writeS d.val (x.extractLsb' 0 32 ++ lit)) (c.f.advance 2))) ∧
  (∀ (s : State) (c : Ctx) (d a : SReg) (len pos : BitVec 6), s.ctx? = some c →
    let x := c.h.readS a.val
    (∃ v : Word, exec (.sbfe d a len pos) s = wordDone s c [a] (c.h.writeS d.val v) ∧
      ∀ j : Nat, v.getLsbD j = (decide (j ≤ len.toNat) && x.getLsbD (pos.toNat + j))) ∧
    (∃ v : Word, exec (.sbfi d a len pos) s = wordDone s c [d, a] (c.h.writeS d.val v) ∧
      ∀ j : Nat, j < 64 → v.getLsbD j =
        if pos.toNat ≤ j ∧ j ≤ pos.toNat + len.toNat then x.getLsbD (j - pos.toNat) else (c.h.readS d.val).getLsbD j)) ∧
  (∀ (s : State) (c : Ctx) (d a b : SReg) (k : CBit) (im : BitVec 12), s.ctx? = some c →
    let x := c.h.readS a.val
    let holds := fun (y : Word) (cc : SCond) => match cc with
      | .eq => decide (x = y) | .ne => decide (x ≠ y) | .lt => decide (x.toInt < y.toInt) | .le => decide (x.toInt ≤ y.toInt)
      | .ltn => decide (x.toNat < y.toNat) | .len => decide (x.toNat ≤ y.toNat) | .bit => decide (x &&& y ≠ 0)
      | .nbit => decide (x &&& y = 0)
    (∀ cc, exec (.scmp cc k a b) s = wordDone s c [a, b] (c.h.writeC k (holds (c.h.readS b.val) cc))) ∧
    (∀ cc, exec (.scmpImm cc k a im) s = wordDone s c [a] (c.h.writeC k (holds (im.signExtend 64) cc))) ∧
    (∀ v, (c.h.writeC k v).readC k = v) ∧ (∀ j v, j ≠ k → (c.h.writeC k v).readC j = c.h.readC j) ∧
    exec (.ssel d a b k) s = wordDone s c [a, b] (c.h.writeS d.val (if c.h.readC k then x else c.h.readS b.val)))

/-! ## Formats and special registers (R109, R110, R169, R170) -/

/-- FMTSET and SWR FMT write FMTF of the issuing fragment but for its reserved bits, FMTGET reads it; SWR writes every writable special register, and
SRD reads every special register (R109, R110, R169, R170). -/
def Obligations.SpecialRegisters : Prop :=
  (∀ (s : State) (c : Ctx) (d a : SReg), s.ctx? = some c →
    let g := c.g.orErr (c.h.sourceErr [a])
    let fmt : BitVec 24 := ((c.h.readS a.val).extractLsb' 0 20).setWidth 24
    exec (.fmtset a) s = .next (s.put g c.h { c.f.advance 1 with fmtf := fmt }) ∧
    exec (.swr .fmt a) s = .next (s.put g c.h { c.f.advance 1 with fmtf := fmt }) ∧
    exec (.fmtget d) s = wordDone s c [] (c.h.writeS d.val (c.f.fmtf.setWidth 64))) ∧
  (∀ (s : State) (c : Ctx) (a : SReg) (n : Special), s.ctx? = some c →
    let x := c.h.readS a.val
    let g := c.g.orErr (c.h.sourceErr [a])
    (c.Issues →
      exec (.swr .satf a) s = .next (s.put g { c.h with satf := c.h.satf &&& ~~~(x.extractLsb' 0 4) } (c.f.advance 1)) ∧
      exec (.swr .trappc a) s = .next (s.put g { c.h with trappc := x.extractLsb' 2 54 } (c.f.advance 1)) ∧
      exec (.swr .errsum a) s = .next (s.put { g with errsum := g.errsum &&& ~~~(x.extractLsb' 0 9) } c.h (c.f.advance 1))) ∧
    (n = .satf ∨ n = .trappc ∨ n = .errsum →
      (c.h.window.isSome → exec (.swr n a) s = .next (s.put c.g c.h (c.f.hold .window))) ∧
      (c.h.window = none → c.h.serialBlocked = true → exec (.swr n a) s = .next (s.put c.g c.h (c.f.hold .access)))) ∧
    (c.h.window = none → n ≠ .fmt → n ≠ .satf → n ≠ .trappc → n ≠ .errsum →
      exec (.swr n a) s = .next (s.takeTrap c.g c.h c.f c.f.pc (Trap.inGang 0x01 0x0A (c.h.enabled c.f))))) ∧
  (∀ (s : State) (c : Ctx) (d : SReg) (j : Fin 4), s.ctx? = some c →
    let core := s.core c.g.core
    let reads := fun (n : Special) (v : Word) => exec (.srd d n) s = wordDone s c [] (c.h.writeS d.val v)
    let num := fun (n : Nat) => BitVec.ofNat 64 n
    reads .gangid (num c.h.id) ∧ reads .groupid (num c.g.groupId) ∧ reads .tilex (num c.g.tilex) ∧ reads .tiley (num c.g.tiley) ∧
    reads .passid (num c.g.tref.pass) ∧ reads .gangw (num c.h.width) ∧ reads .lmask c.h.lmask ∧ reads .helper c.h.helper ∧
    reads .fmt (c.f.fmtf.setWidth 64) ∧ reads .satf (c.h.satf.setWidth 64) ∧ reads .fltmask c.h.fltmask ∧
    reads .trappc (num (4 * c.h.trappc.toNat)) ∧
    reads .trapcause (num (c.h.trapcause.detail.toNat + c.h.trapcause.cause.toNat * 2 ^ 16 + c.h.trapcause.route.toNat * 2 ^ 24
      + c.h.trapcause.dbl.toNat * 2 ^ 25)) ∧
    reads .errsum (c.g.errsum.setWidth 64) ∧ reads .ckrb c.h.ckrb ∧ reads .cycles (num core.cycle) ∧
    reads (.clscyc j) (num (core.clscyc.getD j.val 0)) ∧ reads .nstime (num (s.time / 1000)) ∧ reads .batch (num c.h.batch) ∧
    reads .budget (BitVec.ofInt 64 ((s.tileBudget c.g.tref : Int) - (s.tileMeter c.g.tref : Int))) ∧ reads .vcnt (num c.h.vcount))

/-! ## Branches, fragments and exit (R137 to R143, R159 to R163) -/

/-- Where each branch goes, what CALL and LOOP leave in their registers, and that a whole fragment goes; a BRV that splits its quads makes two fragments,
each with its quads, lanes and place; RTOK takes the lanes that wait in its quads, or waits for fusion, and fuses what has arrived; under CHK a
predicate read too early traps; handler mode ends with the BRX or RET of a fragment that is not held (R105, R138 to R141, R146, R159 to R162, R388).
The lanes that an overflow names are a reading (log 23). -/
def Obligations.BranchResults : Prop :=
  (∀ (s : State) (c : Ctx) (neg : Bool) (k : CBit) (n : SReg) (off : BitVec 21) (soff : BitVec 15), s.ctx? = some c →
    let a := c.f.pc
    let to54 := fun (x : Word) => x.extractLsb' 2 54
    let goes := fun (g : Group) (h : Gang) (pc : BitVec 54) => Host.Outcome.next (s.put g h (c.f.jump pc))
    let new := c.h.readS n.val - 1
    exec .nop s = goes c.g c.h (a + 1) ∧
    exec (.bra off) s = goes c.g c.h (a + off.signExtend 54) ∧
    exec (.brc neg k off) s = goes c.g c.h (if (c.h.readC k ^^ neg) = true then a + off.signExtend 54 else a + 1) ∧
    exec (.call off) s = goes c.g (c.h.writeS 63 ((a + 1).setWidth 64 <<< 2)) (a + off.signExtend 54) ∧
    exec (.loop n soff) s = goes (c.g.orErr (c.h.sourceErr [n])) (c.h.writeS n.val new)
      (if new ≠ 0 then a + soff.signExtend 54 else a + 1) ∧
    exec (.loop 0 soff) s = goes c.g c.h (a + soff.signExtend 54) ∧
    (c.h.handler = none → exec (.brx n) s = goes (c.g.orErr (c.h.sourceErr [n])) c.h (to54 (c.h.readS n.val)) ∧
      exec .ret s = goes (c.g.orErr (c.h.sourceErr [63])) c.h (to54 (c.h.readS 63)))) ∧
  (∀ (s : State) (c : Ctx) (n : SReg) (e : Nat) (held : List Nat), s.ctx? = some c →
    c.h.handler = some (e, held) → c.f.entry ∉ held →
    let goes := fun (r : SReg) =>
      Host.Outcome.next (s.put (c.g.orErr (c.h.sourceErr [r])) { c.h with handler := none } (c.f.jump ((c.h.readS r.val).extractLsb' 2 54)))
    exec (.brx n) s = goes n ∧ exec .ret s = goes 63) ∧
  (∀ (s : State) (c : Ctx) (t : Tok) (p : PReg) (neg : Bool) (off : BitVec 16), s.ctx? = some c →
    let pred := if neg then ~~~(c.h.readP p.val) else c.h.readP p.val
    let lanes := c.h.enabled c.f
    let target := c.f.pc + off.signExtend 54
    let j := c.h.join t
    let g := c.g.orErr (c.h.predErr p)
    let joined := c.h.setJoin t (if j.isOpen then { j with expect := j.expect ||| c.f.qset } else ⟨true, c.f.qset, c.f.fmtf⟩)
    let early := c.h.pendingP (s.core c.g.core).cycle p.val &&& lanes
    (c.g.chk = true → early ≠ 0 → c.h.window = none →
      exec (.brv t p neg off) s = .next (s.takeTrap c.g c.h c.f c.f.pc (Trap.inGang 0x02 0 early))) ∧
    ((c.g.chk = true → early = 0) →
    (c.f.qset ≠ 0 → (∀ q, c.f.qset.getLsbD q → quadBits lanes q &&& ~~~(quadBits pred q) = 0) →
      exec (.brv t p neg off) s = .next (s.put g joined (c.f.jump target))) ∧
    (c.f.qset ≠ 0 → (∀ q, c.f.qset.getLsbD q → quadBits lanes q &&& quadBits pred q = 0 ∧ quadBits lanes q ≠ 0) →
      exec (.brv t p neg off) s = .next (s.put g joined (c.f.jump (c.f.pc + 1)))) ∧
    (∀ h, c.h.brv c.f (s.freeEntry c.g.core) t pred target = .ok h →
      exec (.brv t p neg off) s = .next (s.setGroup (g.setGang h))) ∧
    (∀ full, c.h.brv c.f (s.freeEntry c.g.core) t pred target = .error full → c.h.window = none →
      exec (.brv t p neg off) s = .next (s.takeTrap c.g c.h c.f c.f.pc (Trap.inGang 0x03 0 full))) ∧
    (∀ e : Nat, s.freeEntry c.g.core = some e → (∀ f ∈ c.h.frags, f.entry ≠ e) →
      let tk := fun (q : Nat) => quadBits lanes q &&& quadBits pred q
      let nt := fun (q : Nat) => quadBits lanes q &&& ~~~(quadBits pred q)
      let taken := fun (q : Nat) => nt q == 0 || tk q != 0
      (∃ q < 16, c.f.qset.getLsbD q = true ∧ taken q = true) → (∃ q < 16, c.f.qset.getLsbD q = true ∧ taken q = false) →
      (∀ q < 16, (c.h.stack q).length < 16) →
      ∃ u c' f2, exec (.brv t p neg off) s = .next u ∧ u.ctx? = some c' ∧ c'.h.frag? e = some f2 ∧
        c'.f.pc = target ∧ f2.pc = c.f.pc + 1 ∧ c'.f.fmtf = c.f.fmtf ∧ f2.fmtf = c.f.fmtf ∧ c'.f.state = .runnable ∧ f2.state = .runnable ∧
        (∀ q < 16, c'.f.qset.getLsbD q = (c.f.qset.getLsbD q && taken q) ∧ f2.qset.getLsbD q = (c.f.qset.getLsbD q && !taken q)) ∧
        (∀ q < 16, c.f.qset.getLsbD q = true →
          quadBits c'.f.fmask q = (if taken q then quadBits c.f.fmask q &&& ~~~(nt q) else 0) ∧
          quadBits f2.fmask q = (if taken q then 0 else quadBits c.f.fmask q))))) ∧
  (∀ (s : State) (c : Ctx) (t : Tok), s.ctx? = some c →
    (c.saturated = false → exec (.rtok t) s = .next (s.setGroup (c.g.setGang (c.h.rtok c.f t s.time)))) ∧
    (c.saturated = false → (∀ q, c.f.qset.getLsbD q → hasTok (c.h.stack q) t = false) → (c.h.join t).isOpen = false →
      exec (.rtok t) s = .next (s.put c.g c.h (c.f.advance 1))) ∧
    (∀ (q : Nat) (e : TokEntry) (rest : List TokEntry), q < 16 → Table.wf [] c.h.tokens = true → c.saturated = false →
      c.f.qset = quadSet [q] → c.h.stack q = e :: rest → e.tok = t → e.pend ≠ 0 → ∃ u c', exec (.rtok t) s = .next u ∧ u.ctx? = some c' ∧
      c'.f.pc = e.addr ∧ c'.f.fmtf = e.fmts ∧ quadBits c'.f.fmask q = e.pend ∧
      c'.h.stack q = { e with pend := 0, arr := e.arr ||| quadBits (c.h.enabled c.f) q } :: rest) ∧
    (c.saturated = false → (∀ q, c.f.qset.getLsbD q → hasTok (c.h.stack q) t = false) → (c.h.join t).isOpen = true →
      (c.h.frags.map fun f => f.entry).Nodup →
      let others := c.h.frags.filter fun f => f.state == .fuseWait && f.ftok == t && f.entry != c.f.entry
      let u := others.foldl (fun a f => a ||| f.qset) c.f.qset
      let missing := (c.h.join t).expect &&& ~~~(u ||| ~~~(quadsOf c.h.lmask))
      (missing ≠ 0 → ∃ v c', exec (.rtok t) s = .next v ∧ v.ctx? = some c' ∧ c'.f.state = .fuseWait ∧ c'.f.ftok = t ∧ c'.f.pc = c.f.pc ∧
        c'.f.qset = c.f.qset ∧ c'.f.fmask = c.f.fmask ∧ (c'.h.join t).isOpen = true) ∧
      (missing = 0 → (∀ k < 6, c.h.wcount u k ≤ 63) → ∃ h', exec (.rtok t) s = .next (s.setGroup (c.g.setGang h')) ∧
        (h'.join t).isOpen = false ∧ ∃ f' ∈ h'.frags, ∃ lead ∈ c.f :: others, (∀ x ∈ c.f :: others, lead.entry ≤ x.entry) ∧
          f'.entry = lead.entry ∧ f'.pc = lead.pc + 1 ∧ f'.qset = u ∧ f'.fmask = others.foldl (fun a f => a ||| f.fmask) c.f.fmask ∧
          f'.fmtf = (c.h.join t).fmtj ∧ f'.state = .runnable ∧
          ∀ x ∈ h'.frags, x.entry ≠ f'.entry → ∀ y ∈ c.f :: others, y.entry ≠ x.entry)) ∧
    (c.saturated = true → c.h.window = none →
      exec (.rtok t) s = .next (s.takeTrap c.g c.h c.f c.f.pc (Trap.inGang 0x04 c.h.satf.toNat (c.h.enabled c.f)))))

/-- EXIT ends the enabled lanes its predicate names, with the helper lanes of quads left with none but those; while a lane is left the
gang goes on, and with none left it holds no fragment and its allocation joins the group's spare pool, which an exiting group gives up; inside a
window it waits, and under CHK a predicate read too early traps (R80, R84, R105, R142, R146, R148, R163). -/
def Obligations.LaneExit : Prop :=
  ∀ (s : State) (c : Ctx) (p : PReg) (neg : Bool), s.ctx? = some c →
    let pred := if neg then ~~~(c.h.readP p.val) else c.h.readP p.val
    let h1 := c.h.setFrag (c.f.advance 1)
    let left := c.h.lmask &&& ~~~(h1.withHelpers (c.h.enabled c.f &&& pred))
    let g := c.g.orErr (c.h.predErr p)
    let early := c.h.pendingP (s.core c.g.core).cycle p.val &&& c.h.enabled c.f
    (c.h.window.isSome → exec (.exit p neg) s = .next (s.put c.g c.h (c.f.hold .window))) ∧
    (c.h.window = none → c.h.serialBlocked = true → exec (.exit p neg) s = .next (s.put c.g c.h (c.f.hold .access))) ∧
    (c.Issues → c.g.chk = true → early ≠ 0 →
      exec (.exit p neg) s = .next (s.takeTrap c.g c.h c.f c.f.pc (Trap.inGang 0x02 0 early))) ∧
    (c.Issues → (c.g.chk = true → early = 0) → left ≠ 0 → ∃ h', exec (.exit p neg) s = .next (s.setGroup (g.setGang h')) ∧
      h'.lmask = left ∧ h'.s = c.h.s ∧ h'.v = c.h.v ∧ h'.p = c.h.p ∧ h'.c = c.h.c ∧ h'.satf = c.h.satf ∧
      (∀ f ∈ h'.frags, f.fmask &&& left = f.fmask &&& c.h.lmask) ∧ (∀ f ∈ h'.frags, f.qset ≠ 0)) ∧
    (c.Issues → (c.g.chk = true → early = 0) → left = 0 → ∃ t g' h', exec (.exit p neg) s = .next t ∧
      t.group? c.g.gid = some g' ∧ g'.gang? c.h.id = some h' ∧ h'.lmask = 0 ∧ h'.frags = [] ∧ h'.v = c.h.v ∧
      ((∃ x ∈ c.g.gangs, x.id ≠ c.h.id ∧ x.lmask ≠ 0) →
        g'.spare = c.g.spare + 4 * c.h.presentQuads * c.h.vcount * 8 ∧ g'.place = c.g.place) ∧
      ((∀ x ∈ c.g.gangs, x.id ≠ c.h.id → x.lmask = 0) → g'.spare = 0 ∧ g'.place = .exited) ∧
      t.mem = s.mem ∧ (∀ gid, gid ≠ c.g.gid → (t.group? gid).map (fun x => x.gid) = (s.group? gid).map (fun x => x.gid)))

/-! ## Waits and hints (R150, R164, R165, R168, R291, R292) -/

/-- WAIT, WAITB and YIELD.B go on once their count is low enough and wait otherwise; YIELD parks for one cycle; SEAL closes the current batch;
HINT has no effect with no save pending, and else makes its reads and stops the fragment at a pre-emption point (R164, R165, R168, R291, R292, R394). Which finished VTRACEs a WAIT takes out of what a save keeps is the model's
reading (DEDUCED, log 93). -/
def Obligations.WaitResults : Prop :=
  (∀ (s : State) (c : Ctx) (k : Fin 6) (n : BitVec 6) (hk : BitVec 8), s.ctx? = some c →
    (c.Passes → c.h.wcount c.f.qset k.val ≤ n.toNat → exec (.wait k n) s = wordDone s c [] (c.h.waited (k.val + 1))) ∧
    (c.Passes → n.toNat < c.h.wcount c.f.qset k.val →
      exec (.wait k n) s = .next (s.put c.g c.h { c.f.hold (.counter k.val n.toNat) with tested := true })) ∧
    (c.Passes →
      exec .yield s = .next (s.put c.g c.h
        { (c.f.advance 1).park (.cycle ((s.core c.g.core).cycle + 1)) s.time with tested := false })) ∧
    (c.g.savePending = none → exec (.hint hk) s = wordDone s c [] c.h) ∧
    (c.g.savePending.isSome → c.h.window.isSome → exec (.hint hk) s = .next (s.put c.g c.h (c.f.hold .window))) ∧
    (c.g.savePending.isSome → c.h.window = none → c.h.serialBlocked = true →
      exec (.hint hk) s = .next (s.put c.g c.h (c.f.hold .access))) ∧
    (let read := s.noteHint c.g hk.toNat
     read = { s with xl := { s.xl with cbad := read.xl.cbad }, caches := read.caches, waking := read.waking, free := read.free } ∧
     (∀ table, c.g.savePending.isSome → c.Issues → s.hintPoint c.g hk.toNat = some table →
       exec (.hint hk) s = .next (read.put c.g c.h { c.f.advance 1 with hint := some (hk.toNat, table) })) ∧
     (c.g.savePending.isSome → c.Issues → s.hintPoint c.g hk.toNat = none → exec (.hint hk) s = wordDone read c [] c.h))) ∧
  (∀ (s : State) (c : Ctx) (n : Fin 16) (off : BitVec 21), s.ctx? = some c →
    let open' := c.h.unfinished.length
    let target := c.f.pc + off.signExtend 54
    (open' ≤ n.val → exec (.waitb n) s = wordDone s c [] c.h) ∧
    (n.val < open' → s.oldestFailed c.g.gid c.h = none →
      exec (.waitb n) s = .next (s.put c.g c.h (c.f.hold (.batches n.val)))) ∧
    (c.Passes → open' ≤ n.val → exec (.yieldB n off) s = .next (s.put c.g c.h (c.f.jump target))) ∧
    (c.Passes → n.val < open' → s.oldestFailed c.g.gid c.h = none →
      exec (.yieldB n off) s = .next (s.put c.g c.h (c.f.park (.batchesTo n.val target) s.time))) ∧
    (c.Issues → (∀ b ∈ c.h.batches, b.number ≠ c.h.batch) → exec .seal s = wordDone s c [] c.h) ∧
    (c.Issues → (∃ b ∈ c.h.batches, b.number = c.h.batch) → open' < 15 →
      exec .seal s = .next ((s.put c.g { c.h with
        batches := c.h.batches.map (fun (b : Batch) => { b with isSealed := true }),
        batch := (c.h.batch + 1) % 16 } (c.f.advance 1)).settleBatches c.g.gid c.h.id)) ∧
    (c.Issues → (∃ b ∈ c.h.batches, b.number = c.h.batch) → 15 ≤ open' → s.oldestFailed c.g.gid c.h = none →
      exec .seal s = .next (s.put c.g c.h (c.f.block .seal s.time))))

/-! ## Exceptions (R171, R172, R384 to R390) -/

/-- TRAP, BKPT and an illegal word trap outside a window, and inside one, or where serial mode holds them back, they wait; a park point whose
test has not been made takes the saturation trap with TARM set and SATF not zero and has no effect (R116, R148, R150, R171, R172, R386). -/
def Obligations.TrapPoints : Prop :=
  (∀ (s : State) (c : Ctx) (code : BitVec 16), s.ctx? = some c → c.h.window = none →
    let lanes := c.h.lmask &&& c.f.fmask
    (c.h.serialBlocked = false →
      exec (.trap code) s = .next (s.takeTrap c.g c.h c.f (c.f.pc + 1) ⟨0x05, code.toNat, lanes, false, 0, 7⟩) ∧
      exec (.bkpt code) s = .next (s.takeTrap c.g c.h c.f c.f.pc ⟨0x20, code.toNat, lanes, true, 0, 7⟩)) ∧
    (c.h.serialBlocked = true → ∀ i ∈ [Instr.trap code, .bkpt code], exec i s = .next (s.put c.g c.h (c.f.hold .access))) ∧
    exec (.illegalInstruction code) s = .next (s.takeTrap c.g c.h c.f c.f.pc ⟨0x01, code.toNat, lanes, false, 0, 7⟩)) ∧
  (∀ (s : State) (c : Ctx) (code : BitVec 16) (n : BitVec 12), s.ctx? = some c → c.h.window.isSome →
    ∀ i ∈ [Instr.trap code, .bkpt code, .illegalInstruction code, .give n, .claim n, .batonTake, .batonPassAny, .seal],
      exec i s = .next (s.put c.g c.h (c.f.hold .window))) ∧
  (∀ (s : State) (c : Ctx) (k : Fin 6) (n : BitVec 6) (m : Fin 16) (off : BitVec 21) (a b : SReg) (kb : CBit) (dbl ne : Bool),
    s.ctx? = some c → c.f.fmtf.getLsbD 19 = true → c.h.satf ≠ 0 → c.h.handler = none → c.f.tested = false → c.Quiet →
    ∀ i ∈ [Instr.wait k n, .yield, .yieldB m off, .park a b dbl ne, .ftake a b, .qwait a b, .launch a b false kb],
      exec i s = .next (s.takeTrap c.g c.h c.f c.f.pc (Trap.inGang 0x04 c.h.satf.toNat (c.h.enabled c.f))))

/-- Taking an exception: in the gang, TRAPPC, TRAPCAUSE and FLTMASK are written, the fragment goes to the handler and the others are held; by the owner route the gang
stops at TRAPPC with ROUTE 1, DBL where it was in handler mode, and a save becomes pending, or the record-pass tile is killed; registers, other gangs
and memory are unchanged (R384, R387, R389, R390). -/
def Obligations.ExceptionEntry : Prop :=
  (∀ (s : State) (c : Ctx) (pc : BitVec 54) (t : Trap), s.ctx? = some c → t.owner = false → c.h.handler = none → c.g.kernel.hndlr ≠ 0 →
    let u := s.takeTrap c.g c.h c.f pc t
    ∃ c' : Ctx, u.ctx? = some c' ∧ u = { s with groups := u.groups } ∧
      c'.h.trappc = pc ∧ c'.h.trapcause = ⟨false, false, BitVec.ofNat 8 t.cause, BitVec.ofNat 16 t.detail⟩ ∧ c'.h.fltmask = t.lanes ∧
      c'.h.handler = some (c.f.entry, (c.h.frags.filter (fun x => x.entry != c.f.entry)).map (fun x => x.entry)) ∧
      c'.f = { c.f with pc := c.g.kernel.hndlr.extractLsb' 2 54, wait := .none, state := .runnable, tested := false } ∧
      c'.h = { c.h with
        trappc := c'.h.trappc, trapcause := c'.h.trapcause, fltmask := c'.h.fltmask, handler := c'.h.handler, frags := c'.h.frags,
        trapEntry := c'.h.trapEntry, faddr := c'.h.faddr, akind := c'.h.akind } ∧
      (∀ e, e ≠ c.f.entry → c'.h.frag? e = c.h.frag? e) ∧ c'.g = { c.g with gangs := c'.g.gangs } ∧
      (∀ id, id ≠ c.h.id → c'.g.gang? id = c.g.gang? id) ∧ (∀ gid, gid ≠ c.g.gid → u.group? gid = s.group? gid)) ∧
  (∀ (s : State) (c : Ctx) (pc : BitVec 54) (t : Trap), s.ctx? = some c → (∀ r ∈ s.recTiles, r.tref ≠ c.g.tref) →
    (t.owner = true ∨ c.h.handler.isSome ∨ c.g.kernel.hndlr = 0) →
    let u := s.takeTrap c.g c.h c.f pc t
    ∃ c' : Ctx, u.ctx? = some c' ∧ u.mem = s.mem ∧
      c'.h.trappc = pc ∧ c'.f.pc = pc ∧
      c'.h.trapcause = ⟨c.h.handler.isSome, true, BitVec.ofNat 8 t.cause, BitVec.ofNat 16 t.detail⟩ ∧ c'.h.fltmask = t.lanes ∧
      c'.h.faddr = BitVec.ofNat 56 t.addr ∧ c'.h.akind = t.akind ∧ c'.h.stop = some .ownerTrap ∧ c'.h.trapped = true ∧
      c'.g.savePending.isSome ∧ (c.g.savePending = none → c'.g.savePending = some (s.time, .ownerTrap)) ∧
      c'.h.s = c.h.s ∧ c'.h.v = c.h.v ∧ c'.h.p = c.h.p ∧ c'.h.c = c.h.c ∧ c'.h.satf = c.h.satf ∧ c'.h.handler = c.h.handler ∧
      (∀ id, id ≠ c.h.id → c'.g.gang? id = c.g.gang? id) ∧ (∀ gid, gid ≠ c.g.gid → u.group? gid = s.group? gid)) ∧
  (∀ (s : State) (c : Ctx) (pc : BitVec 54) (t : Trap), s.ctx? = some c → (∃ r ∈ s.recTiles, r.tref = c.g.tref) →
    (t.owner = true ∨ c.h.handler.isSome ∨ c.g.kernel.hndlr = 0) →
    let u := s.takeTrap c.g c.h c.f pc t
    (∀ g ∈ u.groups, g.tref ≠ c.g.tref) ∧ (∀ e ∈ u.launches, e.tref ≠ c.g.tref) ∧
      u.handleCount = s.newHandle ∧ u.handles.getLast? = some ⟨s.newHandle, 1, c.g.tref, 0, BitVec.ofNat 8 t.cause == 0x2C⟩ ∧
      u.fq.waiting.length = s.fq.waiting.length + 1 ∧ u.mem = s.mem)

/-! ## Trading registers (R82 to R87, R173, R174) -/

/-- GIVE moves registers to the group's spare pool once nothing of them is outstanding, and waits till then; CLAIM comes after the queued claims that can
be granted, is granted at once from the spare and free pools, its registers holding zero, or waits in the core's queue with every fragment held; an
illegal n traps; a grant goes to the first grantable claim, and a deadlock traps every blocked gang of the group at its CLAIM, which leaves the queue (R82
to R87, R173, R174). That what a waiting CLAIM held is served at its grant, and at the trap, is a reading (DEDUCED, log 107). -/
def Obligations.RegisterTrading : Prop :=
  (∀ (s : State) (c : Ctx) (n : BitVec 12), s.ctx? = some c → c.Issues → Table.wf 0 c.h.v = true →
    let k := n.toNat
    (k % 8 = 0 → 8 ≤ k → k + 8 ≤ c.h.vcount →
      (c.h.lastLane ≠ 0 ∧ (s.core c.g.core).cycle < c.h.lastLane + 4 ∨ ∃ o ∈ c.h.ops, ∃ r ∈ o.dests, c.h.vcount - k ≤ r ∧ r < 320) →
      exec (.give n) s = .next (s.put c.g c.h (c.f.hold .give))) ∧
    (k % 8 = 0 → 8 ≤ k → k + 8 ≤ c.h.vcount →
      (c.h.lastLane = 0 ∨ c.h.lastLane + 4 ≤ (s.core c.g.core).cycle) →
      (∀ o ∈ c.h.ops, ∀ r ∈ o.dests, r < c.h.vcount - k ∨ 320 ≤ r) → ∃ h', exec (.give n) s =
        .next (s.put { c.g with spare := c.g.spare + 4 * c.h.presentQuads * k * 8 } h' (c.f.advance 1)) ∧
        h'.vcount = c.h.vcount - k ∧ h' = { c.h with vcount := h'.vcount, v := h'.v, verr := h'.verr } ∧
        (∀ r l, l < 64 → r < c.h.vcount - k → h'.readV r l = c.h.readV r l)) ∧
    ((k % 8 ≠ 0 ∨ k < 8 ∨ c.h.vcount < k + 8) →
      exec (.give n) s = .next (s.takeTrap c.g c.h c.f c.f.pc (Trap.inGang 0x01 0x0B (c.h.enabled c.f))))) ∧
  (∀ (s t : State) (c c' : Ctx) (n : BitVec 12), s.ctx? = some c → c.Issues → Table.wf Core.fresh s.cores = true →
    n.toNat % 8 = 0 → 8 ≤ n.toNat → c.h.vcount + n.toNat ≤ 320 → s.grantFirst c.g.core = some t → t.ctx? = some c' → c'.h = c.h →
    c'.g.core = c.g.core → exec (.claim n) s = exec (.claim n) t) ∧
  (∀ (s : State) (c : Ctx) (n : BitVec 12), s.ctx? = some c → c.Issues → Table.wf Core.fresh s.cores = true →
    s.grantFirst c.g.core = none →
    let k := n.toNat
    let need := 4 * c.h.presentQuads * k * 8
    let queue := (s.core c.g.core).claims
    (k % 8 = 0 → 8 ≤ k → c.h.vcount + k ≤ 320 → (need ≤ c.g.spare ∨ queue = [] ∧ need ≤ c.g.spare + s.freePool c.g.core) →
      (∀ f ∈ c.h.frags, f.served = none ∧ ∀ va bits y b, f.wait ≠ .launch va bits y b) → Table.wf 0 c.h.v = true →
      ∃ t c', exec (.claim n) s = .next t ∧ t.ctx? = some c' ∧ t = { s with groups := t.groups } ∧ c'.h.vcount = c.h.vcount + k ∧
        c'.g.spare = c.g.spare - need ∧ c'.f.pc = c.f.pc + 1 ∧ c'.h.s = c.h.s ∧ c'.h.claim = none ∧
        ∀ r l, l < 64 → c'.h.readV r l = if r < c.h.vcount then c.h.readV r l else 0) ∧
    (k % 8 = 0 → 8 ≤ k → c.h.vcount + k ≤ 320 → c.g.spare < need → (queue ≠ [] ∨ c.g.spare + s.freePool c.g.core < need) →
      ∃ t c', exec (.claim n) s = .next t ∧ t.ctx? = some c' ∧ (t.core c.g.core).claims = queue ++ [(c.g.gid, c.h.id, k)] ∧
        c'.h.claim = some k ∧ c'.h.frozen = true ∧ c'.h.vcount = c.h.vcount ∧ c'.f.pc = c.f.pc ∧ t.mem = s.mem) ∧
    ((k % 8 ≠ 0 ∨ k < 8 ∨ 320 < c.h.vcount + k) →
      exec (.claim n) s = .next (s.takeTrap c.g c.h c.f c.f.pc (Trap.inGang 0x01 0x0B (c.h.enabled c.f))))) ∧
  (∀ (s : State) (core gid gang k : Nat) (g : Group) (h : Gang), s.firstGrant core = some (gid, gang, k) → s.group? gid = some g →
    g.gang? gang = some h → Table.wf 0 h.v = true →
    ∃ t g' h', exec (.claimGrant core) s = .next t ∧ t.group? gid = some g' ∧ g'.gang? gang = some h' ∧
      h'.vcount = h.vcount + k ∧ h'.claim = none ∧ g'.spare = g.spare - h.claimNeed k ∧ t.mem = s.mem ∧
      ∀ r l, l < 64 → h'.readV r l = if r < h.vcount then h.readV r l else 0) ∧
  (∀ (s : State) (core : Nat) (g : Group),
    (s.residents core).find? (fun g => (s.core core).deadlock.any (fun d => d.1 == g.gid && 4096 ≤ d.2.1) && s.claimStuck g) = some g →
    s.group? g.gid = some g → (g.gangs.map fun h => h.id).Nodup → Table.wf Core.fresh s.cores = true → (∀ r ∈ s.recTiles, r.tref ≠ g.tref) →
    (∀ h ∈ g.gangs, h.claim.isSome → (h.frags.map fun f => f.entry).Nodup) →
    let atClaim := fun (h : Gang) => h.frags.find? (fun f => match f.wait with | .claim _ => true | _ => false)
    ∃ t g', exec (.claimDeadlock core) s = .next t ∧ t.mem = s.mem ∧ t.group? g.gid = some g' ∧
      (t.core core).claims = (s.core core).claims.filter (fun q => q.1 != g.gid) ∧
      (∀ h ∈ g.gangs, h.claim = none → ∃ h', g'.gang? h.id = some h' ∧ h'.trapcause = h.trapcause ∧ h'.vcount = h.vcount) ∧
      ∀ h ∈ g.gangs, ∀ n f, h.claim = some n → atClaim h = some f → ∃ h', g'.gang? h.id = some h' ∧ h'.claim = none ∧ h'.vcount = h.vcount ∧
        h'.trappc = f.pc ∧ h'.trapcause.cause = 0x06 ∧ h'.trapcause.detail = BitVec.ofNat 16 n ∧ h'.fltmask = h.enabled f)

/-! ## Copy faults at the words that wait for batches (R291 to R294) -/

/-- The copy fault: a WAITB, YIELD.B or SEAL that would wait while the oldest unfinished sealed batch holds a failed copy and none that has not failed
takes cause 0x08 with the status of the failed copy accepted first; a status below 0x10 goes to the gang's handler and the copy is dropped as completed,
and another goes to the owner with the copy kept; inside a window the word waits (R293, R294). -/
def Obligations.CopyFaultTraps : Prop :=
  (∀ (s : State) (c : Ctx) (cp : Copy) (status addr kind : Nat), s.ctx? = some c → s.oldestFailed c.g.gid c.h = some cp →
    cp.state = .failed status addr kind →
    let lanes := c.h.lmask &&& c.f.fmask
    let faults := fun (i : Instr) =>
      (c.h.window.isSome → exec i s = .next (s.put c.g c.h (c.f.hold .window))) ∧
      (c.h.window = none → status < 0x10 →
        exec i s = .next ((s.takeTrap c.g c.h c.f c.f.pc ⟨0x08, status, lanes, false, 0, 7⟩).dropCopy cp)) ∧
      (c.h.window = none → 0x10 ≤ status → exec i s = .next (s.takeTrap c.g c.h c.f c.f.pc ⟨0x08, status, lanes, true, addr, kind⟩))
    (∀ n : Fin 16, n.val < c.h.unfinished.length → faults (.waitb n)) ∧
    (∀ (n : Fin 16) (off : BitVec 21), c.Passes → n.val < c.h.unfinished.length → faults (.yieldB n off)) ∧
    (c.h.serialBlocked = false → (∃ b ∈ c.h.batches, b.number = c.h.batch) → 15 ≤ c.h.unfinished.length → faults .seal)) ∧
  (∀ (s : State) (gid : Nat) (h : Gang),
    (h.unfinished = [] → s.oldestFailed gid h = none) ∧
    (∀ b rest, h.unfinished = b :: rest →
      let mine := fun (x : Copy) => x ∈ s.copies ∧ x.gid = gid ∧ x.gang = h.id ∧ x.tpl = none ∧ x.batch = b.number
      let isFailed := fun (x : Copy) => ∃ status addr kind, x.state = .failed status addr kind
      ((∃ x, mine x ∧ ¬ isFailed x) → s.oldestFailed gid h = none) ∧ ((∀ x, ¬ mine x) → s.oldestFailed gid h = none) ∧
      ((∃ x, mine x) → (∀ x, mine x → isFailed x) →
        ∃ cp, s.oldestFailed gid h = some cp ∧ mine cp ∧ ∀ x, mine x → cp.id ≤ x.id))) ∧
  (∀ (s : State) (cp : Copy), (s.dropCopy cp).copies = s.copies.filter (fun x => x.id != cp.id) ∧ (s.dropCopy cp).mem = s.mem)

/-! ## Scalar memory (R156 to R158, R10, R237, R238) -/

/-- SLD and SLDS read the 8 bytes at the address, or offset, that the word computes, and SST and SSTS write them; inside a window a store changes no byte, joins
the hold queue's end and claims its lines; an address that cannot be reached traps with the lowest cause, and a load inside a window holds its fault (R148, R156 to R158, R367, R371, R385).
A byte that nothing has written reads zero by log 2. -/
def Obligations.ScalarMemoryResults : Prop :=
  (∀ (s : State) (c : Ctx) (d a : SReg) (im : BitVec 12), s.ctx? = some c → c.Quiet →
    let va := (c.h.readS a.val + im.signExtend 64).toNat
    let g := c.g.orErr (c.h.sourceErr [a])
    let h := c.h.countDone
    let s1 := s.noteWalk c.g.who va
    (∀ pa attr, inAperture va = false → s.check c.g.who .load va 8 = .ok (pa, attr) → s1.ownPending c.g.gid c.h.id pa 8 = false →
      (attr ≠ 2 ∨ s1.caches.old = [] → s1.loadN c.g.core attr pa 8 = s1.readPhys pa 8) ∧
      exec (.sld d a im) s = .next (((s1.put (g.orErr (s1.memErrBits pa 8))
        (h.writeS d.val (BitVec.ofNat 64 (s1.loadN c.g.core attr pa 8))) (c.f.advance 1)).conflict c.agent pa 8 false).l1Load
          c.g.core attr pa 8)) ∧
    (inControlAperture va = true → va % 8 = 0 →
      exec (.sld d a im) s = .next (s.put g (h.writeS d.val (s.readControl (va - 0xFF010000000000))) (c.f.advance 1))) ∧
    (va % 8 = 0 → va + 8 ≤ c.g.kernel.scrg * 4096 →
      exec (.slds d a im) s = .next (((s.put (g.orErr ((s.core c.g.core).scratchErrBits (c.g.window + va) 8))
        (h.writeS d.val (BitVec.ofNat 64 ((s.core c.g.core).scratchN (c.g.window + va) 8))) (c.f.advance 1)).sconflict c.agent c.g.core
          (c.g.window + va) 8 false).touchScratch c.g.core (c.g.window + va) 8))) ∧
  (∀ (s : State) (c : Ctx) (v a : SReg) (im : BitVec 12), s.ctx? = some c → c.Quiet →
    let va := (c.h.readS a.val + im.signExtend 64).toNat
    let bs := Bits.toBytes 8 (c.h.readS v.val).toNat
    let g := c.g.orErr (c.h.sourceErr [v, a])
    let h := c.h.countDone
    (∀ pa attr, inAperture va = false → s.check c.g.who .store va 8 = .ok (pa, attr) →
      exec (.sst v a im) s = .next ((((s.noteWalk c.g.who va).put g h (c.f.advance 1)).writePhys c.agent pa bs).l1Store c.g.core attr pa 8)) ∧
    (va % 8 = 0 → va + 8 ≤ c.g.kernel.scrg * 4096 →
      exec (.ssts v a im) s = .next (((s.put g h (c.f.advance 1)).spoke c.agent c.g.core (c.g.window + va) bs).touchScratch
        c.g.core (c.g.window + va) 8))) ∧
  (∀ (s : State) (c : Ctx) (v a : SReg) (im : BitVec 12) (w : Window) (pa attr : Nat), s.ctx? = some c → c.h.window = some w →
    w.held.length < 32 → c.h.serialBlocked = false →
    let va := (c.h.readS a.val + im.signExtend 64).toNat
    let byte := fun (j : Nat) => (c.h.readS v.val).extractLsb' (8 * j) 8
    let same := fun (t : State) => t.mem = s.mem ∧ (∀ k q, Table.get 0 (t.core k).scratch q = Table.get 0 (s.core k).scratch q)
    (inAperture va = false → s.check c.g.who .store va 8 = .ok (pa, attr) → (s.noteWalk c.g.who va).storeWaits c attr pa 8 = none →
      ∃ t c' w', exec (.sst v a im) s = .next t ∧ same t ∧ t.ctx? = some c' ∧ c'.h.window = some w' ∧ c'.f.pc = c.f.pc + 1 ∧
        w'.held = w.held ++ [⟨(List.range 8).map fun j => ⟨false, pa + j, byte j⟩, none⟩] ∧ (∀ l ∈ linesOf pa 8, l ∈ w'.claims)) ∧
    (va % 8 = 0 → va + 8 ≤ c.g.kernel.scrg * 4096 → c.h.scratchFull (wordsOf (c.g.window + va) 8) = false →
      ∃ t c' w', exec (.ssts v a im) s = .next t ∧ same t ∧ t.ctx? = some c' ∧ c'.h.window = some w' ∧ c'.f.pc = c.f.pc + 1 ∧
        w'.held = w.held ++ [⟨(List.range 8).map fun j => ⟨true, c.g.window + va + j, byte j⟩, none⟩] ∧
        (∀ x ∈ wordsOf (c.g.window + va) 8, x ∈ w'.sclaims))) ∧
  (∀ (s : State) (c : Ctx) (d a : SReg) (im : BitVec 12) (w : Window) (f : Nat × Nat), s.ctx? = some c → c.h.window = some w →
    c.h.serialBlocked = false →
    let va := (c.h.readS a.val + im.signExtend 64).toNat
    inAperture va = false → s.check c.g.who .load va 8 = .error f →
    ∃ t c' w', exec (.sld d a im) s = .next t ∧ t.ctx? = some c' ∧ c'.f.wait = .fault ∧ c'.f.pc = c.f.pc ∧ c'.h.window = some w' ∧
      w'.fault.isSome ∧ (w.fault.isSome → w'.fault = w.fault) ∧ c'.h.s = c.h.s ∧ c'.h.trapcause = c.h.trapcause ∧ t.mem = s.mem) ∧
  (∀ (s : State) (c : Ctx) (d a : SReg) (im : BitVec 12), s.ctx? = some c → c.Quiet →
    let va := (c.h.readS a.val + im.signExtend 64).toNat
    let g := c.g.orErr (c.h.sourceErr [a])
    let trap := fun (t : State) (g : Group) (cause detail addr kind : Nat) =>
      Host.Outcome.next (t.takeTrap g c.h c.f c.f.pc ⟨cause, detail, c.h.lmask &&& c.f.fmask, true, addr, kind⟩)
    let takes := fun (t : State) (g : Group) (cause detail kind : Nat) => trap t g cause detail (va % 2 ^ 56) kind
    (va % 8 ≠ 0 → exec (.slds d a im) s = trap s g 0x28 0 0 1 ∧
      exec (.ssts d a im) s = trap s (c.g.orErr (c.h.sourceErr [d, a])) 0x28 0 0 2) ∧
    (va % 8 = 0 → c.g.kernel.scrg * 4096 < va + 8 → exec (.slds d a im) s = trap s g 0x29 0 0 1 ∧
      exec (.ssts d a im) s = trap s (c.g.orErr (c.h.sourceErr [d, a])) 0x29 0 0 2) ∧
    (∀ cause detail, inAperture va = false → s.check c.g.who .load va 8 = .error (cause, detail) →
      exec (.sld d a im) s = takes (s.noteWalk c.g.who va) g cause detail 1) ∧
    (∀ cause detail, inAperture va = false → s.check c.g.who .store va 8 = .error (cause, detail) →
      exec (.sst d a im) s = takes (s.noteWalk c.g.who va) (c.g.orErr (c.h.sourceErr [d, a])) cause detail 2) ∧
    (inAperture va = true → va % 8 ≠ 0 → exec (.sld d a im) s = takes s g 0x28 0 1) ∧
    (inCopyAperture va = true → va % 8 = 0 → exec (.sld d a im) s = takes s g 0x24 5 1) ∧
    (inControlAperture va = true → va % 8 = 0 →
      exec (.sst d a im) s = takes s (c.g.orErr (c.h.sourceErr [d, a])) 0x24 3 2))

/-- What the words of memory and lane instructions leave of memory: a load changes no byte, and a scalar store only the 8 bytes at the physical
address that the check of its virtual address gives; a copy word, a fault, a store that a window holds and a word that waits store nothing; every lane
instruction but VST, and VRCQ with .T, leaves every byte as it was when it issues, traps or waits, and VST changes only bytes that a lane's store
takes (R156, R264 to R266, R338, R367). -/
def Obligations.MemoryFrame : Prop :=
  (∀ (s t : State) (c : Ctx) (v a : SReg) (im : BitVec 12) (ch : Fin 16), s.ctx? = some c → s.mem.wf = true →
    let va := (c.h.readS a.val + im.signExtend 64).toNat
    (exec (.sld v a im) s = .next t ∨ exec (.slds v a im) s = .next t ∨ exec (.ssts v a im) s = .next t → ∀ q, t.mem.read q = s.mem.read q) ∧
    (exec (.sst v a im) s = .next t →
      (∀ pa attr, inAperture va = false → s.check c.g.who .store va 8 = .ok (pa, attr) →
        ∀ q, q < pa ∨ pa + 8 ≤ q → t.mem.read q = s.mem.read q) ∧
      (inAperture va = true ∨ (∃ f, s.check c.g.who .store va 8 = .error f) ∨ c.h.window.isSome ∨
        (∀ c', t.ctx? = some c' → c'.f.pc ≠ c.f.pc + 1) → ∀ q, t.mem.read q = s.mem.read q)) ∧
    (exec (.copy v a ch) s = .next t → inAperture (c.h.readS a.val + (BitVec.ofNat 12 (8 * ch.val)).signExtend 64).toNat = true →
      ∀ q, t.mem.read q = s.mem.read q)) ∧
  (∀ (s t : State) (f : Lane) (mk : Lane → Instr) (op : LOp), (mk, op) ∈ laneOps ++ matrixOps → exec (mk f) s = .next t →
    (op ≠ .vst → (op = .vrcq → f.mod.getLsbD 0 = false) → t.mem = s.mem) ∧
    (op = .vst → s.mem.wf = true → ∀ c, s.ctx? = some c → ∀ q,
      (∀ l ∈ (c.issue .vst f).workers, ∀ pa attr, s.checkGlobal c.g.who .store ((c.issue .vst f).addr l) (c.issue .vst f).accessSize =
        .ok (pa, attr) → q < pa ∨ pa + (c.issue .vst f).accessSize ≤ q) → t.mem.read q = s.mem.read q))

/-- COPY is a store of the copy word to its channel's word of the copy aperture: with a place free on the channel the copy is accepted
into the gang's current batch, and otherwise the fragment is blocked at the word (R287, R288, R291).
That step names the word COPY is a reading (log 22). -/
def Obligations.CopyWordResults : Prop :=
  ∀ (s : State) (c : Ctx) (v a : SReg) (ch : Fin 16), s.ctx? = some c → c.Quiet → c.h.readS a.val = 0xFF000000000000 →
    let e := c.g.core / 8
    let word := c.h.readS v.val
    (s.channelLoad e ch.val < 4 → s.channelQueue e ch.val = false → s.loads 1 (unitArg e) = false →
      ∃ t c' cp, exec (.copy v a ch) s = .next t ∧ exec (.sst v a (BitVec.ofNat 12 (8 * ch.val))) s = .next t ∧ t.ctx? = some c' ∧
        t.copies = s.copies ++ [cp] ∧ cp.engine = e ∧ cp.ch = ch.val ∧ cp.word = word ∧ cp.gid = c.g.gid ∧ cp.gang = c.h.id ∧
        cp.batch = c.h.batch ∧ cp.state = .waiting ∧ c'.f.pc = c.f.pc + 1 ∧ (∃ b ∈ c'.h.batches, b.number = c.h.batch) ∧ t.mem = s.mem) ∧
    (4 ≤ s.channelLoad e ch.val → ∃ t c', exec (.copy v a ch) s = .next t ∧ t.ctx? = some c' ∧ t.copies = s.copies ∧
      c'.f.wait = .channel e ch.val word ∧ c'.f.pc = c.f.pc ∧ c'.h.frozen = true)

/-- PARK goes on when the word at its address compares as asked and parks on that word otherwise; a write to any byte of a parked word wakes
its fragment, whose word issues again, but not while a CLAIM of the gang waits; a resent request has its address translated anew and goes to its
object's bank again, or takes the trap of its address (R166, R167, R174, R378).
That a write to the word of a parked fragment of a gang whose CLAIM waits is served at the grant is a reading (DEDUCED, log 107). -/
def Obligations.ParkResults : Prop :=
  (∀ (s : State) (c : Ctx) (a b : SReg) (dbl ne : Bool) (pa attr : Nat), s.ctx? = some c → c.Quiet → c.Passes →
    let va := (c.h.readS a.val).toNat
    let n := if dbl then 8 else 4
    s.checkGlobal c.g.who .load va n = .ok (pa, attr) →
    let s1 := s.noteWalk c.g.who va
    let same := decide (s1.loadN c.g.core attr pa n = (c.h.readS b.val).toNat % 2 ^ (8 * n))
    let g := (c.g.orErr (c.h.sourceErr [a, b])).orErr (s1.memErrBits pa n)
    let done := fun (f : Fragment) =>
      Host.Outcome.next (((s1.put g c.h.countDone f).conflict c.agent pa n false).l1Load c.g.core attr pa n)
    (same ≠ ne → exec (.park a b dbl ne) s = done (c.f.advance 1)) ∧
    (same = ne → exec (.park a b dbl ne) s = done (c.f.park (.mem pa n) s.time))) ∧
  (∀ (s : State) (pa q m : Nat) (bs : List Byte) (g : Group) (h : Gang) (f : Fragment), g ∈ s.groups → h ∈ g.gangs → f ∈ h.frags →
    f.wait = .mem q m → q < pa + bs.length → pa < q + m → g.place = .resident →
    ∃ g' ∈ (s.pokes pa bs).groups, g'.gid = g.gid ∧ ∃ h' ∈ g'.gangs, h'.id = h.id ∧ (h.claim = none → f.wake ∈ h'.frags) ∧
      (h.claim.isSome → ∃ f' ∈ h'.frags, f'.served.isSome ∧ f' = { f with served := f'.served })) ∧
  (∀ (s : State) (gid gang entry pa va n cyc : Nat) (k : Waiter) (g : Group) (h : Gang) (f : Fragment), s.group? gid = some g →
    g.gang? gang = some h → h.frag? entry = some f → h.claim = none →
    let s1 := s.noteWalk g.who va
    (f.wait = .mem pa n → exec (.parkReread gid gang entry) s = .next (s.put g h f.wake)) ∧
    (∀ attr, f.wait = .resend cyc va k → g.place = .resident → s.checkGlobal g.who .sync va 16 = .ok (pa, attr) →
      ∃ t r g' h', exec (.waiterResend gid gang entry) s = .next t ∧ t.bankQ = s.bankQ ++ [r] ∧ r.gid = gid ∧ r.gang = gang ∧
        r.op = s.idCount ∧ r.va = va ∧ r.pa = pa ∧ r.what = .sync entry (match k with | .take d => .take d | .phase p => .qwait p) ∧
        t.mem = s.mem ∧ t.group? gid = some g' ∧ g'.gang? gang = some h' ∧ h'.frag? entry = some { f with wait := .bank s.idCount } ∧
        h'.s = h.s) ∧
    (∀ cause detail, f.wait = .resend cyc va k → g.place = .resident → s.checkGlobal g.who .sync va 16 = .error (cause, detail) →
      h.window = none → ∃ kind, exec (.waiterResend gid gang entry) s =
        .next (s1.takeTrap g h f f.pc ⟨cause, detail, h.enabled f, true, va % 2 ^ 56, kind⟩)))

/-- LAUNCH with a free entry of the pending-launch store takes it for NCM1 + 1 groups, sets c and goes on; with none, .NW clears c and the other
form parks; a bad address or descriptor traps and, taken in its gang with no other window met, changes no entry; the read of the descriptor is an
access (R62, R175, R176, R369). -/
def Obligations.LaunchResults : Prop :=
  ∀ (s : State) (c : Ctx) (a b : SReg) (nw : Bool) (k : CBit) (pa attr : Nat), s.ctx? = some c → c.Quiet → (nw = false → c.Passes) →
    let va := (c.h.readS a.val).toNat
    let y := (c.h.readS b.val).toNat
    let stack := c.g.core / 96
    let s1 := s.noteWalk c.g.who va
    let inGang := c.h.handler = none ∧ c.g.kernel.hndlr ≠ 0
    (va % 64 ≠ 0 ∨ 2 ^ 56 ≤ va → exec (.launch a b nw k) s =
        .next (s.takeTrap (c.g.orErr (c.h.sourceErr [a, b])) c.h c.f c.f.pc (Trap.inGang 0x07 1 (c.h.enabled c.f))) ∧
      (inGang → ∀ t, exec (.launch a b nw k) s = .next t → t.launches = s.launches)) ∧
    (va % 64 = 0 → va < 2 ^ 56 → s.checkGlobal c.g.who .load va 64 = .ok (pa, attr) → s1.ownPending c.g.gid c.h.id pa 64 = false →
      let bits := s1.loadN c.g.core attr pa 64
      (kernelOk bits c.g.scr false = false →
        exec (.launch a b nw k) s =
          .next (((s1.takeTrap ((c.g.orErr (c.h.sourceErr [a, b])).orErr (s1.memErrBits pa 64)) c.h.countDone c.f c.f.pc
            (Trap.inGang 0x07 2 (c.h.enabled c.f))).conflict c.agent pa 64 false).l1Load c.g.core attr pa 64) ∧
        (inGang → s.NoConflict pa 64 false → ∀ t, exec (.launch a b nw k) s = .next t → t.launches = s.launches)) ∧
      (kernelOk bits c.g.scr false = true →
        ((s.launchesOf stack).length < 4096 → ∃ t e, exec (.launch a b nw k) s = .next t ∧ e ∈ t.launches ∧ e.id = s.idCount ∧
          (s.NoConflict pa 64 false → t.launches = s.launches ++ [e]) ∧
          e.stack = stack ∧ e.groups = y / 2 ^ 56 + 1 ∧ e.carg = BitVec.ofNat 56 y ∧ e.placed = 0 ∧ e.tref = c.g.tref ∧ e.tentative = none ∧
          t.mem = s.mem ∧ ∃ c', t.ctx? = some c' ∧ c'.h.readC k = true ∧ c'.f.pc = c.f.pc + 1) ∧
        (4096 ≤ (s.launchesOf stack).length → s.NoConflict pa 64 false → ∃ t c', exec (.launch a b nw k) s = .next t ∧ t.ctx? = some c' ∧
          t.launches = s.launches ∧ (nw = true → c'.h.readC k = false ∧ c'.f.pc = c.f.pc + 1) ∧
          (nw = false → c'.f.wait = .launch va bits y k ∧ c'.f.state = .parked ∧ c'.f.pc = c.f.pc ∧ c'.h.c = c.h.c))))

/-! ## Synchronisation objects (R374 to R380) -/

/-- Futures and quires: each word sends one request to the bank of its object, and its fragment goes on, or waits for the answer where the word
returns one; the bank reads and writes the objects' fields as R257 and R258 lay them out, hands the values it reads to their registers, and refuses with
SYNE; a word that must wait parks, or is sent again where the waiter table is full; a fill hands its value to the takes that wait, and a phase that
completes wakes its waits (R257, R258, R374 to R378). That a gang whose CLAIM waits keeps what its parked words are given for the grant is a reading
(DEDUCED, log 107), and so is that the access is the gang's like any other, performed when its bank applies it (DEDUCED, log 90). -/
def Obligations.FutureQuireResults : Prop :=
  (∀ (s : State) (c : Ctx) (d a b : SReg) (k : CBit) (pa attr : Nat), s.ctx? = some c → c.Quiet →
    let va := (c.h.readS a.val).toNat
    let v := c.h.readS b.val
    s.checkGlobal c.g.who .sync va 16 = .ok (pa, attr) →
    let sends := fun (i : Instr) (srcs : List SReg) (w : SyncOp) (f : Fragment) => ∃ t r o c', exec i s = .next t ∧ t.bankQ = s.bankQ ++ [r] ∧
      r.gid = c.g.gid ∧ r.gang = c.h.id ∧ r.op = s.idCount ∧ r.va = va ∧ r.pa = pa ∧ r.what = .sync c.f.entry w ∧ t.mem = s.mem ∧
      t.idCount = s.idCount + 1 ∧ o.id = s.idCount ∧ o.wait = .bank 1 ∧ t.ctx? = some c' ∧ c'.f = f ∧
      c'.h = ({ c.h with ops := c.h.ops ++ [o] }).setFrag f ∧ c'.g.errsum = c.g.errsum ||| c.h.sourceErr srcs
    let on := c.f.advance 1
    let waits := c.f.hold (.bank s.idCount)
    sends (.finit a) [a] .finit on ∧ sends (.ffill a b) [a, b] (.ffill v) on ∧ sends (.fpeek d a k) [a] (.peek d.val k) waits ∧
    sends (.qinit a b) [a, b] (.qinit v) on ∧ sends (.qarr a) [a] .qarr on ∧ sends (.qbyt a b) [a, b] (.qbyt v) on ∧
    (c.Passes → sends (.ftake d a) [a] (.take d.val) waits ∧ sends (.qwait a b) [a, b] (.qwait (v.toNat % 65536)) waits)) ∧
  (∀ (s : State) (r : BankReq) (e : Nat) (w : SyncOp) (g : Group) (h : Gang), s.nextRequest = some r → s.isGated (bankOf r.pa) = false →
    r.what = .sync e w → s.mem.wf = true → regionOf r.pa ≠ .control → s.group? r.gid = some g → g.gang? r.gang = some h → h.window = none →
    let old := s.readPhys r.pa 16
    let good := s.memErrBits r.pa 16 = 0
    let q := Quire.ofNat old
    let settled := fun (q : Quire) => if q.arr = q.exp ∧ q.bytes = 0 then { q with phase := (q.phase + 1) % 65536, arr := 0 } else q
    ∃ t g' h', exec .bankRequest s = .next t ∧ t.bankQ = s.bankQ.erase r ∧ t.group? r.gid = some g' ∧ g'.gang? r.gang = some h' ∧
      (∀ o ∈ h'.ops, o.id ≠ r.op) ∧ (∀ x, x < r.pa ∨ r.pa + 16 ≤ x → t.mem.read x = s.mem.read x) ∧
      (¬ good → t.mem = s.mem ∧ g'.errsum &&& MEME = MEME) ∧
      (good →
        let writes := fun (n : Nat) => t.mem.readN r.pa 16 = n
        let sets := fun (q : Quire) => writes q.toNat ∧ ∃ u, t = quireServed r.pa q.toNat u
        let refused := t.mem = s.mem ∧ g'.errsum &&& SYNE = SYNE
        (w = .finit → writes 0) ∧
        (∀ v, w = .ffill v → (old.testBit 64 = true → refused) ∧
          (old.testBit 64 = false → writes (old / 2 ^ 64 * 2 ^ 64 + 2 ^ 64 + v.toNat) ∧ ∃ u : State, t = u.deliverAll r.pa v)) ∧
        (∀ v, w = .qinit v → sets ⟨v.toNat / 2 ^ 48, 0, v.toNat % 2 ^ 32, 0⟩) ∧
        (w = .qarr → (q.arr < q.exp → sets (settled { q with arr := q.arr + 1 })) ∧ (q.exp ≤ q.arr → refused)) ∧
        (∀ v, w = .qbyt v →
          (-(2 ^ 47) ≤ q.bytes + v.toInt → q.bytes + v.toInt < 2 ^ 47 → sets (settled { q with bytes := q.bytes + v.toInt })) ∧
          (q.bytes + v.toInt < -(2 ^ 47) ∨ 2 ^ 47 ≤ q.bytes + v.toInt → refused))) ∧
      (∀ f, h.frag? e = some f → f.wait = .bank r.op → (∀ x ∈ h.frags, x.entry = e → x = f) →
        let held := h.claim.isSome ∧ f.state = .parked
        let goes := h'.frag? e = some (f.advance 1)
        let kept := fun (k : Waiter) (v : Word) => h'.frag? e = some { f with wait := .obj r.pa k, served := some v } ∧ h'.s = h.s
        let parks := fun (k : Waiter) => ∃ y, h'.frag? e = some (f.park y s.time) ∧ (y = .obj r.pa k ∨ ∃ n, y = .resend n r.va k) ∧ h'.s = h.s
        let v := BitVec.ofNat 64 old
        (∀ d, w = .take d → t.mem = s.mem ∧ (old.testBit 64 = false → parks (.take d)) ∧
          (old.testBit 64 = true → (¬ held → goes ∧ h'.s = (h.writeS d v).s) ∧ (held → kept (.take d) v))) ∧
        (∀ d k, w = .peek d k → t.mem = s.mem ∧ goes ∧ h'.s = (h.writeS d v).s ∧ h'.readC k = old.testBit 64) ∧
        (∀ p, w = .qwait p → t.mem = s.mem ∧ (q.passed p = false → parks (.phase p)) ∧
          (q.passed p = true → (¬ held → goes ∧ h'.s = h.s) ∧ (held → kept (.phase p) v))))) ∧
  (∀ (s : State) (g : Group) (h : Gang) (f : Fragment) (pa d : Nat) (v : Word), g ∈ s.groups → h ∈ g.gangs → h.window = none →
    h.frags = [f] → f.wait = .obj pa (.take d) → g.place = .resident → f.served = none →
    ∃ g' ∈ (s.deliverAll pa v).groups, g'.gid = g.gid ∧ ∃ h' ∈ g'.gangs, h'.id = h.id ∧
      (h.claim = none → h' = { h.writeS d v with frags := [f.advance 1] }) ∧
      (h.claim.isSome → h' = { h with frags := [{ f with served := some v }] })) ∧

  (∀ (s : State) (g : Group) (h : Gang) (f : Fragment) (pa new n : Nat), g ∈ s.groups → h ∈ g.gangs → f ∈ h.frags →
    f.wait = .obj pa (.phase n) → (Quire.ofNat new).passed n = true → g.place = .resident → h.claim = none →
    ∃ g' ∈ (quireServed pa new s).groups, g'.gid = g.gid ∧ ∃ h' ∈ g'.gangs, h'.id = h.id ∧ f.wake ∈ h'.frags) ∧
  (∀ n, n < 2 ^ 128 → (Quire.ofNat n).toNat = n) ∧
  (∀ q : Quire, q.phase < 65536 → q.exp < 2 ^ 32 → q.arr < 2 ^ 32 → -(2 ^ 47) ≤ q.bytes → q.bytes < 2 ^ 47 → Quire.ofNat q.toNat = q) ∧
  (∀ (q : Quire) (p : Nat), q.phase < 65536 → p < 65536 →
    (q.passed p = true ↔ ∃ k, 1 ≤ k ∧ k ≤ 32767 ∧ (p + k) % 65536 = q.phase))

/-! ## The baton and leases (R277, R278, R305 to R309) -/

/-- BATON words take and pass the baton of the core; LEASE pins the lines of its range that map GDDR 7, whole where each stack that holds some has a place in its
table of 256 and stays within half of its cache pages, and otherwise refuses it on each of those stacks, never faulting; UNLEASE ends it, and an
expired one goes (R253, R277 to R279, R304 to R309).
That a malformed LEASE marks both stacks, and which pages count as cache, are the model's choice (log 17), and so is that a gang without the baton takes
detail 0x01 whomever its BATON.PASS names (log 120). -/
def Obligations.BatonLeaseResults : Prop :=
  (∀ (s : State) (c : Ctx) (b : SReg), s.ctx? = some c → c.Issues → Table.wf Core.fresh s.cores = true →
    let k := s.core c.g.core
    let me := (c.g.gid, c.h.id)
    let g := c.g.orErr (c.h.sourceErr [b])
    let target := (c.h.readS b.val).toNat % 32
    (k.baton = none → exec .batonTake s = .next ((s.put c.g c.h (c.f.advance 1)).setCore c.g.core { k with baton := some me })) ∧
    (k.baton = some me → exec .batonTake s = .next (s.put c.g c.h (c.f.advance 1))) ∧
    (∀ o, k.baton = some o → o ≠ me → me ∉ k.batonQ → exec .batonTake s =
      .next ((s.put c.g c.h (c.f.block .baton s.time)).setCore c.g.core { k with batonQ := k.batonQ ++ [me] })) ∧
    (k.baton = some me → target = c.h.id → exec (.batonPass b) s = .next (s.put g c.h (c.f.advance 1))) ∧
    (∀ h, k.baton = some me → target ≠ c.h.id → c.g.gang? target = some h → h.lmask ≠ 0 → ∃ t, exec (.batonPass b) s = .next t ∧
      (t.core c.g.core).baton = some (c.g.gid, target) ∧ t.mem = s.mem) ∧
    (k.baton = some me → ∃ t, exec .batonPassAny s = .next t ∧ (t.core c.g.core).baton = k.batonQ.head? ∧
      (t.core c.g.core).batonQ = k.batonQ.tail ∧ t.mem = s.mem) ∧
    (k.baton ≠ some me →
      exec (.batonPass b) s = .next (s.takeTrap g c.h c.f c.f.pc (Trap.inGang 0x09 1 (c.h.enabled c.f))) ∧
      exec .batonPassAny s = .next (s.takeTrap c.g c.h c.f c.f.pc (Trap.inGang 0x09 1 (c.h.enabled c.f)))) ∧
    (k.baton = some me → target ≠ c.h.id → (c.g.gang? target = none ∨ ∃ h, c.g.gang? target = some h ∧ h.lmask = 0) →
      exec (.batonPass b) s = .next (s.takeTrap g c.h c.f c.f.pc (Trap.inGang 0x09 2 (c.h.enabled c.f))))) ∧
  (∀ (s : State) (c : Ctx) (a b : SReg), s.ctx? = some c → c.Issues →
    let y := (c.h.readS b.val).toNat
    let line := (c.h.readS a.val).toNat / 128
    let s1 := s.put (c.g.orErr (c.h.sourceErr [a, b])) c.h (c.f.advance 1)
    (y / 2 ^ 40 % 2 ^ 24 = 0 ∨ y % 2 ^ 32 = 0 ∨ y / 2 ^ 32 % 2 ^ 8 ≠ 0 → ∃ t, exec (.lease a b) s = .next t ∧
      t = { s1 with vat0 := { s.vat0 with refd := true }, vat1 := { s.vat1 with refd := true } }) ∧
    (y / 2 ^ 40 % 2 ^ 24 ≠ 0 → y % 2 ^ 32 ≠ 0 → y / 2 ^ 32 % 2 ^ 8 = 0 →
      let u := s1.notePages c.g.who line (y % 2 ^ 32)
      let lines := (s.leasable c.g.who line (y % 2 ^ 32)).eraseDups
      let on := fun (st : StackId) => lines.filter fun l => homeStack (128 * l) == st
      let fits := fun (st : StackId) => on st = [] ∨ (u.vat st).leases.length < 256 ∧
        2 * ((u.vat st).pinned ++ on st).eraseDups.length ≤ 512 * (4096 - (u.vat st).dp - u.ringPages st.val)
      let makes := fun (v : StackId → Vat) => ∃ t, exec (.lease a b) s = .next t ∧ t = { u with vat0 := t.vat0, vat1 := t.vat1 } ∧
        ∀ st, t.vat st = if on st = [] then u.vat st else v st
      (fits 0 ∧ fits 1 → makes fun st =>
        { u.vat st with leases := (u.vat st).leases ++ [⟨line, on st, s.time / 1000 + 1000 * (y / 2 ^ 40 % 2 ^ 24)⟩] }) ∧
      (¬ (fits 0 ∧ fits 1) → makes fun st => { u.vat st with refd := true })) ∧
    (∃ t, exec (.unlease a) s = .next t ∧
      (∀ l, l ∈ t.vat0.leases ↔ l ∈ s.vat0.leases ∧ l.key ≠ line) ∧ (∀ l, l ∈ t.vat1.leases ↔ l ∈ s.vat1.leases ∧ l.key ≠ line) ∧
      t = { s.put (c.g.orErr (c.h.sourceErr [a])) c.h (c.f.advance 1) with
        vat0 := { s.vat0 with leases := t.vat0.leases }, vat1 := { s.vat1 with leases := t.vat1.leases } }) ∧
    (∀ (w : Who) (line n l : Nat), l ∈ s.leasable w line n ↔
      ∃ i pa, i < n ∧ s.mapped w (128 * (line + i)) = some pa ∧ regionOf pa = .gddr ∧ l = pa / 128) ∧
    (∀ st : StackId, (∃ l ∈ (s.vat st).leases, l.ends ≤ s.time / 1000) → exec (.leaseExpiry st) s =
      .next (s.setVat st { s.vat st with leases := (s.vat st).leases.filter (fun l => decide (s.time / 1000 < l.ends)) })))

/-! ## Lane instructions of fixed latency (R105, R198 to R235) -/

/-- Elements stand lowest first in a register; an integer result is exact modulo 2^w, or with .SAT the nearest value of the type, IS set
where that differs; the counts and reversals of bits are what their names say (R179, R206, R209). -/
def Obligations.ElementLaws : Prop :=
  (∀ (w x k : Nat), w ∈ [8, 16, 32, 64] → x < 2 ^ 64 →
    fromElems w (elems w x) = x ∧ (k < 64 / w → (elems w x)[k]? = some (x / 2 ^ (w * k) % 2 ^ w))) ∧
  (∀ (t : TyCode) (sat : Bool) (z : Int), Types.isInt t = true →
    let r := intResult t sat z
    let w := Types.width t
    let least : Int := if Types.isSigned t then -(2 ^ (w - 1)) else 0
    let most : Int := if Types.isSigned t then 2 ^ (w - 1) - 1 else 2 ^ w - 1
    r.1 < 2 ^ w ∧ (sat = false → (r.1 : Int) = z % 2 ^ w ∧ r.2 = 0) ∧
    (sat = true → intOf t r.1 = max least (min most z) ∧ r.2 = if least ≤ z ∧ z ≤ most then 0 else 1)) ∧
  (∀ (w x j : Nat), j < w →
    Bits.popcount w x = ((List.range w).filter fun k => x.testBit k).length ∧
    (Bits.reverse w x).testBit j = x.testBit (w - 1 - j) ∧
    (w - Bits.clz w x ≤ j → x.testBit j = false) ∧ (Bits.clz w x < w → x.testBit (w - 1 - Bits.clz w x) = true) ∧
    (j < Bits.ctz w x → x.testBit j = false) ∧ (Bits.ctz w x < w → x.testBit (Bits.ctz w x) = true))

/-- The integer and bit instructions: every active lane takes, element by element, the value that the manual's formula gives (R206 to R214).
That VMADW reads its operand c, a special code too, in the wide type is a reading (DEDUCED, log 80). -/
def Obligations.LaneIntegerResults : Prop :=
  (∀ f : Lane,
    let sat := f.mod.getLsbD 0
    let of := intOf
    let two := fun (ins : Instr) (op : LOp) (sat : Bool) (z : Int → Int → Int) =>
      LaneResult ins op f ownLane fun i => each2 i fun x y => intResult i.t sat (z (of i.t x) (of i.t y))
    two (.vadd f) .vadd sat (fun x y => x + y) ∧ two (.vsub f) .vsub sat (fun x y => x - y) ∧ two (.vmul f) .vmul sat (fun x y => x * y) ∧
    two (.vmin f) .vmin false (fun x y => if y < x then y else x) ∧ two (.vmax f) .vmax false (fun x y => if x < y then y else x) ∧
    LaneResult (.vmulh f) .vmulh f ownLane (fun i => each2 i fun x y =>
      (Bits.wrap (Types.width i.t) (of i.t x * of i.t y / ((2 ^ Types.width i.t : Nat) : Int)), 0)) ∧
    LaneResult (.vmad f) .vmad f ownLane (fun i => each3 i fun x y z => intResult i.t sat (of i.t x * of i.t y + of i.t z)) ∧
    LaneResult (.vmadw f) .vmadw f ownLane (fun i =>
      let wide := Types.widen i.t
      let n := 64 / Types.width wide
      let o := if f.mod.getLsbD 0 then n else 0
      (i.toV fun l => some (joinElems (Types.width wide) ((List.range n).map fun k => intResult wide (f.mod.getLsbD 1)
        (of wide ((elems (Types.width wide) (i.read wide f.c l)).getD k 0) +
          of i.t ((i.elems f.a l).getD (o + k) 0) * of i.t ((i.elems f.b l).getD (o + k) 0)))), 0)) ∧
    LaneResult (.vabs f) .vabs f ownLane (fun i => each1 i fun x => intResult i.t sat ((of i.t x).natAbs : Int)) ∧
    LaneResult (.vneg f) .vneg f ownLane (fun i => each1 i fun x => intResult i.t sat (-(of i.t x))) ∧
    LaneResult (.vabsd f) .vabsd f ownLane (fun i => each2 i fun x y => ((of i.t x - of i.t y).natAbs, 0)) ∧
    LaneResult (.vsad f) .vsad f ownLane (fun i => laneValue i fun l =>
      let ds := List.zipWith (fun x y => (of i.t x - of i.t y).natAbs) (i.elems f.a l) (i.elems f.b l)
      let sum := fun (k : Nat) (xs : List Nat) => ((elems 32 (i.read .n32 f.c l)).getD k 0 + xs.foldl (fun a b => a + b) 0) % 2 ^ 32
      fromElems 32 [sum 0 (ds.take (ds.length / 2)), sum 1 (ds.drop (ds.length / 2))])) ∧
  (∀ f : Lane,
    let R := fun (ins : Instr) (op : LOp) (body : Issue → Writes × BitVec 9) => LaneResult ins op f ownLane body
    let bits := fun (ins : Instr) (op : LOp) (z : Nat → Nat → Nat) =>
      R ins op fun i => laneValue i fun l => z (i.read i.t f.a l) (i.read i.t f.b l)
    let shift := fun (ins : Instr) (op : LOp) (z : Nat → Nat → Nat → Nat) =>
      R ins op fun i => each2 i fun x y => (z (Types.width i.t) x (y % Types.width i.t), 0)
    bits (.vand f) .vand (fun x y => x &&& y) ∧ bits (.vor f) .vor (fun x y => x ||| y) ∧ bits (.vxor f) .vxor (fun x y => x ^^^ y) ∧
    R (.vnot f) .vnot (fun i => laneValue i fun l => 2 ^ 64 - 1 - i.read i.t f.a l) ∧
    shift (.vshl f) .vshl (fun w x n => x * 2 ^ n % 2 ^ w) ∧ shift (.vshr f) .vshr (fun _ x n => x / 2 ^ n) ∧
    shift (.vsra f) .vsra (fun w x n => Bits.wrap w (Bits.toSigned w x / ((2 ^ n : Nat) : Int))) ∧
    shift (.vrot f) .vrot (fun w x n => (x * 2 ^ n % 2 ^ w) ||| (x / 2 ^ (w - n))) ∧
    R (.vbfe f) .vbfe (fun i => each3 i fun x y z =>
      let w := Types.width i.t
      let m := min (min w (z % (2 * w))) (w - y % w)
      let v := x / 2 ^ (y % w) % 2 ^ m
      (if m = 0 then 0 else if Types.isSigned i.t then Bits.wrap w (Bits.toSigned m v) else v, 0)) ∧
    R (.vbfi f) .vbfi (fun i => laneValue i fun l =>
      let w := Types.width i.t
      let old := elems w (i.h.readV (vnum f.d) l).toNat
      fromElems w ((List.range (64 / w)).map fun k =>
        let pos := (i.elems f.b l).getD k 0 % w
        let m := min (min w ((i.elems f.c l).getD k 0 % (2 * w))) (w - pos)
        if m = 0 then old.getD k 0 else Bits.insert pos m (old.getD k 0) ((i.elems f.a l).getD k 0))) ∧
    R (.vpopc f) .vpopc (fun i => each1 i fun x => (Bits.popcount (Types.width i.t) x, 0)) ∧
    R (.vclz f) .vclz (fun i => each1 i fun x => (Bits.clz (Types.width i.t) x, 0)) ∧
    R (.vctz f) .vctz (fun i => each1 i fun x => (Bits.ctz (Types.width i.t) x, 0)) ∧
    R (.vbrev f) .vbrev (fun i => each1 i fun x => (Bits.reverse (Types.width i.t) x, 0)) ∧
    R (.vbswp f) .vbswp (fun i => each1 i fun x => (fromElems 8 ((List.range (Types.width i.t / 8)).map (elem 8 x)).reverse, 0)) ∧
    R (.vcmp f) .vcmp (fun i => eachCompare i fun x y =>
      let p := intOf i.t x
      let q := intOf i.t y
      match f.mod.toNat % 8 with
      | 0 => p == q | 1 => p != q | 2 => decide (p < q) | 3 => decide (p ≤ q) | 4 => decide (q < p) | _ => decide (q ≤ p)) ∧
    R (.vsel f) .vsel (fun i => laneValue i fun l =>
      let a := i.read i.t f.a l
      let b := i.read i.t f.b l
      match f.c with
      | .p p => if (i.h.readP p.val).getLsbD l then a else b
      | _ => (a &&& i.read i.t f.c l) ||| (b &&& (2 ^ 64 - 1 - i.read i.t f.c l))) ∧
    R (.vmov f) .vmov (fun i => laneValue i fun l =>
      if f.mod.getLsbD 0 then
        setElem (Types.width i.t) (i.h.readV (vnum f.d) l).toNat (f.x24.toNat % 16)
          (elem (Types.width i.t) (i.read i.t f.a l) (f.x24.toNat / 256 % 16))
      else i.read i.t f.a l) ∧
    R (.vpack f) .vpack (fun i => laneValue i fun l =>
      fromElems (Types.width i.t) ((List.range (64 / Types.width i.t)).map fun k =>
        (i.elems f.a l ++ i.elems f.b l).getD (2 * k + (if f.mod.getLsbD 0 then 1 else 0)) 0)) ∧
    R (.vunpk f) .vunpk (fun i => laneValue i fun l =>
      let src := (List.zipWith (fun x y => [x, y]) (i.elems f.a l) (i.elems f.b l)).flatten
      fromElems (Types.width i.t) (if f.mod.getLsbD 0 then src.drop (64 / Types.width i.t) else src.take (64 / Types.width i.t))))

/-- The float instructions and the conversions: every active lane takes, element by element, the exact result rounded once as the format and the control
bits say, the transcendentals and the block conversions included (R215 to R227).
The precision at which the correctly rounded functions stop is the model's (log 10), some pairs of types are a reading (log 31), and so is that
VCVT reads a constant, scalar or special code of field a in the source type (DEDUCED, log 79). -/
def Obligations.LaneFloatResults : Prop :=
  (∀ f : Lane,
    let R := fun (ins : Instr) (op : LOp) (body : Issue → Writes × BitVec 9) => LaneResult ins op f ownLane body
    let value := fun (i : Issue) (x : Nat) => Num.decodeFl i.ctl.flush i.t x
    let rounded := fun (i : Issue) (p : Num.Pre) => Num.roundF i.ctl i.t p
    let two := fun (ins : Instr) (op : LOp) (z : Nat → Num.Exact → Num.Exact → Num.Pre) =>
      R ins op fun i => each2 i fun x y => rounded i (z i.ctl.rm (value i x) (value i y))
    let one := fun (ins : Instr) (op : LOp) (z : Num.Exact → Num.Pre) => R ins op fun i => each1 i fun x => rounded i (z (value i x))
    let flip := fun (b : Bool) (x : Num.Exact) => if b then x.neg else x
    two (.vfadd f) .vfadd Num.addE ∧ two (.vfsub f) .vfsub (fun rm x y => Num.addE rm x y.neg) ∧
    two (.vfmul f) .vfmul (fun _ x y => Num.mulE x y) ∧ two (.vfdiv f) .vfdiv (fun _ x y => Num.divE x y) ∧
    R (.vfma f) .vfma (fun i => each3 i fun x y z =>
      rounded i (Num.fmaE i.ctl.rm (flip (f.mod.getLsbD 0) (value i x)) (value i y) (flip (f.mod.getLsbD 1) (value i z)))) ∧
    R (.vfmin f) .vfmin (fun i => each2 i fun x y => (Num.minMax i.ctl.flush (f.mod.getLsbD 0) false i.t x y, 0)) ∧
    R (.vfmax f) .vfmax (fun i => each2 i fun x y => (Num.minMax i.ctl.flush (f.mod.getLsbD 0) true i.t x y, 0)) ∧
    R (.vfcmp f) .vfcmp (fun i => eachCompare i fun x y =>
      let a := value i x
      let b := value i y
      let open' := a == .nan || b == .nan
      match f.mod.toNat % 8 with
      | 0 => !open' && Num.eqE a b | 1 => open' || !Num.eqE a b | 2 => !open' && Num.ltE a b | 3 => !open' && !Num.ltE b a
      | 4 => !open' && Num.ltE b a | 5 => !open' && !Num.ltE a b | 6 => open' | _ => !open') ∧
    R (.vfclass f) .vfclass (fun i => each1 i fun x => (2 ^ (match Num.decode i.t x with
      | .nan => 0
      | .inf true => 1 | .inf false => 8
      | .fin true m _ => if m = 0 then 4 else if Num.isSub i.t x then 3 else 2
      | .fin false m _ => if m = 0 then 5 else if Num.isSub i.t x then 6 else 7), 0)) ∧
    R (.vfrnd f) .vfrnd (fun i => each1 i fun x => match value i x with
      | .nan => (Num.canonNan i.t, 0)
      | .inf n => (Num.infBits i.t n, 0)
      | .fin n m e =>
        ((Num.roundF Num.rne i.t (.val n (Num.roundNat (rndMode (f.mod.toNat % 8) i.ctl.rm) n m e false) 0 false)).1, 0)) ∧
    one (.vfrcp f) .vfrcp Num.rcpE ∧ one (.vfrsq f) .vfrsq Num.rsqE ∧ one (.vfsqrt f) .vfsqrt Num.sqrtE ∧
    R (.vfexp2 f) .vfexp2 (fun i => each1 i fun x => Num.exp2Bits i.ctl i.t (value i x)) ∧
    R (.vflog2 f) .vflog2 (fun i => each1 i fun x => Num.log2Bits i.ctl i.t (value i x)) ∧
    R (.vfsin f) .vfsin (fun i => each1 i fun x => Num.sinBits i.ctl i.t (value i x)) ∧
    R (.vfcos f) .vfcos (fun i => each1 i fun x => Num.cosBits i.ctl i.t (value i x))) ∧
  (∀ f : Lane,
    let R := fun (ins : Instr) (op : LOp) (body : Issue → Writes × BitVec 9) => LaneResult ins op f ownLane body
    R (.vdot f) .vdot (fun i =>
      (i.toV fun l => some ((i.dot l).1, (i.dot l).2.1), if i.lanes.any (fun l => (i.dot l).2.2) then FMTE else 0)) ∧
    R (.vcvt f) .vcvt (fun i =>
      let ts := Types.resolve i.fmt (Types.ofCode f.x24.toNat)
      (i.toV fun l => some (partwise ts i.t (f.x24.toNat >>> 5 % 8) (i.h.readV (vnum f.d) l).toNat (i.read ts f.a l)
        (fun x => Num.convert i.ctl i.t (i.exactOf ts x).pre)), 0)) ∧
    R (.vcvtx f) .vcvtx (fun i =>
      if !Types.isX i.t then (i.toV fun l => some (i.scaledConvert l), 0)
      else if f.mod.getLsbD 0 then
        ({ v := (i.lanes.map i.unpackBlock).flatMap (fun r => r.1), p := [], s := [],
           satf := BitVec.ofNat 4 ((i.lanes.map i.unpackBlock).foldl (fun a r => a ||| r.2.1) 0) },
          if (i.lanes.map i.unpackBlock).any (fun r => r.2.2) then FMTE else 0)
      else
        ({ v := (i.lanes.map i.packBlock).flatMap (fun r => r.1), p := [], s := [],
           satf := BitVec.ofNat 4 ((i.lanes.map i.packBlock).foldl (fun a r => a ||| r.2) 0) }, 0)) ∧
    R (.vscale f) .vscale (fun i => laneValue i fun l =>
      setElem 8 (i.h.readV (vnum f.d) l).toNat (f.x24.toNat >>> 17 % 8)
        (Num.chooseScale i.t ((i.groupElems (Types.resolve i.fmt (Types.ofCode f.x24.toNat)) f.a 8 l).map
          (i.exactOf (Types.resolve i.fmt (Types.ofCode f.x24.toNat)))))))

/-- The cross-lane operations: which lanes each reads, and what it writes where the lanes it would read are not active (R203, R228 to
R235). -/
def Obligations.CrossLaneResults : Prop :=
  ∀ f : Lane,
    let near := fun (ins : Instr) (op : LOp) (body : Issue → Writes × BitVec 9) => LaneResult ins op f ownLane body
    let anyP := fun (i : Issue) => i.lanes.any fun l => (i.h.readP (pnum f.a)).getLsbD l
    let allP := fun (i : Issue) => i.lanes.all fun l => (i.h.readP (pnum f.a)).getLsbD l
    let scan := fun (i : Issue) => foldScan (f.mod.toNat % 8) i.ctl i.t none 0 (i.lanes.flatMap fun l => i.elems f.a l)
    LaneResult (.vxln f) .vxln f xlnFar (fun i =>
      let w := Types.width i.t
      let ks := List.range (64 / w)
      ({ (i.toV fun l => some (fromElems w (ks.map fun k => match i.xlnSource l k with
          | some (m, q) => elem w (i.read i.t f.a m) q
          | none => elem w (i.read i.t f.a l) k), 0)) with
        p := (i.toP (pnum f.c) fun l => ks.all fun k => (i.xlnSource l k).isSome).p }, 0)) ∧
    LaneResult (.vqswz f) .vqswz f (swzFar f) (fun i => (i.toV fun l =>
      let m := l - l % 4 + f.x24.toNat / 4 ^ (l % 4) % 4
      if i.active.getLsbD m then some (i.read i.t f.a m, 0) else none, 0)) ∧
    LaneResult (.vqdx f) .vqdx f (diffFar f false) (fun i => quadDifference i false) ∧
    LaneResult (.vqdy f) .vqdy f (diffFar f true) (fun i => quadDifference i true) ∧
    near (.vmatch f) .vmatch (fun i =>
      let x := fun l => i.read i.t f.a l % 2 ^ Types.width i.t
      laneValue i fun l => Bits.maskOf (i.lanes.filter fun m => x m == x l)) ∧
    near (.vballot f) .vballot (fun i =>
      let m := i.active &&& i.h.readP (pnum f.a)
      match f.d with
      | .s r => (⟨[], [], [(r.val, m)], 0⟩, 0)
      | _ => laneValue i fun _ => m.toNat) ∧
    near (.vvote f) .vvote (fun i => (i.toP (pnum f.d) fun _ => match f.mod.toNat % 4 with
      | 0 => anyP i
      | 1 => allP i
      | _ => allP i || !anyP i, 0)) ∧
    near (.vscan f) .vscan (fun i =>
      let e := 64 / Types.width i.t
      let outs := (scan i).1.map fun p => if f.mod.getLsbD 3 then p.1 else p.2
      (⟨(List.range i.lanes.length).map fun k =>
          ((vnum f.d, i.lanes.getD k 0), BitVec.ofNat 64 (fromElems (Types.width i.t) ((outs.drop (k * e)).take e))),
        [], [], BitVec.ofNat 4 (scan i).2.2⟩, 0)) ∧
    near (.vred f) .vred (fun i => match f.d with
      | .s n => (⟨[], [], [(n.val, BitVec.ofNat 64 ((scan i).2.1 % 2 ^ Types.width i.t))], BitVec.ofNat 4 (scan i).2.2⟩, 0)
      | _ => ({ (i.toV fun _ => some (replicate i.t (scan i).2.1, 0)) with satf := BitVec.ofNat 4 (scan i).2.2 }, 0)) ∧
    LaneResult (.vbcast f) .vbcast f bcastFar (fun i => (i.toV fun _ => i.bcastLane.map fun m => (i.read i.t f.a m, 0), 0))

/-- A fixed-latency result: nothing changes before the end of its cycle; then each lane that has not exited takes the value written to
it, in v registers and predicates, and each s register its value, SATF collects its bits, every other register, lane and flag stays; of two writes
of one cycle to one place, a lane of a v register, a predicate's lanes or an s register, that of the higher split-table entry remains (R105, R163,
R192, R200). A variable-latency result that is ready lands; a window whose earlier accesses have performed
commits, or its held fault is resolved; serial mode whose accesses have performed ends; a bank that is not gated takes its next request (R106, R254,
R275, R368, R370, R371). -/
def Obligations.LaneResultsLand : Prop :=
  (∀ (s : State) (gid gang : Nat) (g : Group) (h : Gang), s.group? gid = some g → g.gang? gang = some h →
    (∀ o ∈ h.ops, o.wait = .time → (∀ x ∈ h.ops, x.id = o.id → x = o) → g.place = .resident →
      ∃ t, exec (.varResultLand gid gang o.id) s = .next t ∧ t = { s with groups := t.groups }) ∧
    (∀ w, h.window = some w → h.earlierDone w = true →
      (w.fault = none → ∃ t, exec (.windowCommit gid gang) s = .next t ∧ t.time = s.time ∧ t.own = s.own) ∧
      (w.fault.isSome = true → ∃ t, exec (.heldFaultResolve gid gang) s = .next t ∧ t.mem = s.mem ∧ t.time = s.time)) ∧
    (h.serial = some (.count 0) → ∃ t, exec (.serialModeEnd gid gang) s = .next t ∧ t = { s with groups := t.groups })) ∧
  (∀ (s : State) (r : BankReq), s.isGated (bankOf r.pa) = false →
    (s.nextRequest = some r → ∃ t, exec .bankRequest s = .next t ∧ t.bankQ = s.bankQ.erase r ∧ t.time = s.time) ∧
    (∀ st, s.nextOrdered st = some r → ∃ t, exec (.orderedContribution st) s = .next t ∧ t.time = s.time ∧ t.own = s.own)) ∧
  (∀ (h : Gang) (c : Nat), (∀ x ∈ h.fpend, c ≤ x.due) → h.settle c = h) ∧
  (∀ (h : Gang) (w : FWrite) (c : Nat), h.fpend = [w] → w.due < c → h.settle c = { h with fpend := [] }.apply w.writes) ∧
  (∀ (h : Gang) (w : Writes), Table.wf 0 h.v = true → Table.wf 0 h.p = true → Table.wf 0 h.s = true → (∀ x ∈ w.v, x.1.2 < 64) →
    let u := h.apply w
    (∀ r l, l < 64 → (∀ x ∈ w.v, x.1 ≠ (r, l)) ∨ h.lmask.getLsbD l = false → u.readV r l = h.readV r l) ∧
    ((w.v.map fun x => x.1).Nodup → ∀ x ∈ w.v, h.lmask.getLsbD x.1.2 = true → u.readV x.1.1 x.1.2 = x.2) ∧
    ((w.p.map fun x => x.1).Nodup → ∀ x ∈ w.p, x.1 ≠ 0 →
      u.readP x.1 = (h.readP x.1 &&& ~~~(x.2.1 &&& h.lmask)) ||| (x.2.2 &&& (x.2.1 &&& h.lmask))) ∧
    ((w.s.map fun x => x.1).Nodup → ∀ x ∈ w.s, x.1 ≠ 0 → u.readS x.1 = x.2) ∧
    (∀ r, (∀ x ∈ w.p, x.1 ≠ r) → u.readP r = h.readP r) ∧ (∀ r, (∀ x ∈ w.s, x.1 ≠ r) → u.readS r = h.readS r) ∧
    u.satf = h.satf ||| w.satf ∧
    u = { h with v := u.v, verr := u.verr, p := u.p, perr := u.perr, s := u.s, serr := u.serr, satf := u.satf }) ∧
  (∀ (h : Gang) (due e1 e2 r l : Nat) (x y : Word) (fl : BitVec 4), Table.wf 0 h.v = true → l < 64 → e1 < e2 → h.lmask.getLsbD l = true →
    let w := fun (e : Nat) (v : Word) => (⟨due, e, ⟨[((r, l), v)], [], [], fl⟩⟩ : FWrite)
    ({ h with fpend := insertF (w e2 y) (insertF (w e1 x) []) }.settle (due + 1)).readV r l = y ∧
    ({ h with fpend := insertF (w e1 x) (insertF (w e2 y) []) }.settle (due + 1)).readV r l = y) ∧
  (∀ (h : Gang) (due e1 e2 r : Nat) (x y lx ly : Word) (fl : BitVec 4), Table.wf 0 h.s = true → Table.wf 0 h.p = true → e1 < e2 → r ≠ 0 →
    let both := fun (a b : FWrite) => ({ h with fpend := insertF a (insertF b []) } : Gang).settle (due + 1)
    let ws := fun (e : Nat) (v : Word) => (⟨due, e, ⟨[], [], [(r, v)], fl⟩⟩ : FWrite)
    let wp := fun (e : Nat) (l v : Word) => (⟨due, e, ⟨[], [(r, l, v)], [], fl⟩⟩ : FWrite)
    let on := fun (l v old : Word) => (old &&& ~~~(l &&& h.lmask)) ||| (v &&& (l &&& h.lmask))
    (both (ws e2 y) (ws e1 x)).readS r = y ∧ (both (ws e1 x) (ws e2 y)).readS r = y ∧
    (both (wp e2 ly y) (wp e1 lx x)).readP r = on ly y (on lx x (h.readP r)) ∧
    (both (wp e1 lx x) (wp e2 ly y)).readP r = on ly y (on lx x (h.readP r)))

/-- A lane instruction, outside a window and with every earlier access performed, that is illegal for its type, its gang's registers or
its word takes the illegal-instruction trap with the lowest detail (for VRCQ, whose input group reaches as far as its net says, 5 where that group
passes the gang's registers); one that a checking pass finds reading a register with a write pending takes the hazard trap in the lanes that
read it; neither has any other effect (R102, R105, R116, R146, R337, R385). -/
def Obligations.LaneTraps : Prop :=
  ∀ (s : State) (c : Ctx) (f : Lane) (mk : Lane → Instr) (op : LOp), s.ctx? = some c → c.Quiet → (mk, op) ∈ laneOps →
    let illegal := Legal.illegal op f ⟨some c.f.fmtf.toNat, some c.h.vcount, some c.g.tiles.length⟩
    let i := c.issue op f
    let net := s.net (f.x24.toNat % 4)
    let past := op == .vrcq &&
      !Legal.vBelow (some c.h.vcount) f.a (3 + if net.en then Bits.ceilDiv (Num.NetDesc.nmat ⟨net.desc⟩) 4 else 0)
    (∀ d, (if past then some (min 5 (illegal.getD 5)) else illegal) = some d →
      exec (mk f) s = .next (s.takeTrap c.g c.h c.f c.f.pc (Trap.inGang 0x01 d (c.h.enabled c.f)))) ∧
    (∀ bad, illegal = none → past = false → c.g.chk = true →
      i.stalledIn (s.core c.g.core).cycle (i.stalled (s.core c.g.core).cycle (sources op f i.t i.fmt) (farOf op f i))
        (if op = .vrcq then i.netSources (if net.en then Num.NetDesc.nmat ⟨net.desc⟩ else 0) else []) = some bad →
      exec (mk f) s = .next (s.takeTrap c.g c.h c.f c.f.pc (Trap.inGang 0x02 0 bad)))

/-! ## Lane accesses to memory (R80, R254, R264 to R275, R364) -/

/-- VLD, VST, VLDS, VSTS and VPREF: each lane's element is read or written at its own address; the fault taken is that of the lowest cause, in the
lanes that met it, with the address of the lowest of them (R264 to R270, R366, R367, R385, R386). VATOM, VCAS and VFAR issue where every lane's bytes may
be read and written, are outstanding, and have changed no byte of memory (R271 to R275). -/
def Obligations.LaneMemoryResults : Prop :=
  (∀ (s : State) (c : Ctx) (f : Lane), c.Quiet →
    let reach := fun (op : LOp) => ∀ l ∈ (laneIssue op f ownLane c).workers, ∃ x,
      s.checkGlobal c.g.who .atomic ((laneIssue op f ownLane c).addr l) (Types.width (laneIssue op f ownLane c).t / 8) = .ok x
    (LaneReady .vatom f ownLane s c → reach .vatom → ∃ t o, exec (.vatom f) s = .next t ∧ Started s t c f o ∧ t.mem = s.mem) ∧
    (LaneReady .vcas f ownLane s c → reach .vcas → ∃ t o, exec (.vcas f) s = .next t ∧ Started s t c f o ∧ t.mem = s.mem) ∧
    (LaneReady .vfar f ownLane s c → reach .vfar → ∃ t o, exec (.vfar f) s = .next t ∧ Started s t c f o ∧ t.mem = s.mem)) ∧
  (∀ (s : State) (c : Ctx) (f : Lane), c.Quiet →
    let words := fun (i : Issue) (l bits : Nat) => match f.mod.toNat % 4 with
      | 0 => [((vnum f.d, l), BitVec.ofNat 64 bits)]
      | 1 => [((vnum f.d, l), if Types.isSigned i.t then Bits.sext (Types.width i.t) bits else BitVec.ofNat 64 bits)]
      | _ => [((vnum f.d, l), BitVec.ofNat 64 bits), ((vnum f.d + 1, l), BitVec.ofNat 64 (bits / 2 ^ 64))]
    let loads := fun (ins : Instr) (i : Issue) (reads zero : Nat → Nat → Prop) => ∃ t o, exec ins s = .next t ∧ Started s t c f o ∧
      t.mem = s.mem ∧ o.wait = .time ∧ o.lanes = i.active ∧ o.dests = i.loadDests ∧
      (∀ l ∈ i.lanes, ∀ bits, reads l bits ∨ zero l bits → ∀ x ∈ words i l bits, x ∈ o.writes.v) ∧
      (∀ x ∈ o.writes.v, x.1.1 ∈ o.dests ∧ ∃ l ∈ i.lanes, ∃ bits, (reads l bits ∨ zero l bits) ∧ x ∈ words i l bits) ∧
      o.writes.p = [] ∧ o.writes.s = [] ∧ o.writes.satf = 0
    (LaneReady .vld f ownLane s c →
      let i := laneIssue .vld f ownLane c
      let n := i.accessSize
      let s1 := i.noteWalks s i.lanes
      let at' := fun (l : Nat) => s.checkGlobal c.g.who .load (i.addr l) n
      let r := i.checkLanes i.lanes (fun va => s.checkGlobal c.g.who .load va n)
      ((∀ l ∈ i.lanes, (∃ x, at' l = .ok x) ∨ i.isHelper l = true) →
        (∀ l ∈ i.lanes, ∀ pa attr, at' l = .ok (pa, attr) → s1.ownPending c.g.gid c.h.id pa n = false) →
        loads (.vld f) i (fun l bits => ∃ pa attr, at' l = .ok (pa, attr) ∧ bits = s1.loadN c.g.core attr pa n)
          (fun l bits => bits = 0 ∧ ∃ e, at' l = .error e)) ∧
      (∀ t, laneFault .load (r.2.filter fun x => !i.isHelper x.1) = some t →
        exec (.vld f) s = .next (s1.takeTrap i.g i.h c.f c.f.pc t))) ∧
    (LaneReady .vlds f ownLane s c →
      let i := laneIssue .vlds f ownLane c
      let n := i.accessSize
      let fits := fun (l : Nat) => i.addr l % n = 0 ∧ i.addr l + n ≤ c.g.kernel.scrg * 4096
      let r := i.checkLanes i.lanes (scratchOk c.g n)
      ((∀ l ∈ i.lanes, fits l ∨ i.isHelper l = true) →
        loads (.vlds f) i (fun l bits => fits l ∧ bits = (s.core c.g.core).scratchN (c.g.window + i.addr l) n)
          (fun l bits => bits = 0 ∧ ¬ fits l)) ∧
      (∀ t, laneFault .load (r.2.filter fun x => !i.isHelper x.1) = some t →
        exec (.vlds f) s = .next (s.takeTrap i.g i.h c.f c.f.pc { t with addr := 0 }))) ∧
    (LaneReady .vpref f ownLane s c →
      let i := laneIssue .vpref f ownLane c
      exec (.vpref f) s = .next ((i.lanes.foldl i.prefetch s).put i.g (i.count (s.core c.g.core).cycle).h (c.f.advance 3)) ∧
        ∀ l, let t := i.prefetch s l
          t = { s with xl := { s.xl with cbad := t.xl.cbad }, caches := t.caches, waking := t.waking, free := t.free })) ∧
  (∀ (s : State) (c : Ctx) (f : Lane), c.Quiet →
    let bytes := fun (i : Issue) (l : Nat) => match f.mod.toNat % 4 with
      | 0 => Bits.toBytes 8 (i.read i.t f.b l)
      | 1 => Bits.toBytes (Types.width i.t / 8) (i.read i.t f.b l)
      | _ => Bits.toBytes 8 (i.readGroup f.b 0 l) ++ Bits.toBytes 8 (i.readGroup f.b 1 l)
    (LaneReady .vst f ownLane s c →
      let i := laneIssue .vst f ownLane c
      let n := i.accessSize
      let at' := fun (l : Nat) => s.checkGlobal c.g.who .store (i.addr l) n
      let r := i.checkLanes i.workers (fun va => s.checkGlobal c.g.who .store va n)
      let stores := i.workers.filterMap fun l => match at' l with | .ok (pa, _) => some (pa, bytes i l) | .error _ => none
      ((∀ l ∈ i.workers, ∃ x, at' l = .ok x) → ∃ t o, exec (.vst f) s = .next t ∧ Started s t c f o ∧ o.wait = .time ∧ o.dests = [] ∧
        (s.mem.wf = true →
          (∀ q, (∀ x ∈ stores, q < x.1 ∨ x.1 + x.2.length ≤ q) → t.mem.read q = s.mem.read q) ∧
          (∀ a x b, stores = a ++ x :: b → regionOf x.1 ≠ .control → ∀ k, k < x.2.length →
            (∀ y ∈ b, x.1 + k < y.1 ∨ y.1 + y.2.length ≤ x.1 + k) → t.mem.read (x.1 + k) = x.2.getD k 0))) ∧
      (∀ t, laneFault .store r.2 = some t →
        exec (.vst f) s = .next ((i.noteWalks s i.workers).takeTrap i.g i.h c.f c.f.pc t))) ∧
    (LaneReady .vsts f ownLane s c →
      let i := laneIssue .vsts f ownLane c
      let n := i.accessSize
      ((∀ l ∈ i.workers, i.addr l % n = 0 ∧ i.addr l + n ≤ c.g.kernel.scrg * 4096) →
        ∃ t0 o, Started s t0 c f o ∧ t0.mem = s.mem ∧ o.wait = .time ∧ o.dests = [] ∧
          exec (.vsts f) s = .next (i.workers.foldl
            (fun u l => (u.spoke (some (c.g.gid, c.h.id)) c.g.core (c.g.window + i.addr l) (bytes i l)).touchScratch c.g.core
              (c.g.window + i.addr l) n) t0)) ∧
      (∀ t, laneFault .store (i.checkLanes i.workers (scratchOk c.g n)).2 = some t →
        exec (.vsts f) s = .next (s.takeTrap i.g i.h c.f c.f.pc { t with addr := 0 })))) ∧
  (∀ (k : Access) (fs : List (Nat × Nat × Nat × Nat)),
    (fs = [] → laneFault k fs = none) ∧
    (fs ≠ [] → ∃ t, laneFault k fs = some t ∧ t.owner = true ∧ t.akind = k.akind ∧ (∀ x ∈ fs, t.cause ≤ x.2.2.1) ∧
      (∃ x, fs.find? (fun x => x.2.2.1 == t.cause) = some x ∧ t.detail = x.2.2.2 ∧ t.addr = x.2.1 % 2 ^ 56) ∧
      (∀ l : Nat, l < 64 → (t.lanes.getLsbD l = true ↔ ∃ x ∈ fs, x.1 = l ∧ x.2.2.1 = t.cause))))

/-- Inside a window a load returns its value at once and marks what it read, RO lines apart; its lanes' registers are shadowed; and nothing held, and no
claim, changes; one that faults holds its fault, the first of the window standing. A store joins the hold queue as one entry, claims what it writes, and
changes no byte. A load on bytes that the window holds a store to, a
49th shadowed register, a 257th marked or claimed word of the scratchpad, and a 33rd held store wait (R365 to R367, R371, R372).
Which lines the ways of an L1 have room for is free (log 74). -/
def Obligations.WindowAccesses : Prop :=
  (∀ (s : State) (c : Ctx) (d a : SReg) (im : BitVec 12) (w : Window), s.ctx? = some c → c.h.window = some w → c.h.serialBlocked = false →
    Table.wf 0 c.h.s = true →
    let va := (c.h.readS a.val + im.signExtend 64).toNat
    let s1 := s.noteWalk c.g.who va
    let sa := c.g.window + va
    let words := (wordsOf sa 8 ++ w.smarks ++ w.sclaims).eraseDups
    let meets := fun (sc : Bool) (pa n : Nat) => ∃ b ∈ w.heldBytes, b.scratch = sc ∧ pa ≤ b.addr ∧ b.addr < pa + n
    let inside := va % 8 = 0 ∧ va + 8 ≤ c.g.kernel.scrg * 4096
    let waits := fun (t : State) (i : Instr) => exec i s = .next (t.put c.g c.h (c.f.hold .window))
    let loads := fun (i : Instr) (t : State) (w' : Window) (v : Nat) => ∃ c', exec i s = .next t ∧ t.ctx? = some c' ∧ c'.h.window = some w' ∧
      c'.f.pc = c.f.pc + 1 ∧ t.mem = s.mem ∧ c'.h.readS d.val = (if d.val = 0 then 0 else BitVec.ofNat 64 v) ∧ w'.held = w.held ∧
      w'.claims = w.claims ∧ w'.sclaims = w.sclaims ∧ w'.shadow = w.shadow ∧ w'.fault = w.fault
    (∀ pa attr, inAperture va = false → s.check c.g.who .load va 8 = .ok (pa, attr) →
      (isIO pa = true ∨ meets false pa 8 → waits s1 (.sld d a im)) ∧
      (isIO pa = false → ¬ meets false pa 8 → s1.ownPending c.g.gid c.h.id pa 8 = false →
        attr = 2 ∨ s1.noRoom c (attrLines attr pa 8) = none →
        ∃ t w', loads (.sld d a im) t w' (s1.loadN c.g.core attr pa 8) ∧ w'.smarks = w.smarks ∧
          (∀ l, l ∈ w'.marks ↔ l ∈ w.marks ∨ attr ≠ 2 ∧ l ∈ linesOf pa 8) ∧
          ∀ l, l ∈ w'.watched ↔ l ∈ w.watched ∨ attr = 1 ∧ l ∈ linesOf pa 8)) ∧
    (inside → (meets true sa 8 ∨ 256 < words.length → waits s (.slds d a im)) ∧
      (¬ meets true sa 8 → words.length ≤ 256 → ∃ t w', loads (.slds d a im) t w' ((s.core c.g.core).scratchN sa 8) ∧
        w'.marks = w.marks ∧ w'.watched = w.watched ∧ ∀ x, x ∈ w'.smarks ↔ x ∈ w.smarks ∨ x ∈ wordsOf sa 8)) ∧
    (inside → 32 ≤ w.held.length ∨ 256 < words.length → waits s (.ssts d a im)) ∧
    (¬ inside → ∃ t c' w', exec (.slds d a im) s = .next t ∧ t.ctx? = some c' ∧ c'.f.wait = .fault ∧ c'.f.pc = c.f.pc ∧ c'.h.window = some w' ∧
      w'.fault.isSome ∧ (w.fault.isSome → w'.fault = w.fault) ∧ w'.held = w.held ∧ c'.h.s = c.h.s ∧ t.mem = s.mem) ∧
    (32 ≤ w.held.length → ∀ pa attr, inAperture va = false → s.check c.g.who .store va 8 = .ok (pa, attr) → s1.storeWaits c attr pa 8 = none →
      waits s1 (.sst d a im))) ∧
  (∀ (s : State) (c : Ctx) (f : Lane) (w : Window), c.h.window = some w → c.h.serialBlocked = false →
    let meets := fun (sc : Bool) (pa n : Nat) => ∃ b ∈ w.heldBytes, b.scratch = sc ∧ pa ≤ b.addr ∧ b.addr < pa + n
    let inside := fun (i : Issue) (l : Nat) => i.addr l % i.accessSize = 0 ∧ i.addr l + i.accessSize ≤ c.g.kernel.scrg * 4096
    let words := fun (i : Issue) (ls : List Nat) => ((ls.flatMap fun l =>
      if inside i l then wordsOf (c.g.window + i.addr l) i.accessSize else []) ++ w.smarks ++ w.sclaims).eraseDups
    let waits := fun (t : State) (i : Instr) => exec i s = .next (t.put c.g c.h (c.f.hold .window))
    let starts := fun (i : Instr) (o : VOp) (t : State) (w' : Window) => ∃ c', exec i s = .next t ∧ Started s t c f o ∧ t.mem = s.mem ∧
      o.inWindow = true ∧ t.ctx? = some c' ∧ c'.h.window = some w' ∧ w'.fault = w.fault
    let loads := fun (i : Issue) (ins : Instr) (o : VOp) (t : State) (w' : Window) => starts ins o t w' ∧ o.wait = .time ∧ o.dests = i.loadDests ∧
      w'.held = w.held ∧ w'.claims = w.claims ∧ w'.sclaims = w.sclaims ∧ ∀ r, r ∈ w'.shadow ↔ r ∈ w.shadow ∨ r ∈ i.loadDests
    let stores := fun (ins : Instr) (x : Held) => ∃ o t w', starts ins o t w' ∧ o.wait = .bank 1 ∧ o.dests = [] ∧
      w'.held = w.held ++ [{ x with op := some o.id }] ∧ w'.marks = w.marks ∧ w'.smarks = w.smarks ∧ w'.shadow = w.shadow ∧
      (∀ k, k ∈ w'.claims ↔ k ∈ w.claims ∨ ∃ b ∈ x.bytes, b.scratch = false ∧ k = b.addr / 128) ∧
      (∀ k, k ∈ w'.sclaims ↔ k ∈ w.sclaims ∨ ∃ b ∈ x.bytes, b.scratch = true ∧ k = b.addr / 8)
    let faults := fun (ins : Instr) => ∃ t c' w', exec ins s = .next t ∧ t.ctx? = some c' ∧ c'.f.wait = .fault ∧ c'.f.pc = c.f.pc ∧
      c'.h.window = some w' ∧ w'.fault.isSome ∧ (w.fault.isSome → w'.fault = w.fault) ∧ w'.held = w.held ∧ c'.h.v = c.h.v ∧
      c'.h.ops = c.h.ops ∧ t.mem = s.mem
    let heldAt := fun (i : Issue) (sc : Bool) (pa l : Nat) =>
      (List.range (i.storeBytes l).length).map fun j => (⟨sc, pa + j, (i.storeBytes l).getD j 0⟩ : HeldByte)
    (LaneReady .vld f ownLane s c →
      let i := laneIssue .vld f ownLane c
      let n := i.accessSize
      let s1 := i.noteWalks s i.lanes
      let at' := fun (l : Nat) => s.checkGlobal c.g.who .load (i.addr l) n
      ((∃ l ∈ i.workers, ∃ e, at' l = .error e) → faults (.vld f)) ∧
      ((∀ l ∈ i.lanes, (∃ x, at' l = .ok x) ∨ i.isHelper l = true) →
      ((∃ l ∈ i.lanes, ∃ pa attr, at' l = .ok (pa, attr) ∧ meets false pa n) →
        ∃ wt, exec (.vld f) s = .next (s1.put c.g c.h (c.f.hold wt))) ∧
      (i.loadWaits s1 (i.checkLanes i.lanes fun va => s.checkGlobal c.g.who .load va n).1 n = none →
        (48 < (w.shadow ++ i.loadDests).eraseDups.length → waits s1 (.vld f)) ∧
        ((w.shadow ++ i.loadDests).eraseDups.length ≤ 48 → ∃ o t w', loads i (.vld f) o t w' ∧ w'.smarks = w.smarks ∧
          (∀ k, k ∈ w'.marks ↔ k ∈ w.marks ∨ ∃ l ∈ i.lanes, ∃ pa attr, at' l = .ok (pa, attr) ∧ attr ≠ 2 ∧ k ∈ linesOf pa n) ∧
          ∀ l ∈ i.lanes, ∀ pa attr, at' l = .ok (pa, attr) → ∀ x ∈ i.loadWrites l (s1.loadN c.g.core attr pa n), x ∈ o.writes.v)))) ∧
    (LaneReady .vlds f ownLane s c →
      let i := laneIssue .vlds f ownLane c
      let n := i.accessSize
      ((∃ l ∈ i.workers, ¬ inside i l) → faults (.vlds f)) ∧
      ((∀ l ∈ i.lanes, inside i l ∨ i.isHelper l = true) →
      let held := ∃ l ∈ i.lanes, inside i l ∧ meets true (c.g.window + i.addr l) n
      (held ∨ 256 < (words i i.lanes).length ∨ 48 < (w.shadow ++ i.loadDests).eraseDups.length → waits s (.vlds f)) ∧
      (¬ held → (words i i.lanes).length ≤ 256 → (w.shadow ++ i.loadDests).eraseDups.length ≤ 48 → ∃ o t w', loads i (.vlds f) o t w' ∧
        w'.marks = w.marks ∧
        (∀ k, k ∈ w'.smarks ↔ k ∈ w.smarks ∨ ∃ l ∈ i.lanes, inside i l ∧ k ∈ wordsOf (c.g.window + i.addr l) n) ∧
        ∀ l ∈ i.lanes, inside i l → ∀ x ∈ i.loadWrites l ((s.core c.g.core).scratchN (c.g.window + i.addr l) n), x ∈ o.writes.v))) ∧
    (LaneReady .vst f ownLane s c →
      let i := laneIssue .vst f ownLane c
      let n := i.accessSize
      let s1 := i.noteWalks s i.workers
      let at' := fun (l : Nat) => s.checkGlobal c.g.who .store (i.addr l) n
      (∀ l ∈ i.workers, ∃ x, at' l = .ok x) →
      i.storeWaits s1 (i.checkLanes i.workers fun va => s.checkGlobal c.g.who .store va n).1 n = none →
      (32 ≤ w.held.length → exec (.vst f) s = .next (s1.put i.g i.h (c.f.hold .window))) ∧
      (w.held.length < 32 → stores (.vst f) ⟨i.workers.flatMap fun l => match at' l with
        | .ok (pa, _) => heldAt i false pa l
        | .error _ => [], none⟩)) ∧
    (LaneReady .vsts f ownLane s c →
      let i := laneIssue .vsts f ownLane c
      (∀ l ∈ i.workers, inside i l) →
      (256 < (words i i.workers).length → waits s (.vsts f)) ∧
      ((words i i.workers).length ≤ 256 → 32 ≤ w.held.length → exec (.vsts f) s = .next (s.put i.g i.h (c.f.hold .window))) ∧
      ((words i i.workers).length ≤ 256 → w.held.length < 32 →
        stores (.vsts f) ⟨i.workers.flatMap fun l => heldAt i true (c.g.window + i.addr l) l, none⟩)))

/-- VATOM, VCAS and VFAR send one request a lane, in lane order, and change nothing else at issue; a bank performs a request whole, with the value the manual's tables
give, integer or float, plain, far, compared or ordered, and the old value as result, a gated one once it has woken; ordered contributions are applied in
index order (R254 to R256, R263, R271 to R275). The order of requests of one gang is a reading (log 15), the moment of each is free (log 4), and so is a
reading that the word waits for the gang's earlier accesses with no window open (DEDUCED, log 24). -/
def Obligations.AtomicResults : Prop :=
  (∀ (s : State) (c : Ctx) (f : Lane) (mk : Lane → Instr) (op : LOp), s.ctx? = some c →
    (mk, op) ∈ [(Instr.vatom, LOp.vatom), (.vcas, .vcas), (.vfar, .vfar)] →
    let i := laneIssue op f ownLane c
    let n := Types.width i.t / 8
    let at' := fun (l : Nat) => s.checkGlobal c.g.who .atomic (i.addr l) n
    let low := fun (o : Operand) (l : Nat) => i.read i.t o l % 2 ^ Types.width i.t
    let m := f.mod.toNat
    let what := fun (l : Nat) => match op with
      | .vatom => BankOp.atom m (low f.b l)
      | .vcas => .cas (low f.b l) (low f.c l)
      | _ =>
        if m = 3 then .farCas (low f.b l) (low f.c l) (pnum f.d)
        else if 8 ≤ m then .ordered (m - 8) (low f.b l) (i.read .n64 f.c l % 2 ^ 32) (i.read .n64 f.c l / 2 ^ 32)
        else .far m (low f.b l) (if m = 4 then low f.c l else 0)
    (c.h.window.isSome → exec (mk f) s = .next (s.put c.g c.h (c.f.hold .window))) ∧
    (c.h.window = none → c.h.accessPending = true → exec (mk f) s = .next (s.put c.g c.h (c.f.hold .access))) ∧
    (c.Quiet → LaneReady op f ownLane s c → ∀ t, laneFault .atomic (i.checkLanes i.workers fun va => s.checkGlobal c.g.who .atomic va n).2 = some t →
      exec (mk f) s = .next ((i.noteWalks s i.workers).takeTrap i.g i.h c.f c.f.pc t)) ∧
    (c.Quiet → LaneReady op f ownLane s c → (∀ l ∈ i.workers, ∃ x, at' l = .ok x) →
      ∃ t o reqs, exec (mk f) s = .next t ∧ Started s t c f o ∧ t.mem = s.mem ∧ t.bankQ = s.bankQ ++ reqs ∧
        reqs.map (fun r => r.lane) = i.workers ∧ o.wait = (if reqs = [] then .time else .bank reqs.length) ∧
        ∀ r ∈ reqs, r.gid = c.g.gid ∧ r.gang = c.h.id ∧ r.op = o.id ∧ r.ty = i.t ∧ r.fmtf = c.f.fmtf ∧ r.what = what r.lane ∧
          ∃ attr, at' r.lane = .ok (r.pa, attr))) ∧
  (∀ (s : State) (r : BankReq) (g : Group) (h : Gang), s.nextRequest = some r → s.isGated (bankOf r.pa) = false → s.mem.wf = true →
    (∀ e w, r.what ≠ .sync e w) → regionOf r.pa ≠ .control → s.group? r.gid = some g → g.gang? r.gang = some h →
    let n := Types.width r.ty / 8
    let w := Types.width r.ty
    let x := s.bytesN r.pa n
    let int := fun (y : Nat) => intOf r.ty y
    ∃ t g' h', exec .bankRequest s = .next t ∧ t.bankQ = s.bankQ.erase r ∧ t.group? r.gid = some g' ∧ g'.gang? r.gang = some h' ∧
      h'.ops.map (fun o => o.id) = h.ops.map (fun o => o.id) ∧ h'.v = h.v ∧ h'.p = h.p ∧ h'.s = h.s ∧
      (∀ q, q < r.pa ∨ r.pa + n ≤ q → t.mem.read q = s.mem.read q) ∧
      (s.memErrBits r.pa n ≠ 0 → t.mem = s.mem ∧ g'.errsum &&& MEME = MEME) ∧
      (s.memErrBits r.pa n = 0 →
        (∀ y fl, r.result x = some (y, fl) → t.mem.readN r.pa n = y % 2 ^ (8 * n)) ∧
        (r.result x = none → t.mem = s.mem) ∧
        (∀ o ∈ h.ops, o.id = r.op → ∃ o' ∈ h'.ops, o'.id = o.id ∧
          ∀ d, r.dest = some d → ((d, r.lane), BitVec.ofNat 64 x) ∈ o'.writes.v)) ∧
      (∀ op b, r.what = .atom op b → Types.isInt r.ty = true → r.result x = some (match op with
        | 0 => (x + b) % 2 ^ w
        | 1 => if int b < int x then b else x
        | 2 => if int x < int b then b else x
        | 3 => min x b
        | 4 => max x b
        | 5 => x &&& b
        | 6 => x ||| b
        | 7 => x ^^^ b
        | 8 => b
        | _ => if b ≤ x then 0 else x + 1, 0)) ∧
      (∀ b v, r.what = .cas b v → r.result x = if x = b then some (v, 0) else none) ∧
      (s.memErrBits r.pa n = 0 → ∀ o ∈ h.ops, o.id = r.op → ∃ o' ∈ h'.ops, o'.id = o.id ∧ ∀ b v p, r.what = .farCas b v p →
        (p, BitVec.ofNat 64 (2 ^ r.lane), if x = b then BitVec.ofNat 64 (2 ^ r.lane) else 0) ∈ o'.writes.p) ∧
      (s.memErrBits r.pa n = 0 → r.isFar = true → ∀ y fl, r.result x = some (y, fl) → h'.satf = h.satf ||| BitVec.ofNat 4 fl)) ∧
  (∀ (r : BankReq) (x : Nat),
    let w := Types.width r.ty
    let c := Num.ctlOf r.fmtf.toNat
    let value := Num.decodeFl c.flush r.ty
    let sum := fun (b : Nat) => Num.roundF c r.ty (Num.addE c.rm (value x) (value b))
    let int := fun (y : Nat) => intOf r.ty y
    let reduce := fun (form b : Nat) => match form with
      | 0 => if Types.isF r.ty then sum b else ((x + b) % 2 ^ w, 0)
      | 1 => (if Types.isF r.ty then Num.minMax c.flush false false r.ty x b else if int b < int x then b else x, 0)
      | _ => (if Types.isF r.ty then Num.minMax c.flush false true r.ty x b else if int x < int b then b else x, 0)
    (∀ op b, r.what = .atom op b → Types.isF r.ty = true →
      (op = 0 → r.result x = some (sum b)) ∧
      (op ∈ [1, 2, 3, 4] → r.result x = some (Num.minMax c.flush (decide (op ≤ 2)) (decide (op = 2 ∨ op = 4)) r.ty x b, 0)) ∧
      (op = 8 → r.result x = some (b, 0))) ∧
    (∀ form b v, r.what = .far form b v → form ∈ [0, 1, 2] → r.result x = some (reduce form b)) ∧
    (∀ b v, r.what = .far 4 b v → r.result x = some (if Types.isF r.ty then
      Num.roundF c r.ty (Num.fmaE c.rm (value x) (value b) (value v)) else ((x * b + v) % 2 ^ w, 0))) ∧
    (∀ b v p, r.what = .farCas b v p → r.result x = if x = b then some (v, 0) else none) ∧
    (∀ form b idx n, r.what = .ordered form b idx n → form ∈ [0, 1, 2] → r.result x = some (reduce form b))) ∧
  (∀ (s : State) (r : BankReq), s.mem.wf = true → regionOf r.pa ≠ .control → s.memErrBits r.pa (Types.width r.ty / 8) = 0 →
    ∀ y fl, r.result (s.bytesN r.pa (Types.width r.ty / 8)) = some (y, fl) →
      (s.perform r).mem.readN r.pa (Types.width r.ty / 8) = y % 2 ^ (8 * (Types.width r.ty / 8)) ∧
      ∀ q, q < r.pa ∨ r.pa + Types.width r.ty / 8 ≤ q → (s.perform r).mem.read q = s.mem.read q) ∧
  (∀ (s : State) (r : BankReq), s.nextRequest = some r → s.isGated (bankOf r.pa) = true → regionOf r.pa ≠ .control → regionOf r.pa ≠ .pcie →
    ∃ t d, exec .bankRequest s = .next t ∧ t = { s with waking := s.waking ++ [(bankOf r.pa, d)], free := t.free } ∧
      s.time ≤ d ∧ d ≤ s.time + 1500000 ∧ ∀ x, t.nextRequest = some x → bankOf x.pa ≠ bankOf r.pa) ∧
  (∀ (s : State) (st : StackId) (r : BankReq) (v : Vat), s.nextOrdered st = some r → s.isGated (bankOf r.pa) = false →
    ((s.vat st).arrive r = .waits v → exec (.orderedContribution st) s = .next (s.setVat st v)) ∧
    ((s.vat st).arrive r = .discards v →
      exec (.orderedContribution st) s = .next (((s.dropRequest r).setVat st v).bankDone r .none 0 ORDE)) ∧
    ((s.vat st).arrive r = .holds v →
      exec (.orderedContribution st) s = .next (((s.dropRequest r).setVat st v).applyOrdered st r.pa 66))) ∧
  (∀ (v : Vat) (r : BankReq) (e : OrdEntry) (form b idx n : Nat), r.what = .ordered form b idx n →
    (v.ordered.filter fun e => e.slice == homeSlice r.pa).find? (fun e => e.target == r.pa) = some e →
    let rest := v.ordered.filter (fun x => x.target != r.pa)
    (n ≠ e.count ∨ n ≤ idx ∨ idx < e.next → v.arrive r = .discards v) ∧
    (n = e.count → idx < n → e.next ≤ idx → (∀ x ∈ e.held, x.1 ≠ idx) → e.next + 64 ≤ idx → v.arrive r = .waits v) ∧
    (n = e.count → idx < n → e.next ≤ idx → (∀ x ∈ e.held, x.1 ≠ idx) → idx < e.next + 64 →
      ((v.ordered.filter fun e => e.slice == homeSlice r.pa).foldl (fun a x => a + x.held.length) 0) < 1024 →
      v.arrive r = .holds { v with ordered := { e with held := (idx, r) :: e.held } :: rest })) ∧
  (∀ (s : State) (st : StackId) (e : OrdEntry) (k : Nat), (s.vat st).ordered.find? (fun x => x.target == e.target) = some e →
    (∀ x ∈ e.held, x.1 ≠ e.next) →
    s.applyOrdered st e.target (k + 1) =
      if e.next = e.count then s.setVat st { s.vat st with ordered := (s.vat st).ordered.filter fun x => x.target != e.target } else s) ∧
  (∀ (s : State) (st : StackId) (e : OrdEntry) (k : Nat) (r : BankReq),
    (s.vat st).ordered.find? (fun x => x.target == e.target) = some e → e.held.find? (fun x => x.1 == e.next) = some (e.next, r) →
    s.applyOrdered st e.target (k + 1) = ((s.setVat st { s.vat st with ordered :=
      { e with next := e.next + 1, held := e.held.filter fun x => x.1 != e.next } :: (s.vat st).ordered.filter fun x => x.target != e.target }).perform
        r).applyOrdered st e.target k)

/-- EMIT sends a record of each active lane that is not a helper lane to the node its output names, and is outstanding until they have
entered that node's queue; a wrong output traps; records enter a queue in order as far as there is room (R80, R280). That it waits for the gang's earlier
accesses with no window open is a reading (DEDUCED, log 24). -/
def Obligations.EmitResults : Prop :=
  (∀ (s : State) (c : Ctx) (f : Lane), LaneReady .emit f ownLane s c →
    let i := laneIssue .emit f ownLane c
    let z := f.x24.toNat / 16 % 4
    let recs := i.workers.map (i.emitRecord z)
    (∀ n k, s.emitTarget i.g (f.x24.toNat % 16) z = .ok (n, k) →
      (recs = [] → ∃ t o, exec (.emit f) s = .next t ∧ Started s t c f o ∧ o.wait = .time ∧ t.recTiles = s.recTiles) ∧
      (recs ≠ [] → c.h.window = none → c.h.accessPending = true → exec (.emit f) s = .next (s.put c.g c.h (c.f.hold .access))) ∧
      (recs ≠ [] → c.h.window.isSome ∨ c.h.accessPending = false →
        ∃ t0 o, Started s t0 c f o ∧ o.wait = .emit ∧ t0.recTiles = s.recTiles ∧ exec (.emit f) s =
        .next (t0.emitRecords c.g.tref ⟨some (c.g.gid, c.h.id, s.idCount), n, k, recs, c.h.window.isSome⟩))) ∧
    (∀ d, s.emitTarget i.g (f.x24.toNat % 16) z = .error d → c.h.window = none →
      exec (.emit f) s = .next (s.takeTrap i.g i.h c.f c.f.pc (Trap.inGang 0x0C d (c.h.enabled c.f))))) ∧
  (∀ (r : RecTile) (p : Pass) (e : EmitWait), Table.wf [] r.queues = true →
    let room := nodeCap (p.node e.node) - (r.queue e.node).length
    let m := r.moveEmit p e
    ((m.1.queue e.node).map fun x => x.bytes) = ((r.queue e.node).map fun x => x.bytes) ++ ((e.recs.take room).map fun x => x.bytes) ∧
    (∀ k, k ≠ e.node → m.1.queue k = r.queue k) ∧ m.2 = { e with recs := e.recs.drop room })

/-! ## Queries, rays, samples and coverage (R336 to R340, R352 to R357) -/

/-- VRCQ, VTRACE, VSAMP, VSAMPL and VCOV issue, outstanding until their results land: radiance, and samples written to the training ring; rays into the unit of the core's
cluster, their words flushed where FLUSH is set; filtered texels, or the trap of a descriptor or a texel that cannot be read, of which a helper lane
takes none; what a lane's quad record holds of its pixel (R80, R106, R188, R336 to R340, R349, R352 to R357).
The moments of results are free (log 4). -/
def Obligations.QueryResults : Prop :=
  (∀ (s : State) (c : Ctx) (f : Lane), LaneReady .vrcq f ownLane s c → c.Quiet → s.nets.length = 4 →
    let i := c.issue .vrcq f
    let n := f.x24.toNat % 4
    let net := s.net n
    let d : Num.NetDesc := ⟨net.desc⟩
    let nmat := if net.en then d.nmat else 0
    let err := if i.badIn (i.netSources nmat) then REGE else i.errBits (sources .vrcq f i.t i.fmt) (ownLane i)
    let train := f.mod.getLsbD 0
    let asks := i.lanes.filter fun l => (i.h.readP (pnum f.c)).getLsbD l
    let trainers := if train then i.workers.filter fun l => (i.h.readP (f.x24.toNat / 16 % 16)).getLsbD l else []
    let pack := fun (w : Nat) (xs : List Nat) => xs.foldr (fun y a => y % 2 ^ w + 2 ^ w * a) 0
    let sample := fun (l : Nat) =>
      let x := i.netInputs d.nmat l
      pack 32 (x.1 ++ x.2.1) + 2 ^ 192 * pack 16 (x.2.2 ++ List.replicate (8 - d.nmat) 0 ++ (elems 16 (i.read .f16 f.b l)).take 3)
    (c.g.chk = true → i.stalledIn (s.core c.g.core).cycle none (i.netSources nmat) = none) →
    (net.en = true → Legal.vBelow (some c.h.vcount) f.a (3 + Bits.ceilDiv d.nmat 4) = true →
      ∃ t o c', exec (.vrcq f) s = .next t ∧ Started s t c f o ∧ o.wait = .time ∧ o.dests = [vnum f.d] ∧ o.writes.p = [] ∧ o.writes.s = [] ∧
        o.lanes = BitVec.ofNat 64 (Bits.maskOf asks) ∧
        o.writes.v = asks.map (fun l =>
          let x := i.netInputs d.nmat l
          ((vnum f.d, l), BitVec.ofNat 64 (fromElems 16
            (d.radiance (s.netParam d (s.boundVersion c.g n)) x.1 x.2.1 x.2.2)))) ∧
        t.ctx? = some c' ∧ c'.g.errsum = c.g.errsum ||| err ∧
        (train = false → t.mem = s.mem) ∧
        (s.mem.wf = true → d.nmat ≤ 8 → ∀ k l, trainers[k]? = some l → net.fill + k < 65536 →
          t.mem.readN (d.rbase + 48 * ((net.tail + net.fill + k) % 65536)) 48 = sample l) ∧
        (s.mem.wf = true → ∀ q, q < d.rbase ∨ d.rbase + 48 * 65536 ≤ q → t.mem.read q = s.mem.read q) ∧
        (net.fill ≤ 65536 → (t.net n).fill = min 65536 (net.fill + trainers.length) ∧
          (t.net n).drops = if 65536 < net.fill + trainers.length
            then min (2 ^ 24 - 1) (net.drops + (net.fill + trainers.length - 65536)) else net.drops) ∧
        (t.net n).tail = net.tail) ∧
    (net.en = false → Legal.vBelow (some c.h.vcount) f.a 3 = true →
      exec (.vrcq f) s = .next (s.takeTrap (c.g.orErr err) i.h c.f c.f.pc (Trap.inGang 0x0B n (c.h.enabled c.f))))) ∧
  (∀ (s : State) (c : Ctx) (f : Lane), LaneReady .vtrace f ownLane s c → c.Quiet →
    let i := laneIssue .vtrace f ownLane c
    let d := vnum f.d
    ∃ t o rays, exec (.vtrace f) s = .next t ∧ Started s t c f o ∧ t.mem = s.mem ∧ o.dests = [d, d + 1, d + 2, d + 3] ∧ o.trace = true ∧
      o.wait = (if i.lanes = [] then .time else .rays i.lanes.length) ∧ t.rays = s.rays ++ rays ∧
      rays.map (fun y => y.lane) = i.lanes.map (fun l => some (c.g.gid, c.h.id, o.id, l, d)) ∧
      rays.map (fun y => y.bits) = i.lanes.map (fun l =>
        let bits := (List.range 6).foldr (fun k a => i.readGroup f.a k l + 2 ^ 64 * a) 0
        if i.ctl.flush then flushWords 8 bits else bits) ∧
      ∀ y ∈ rays, y.unit = c.g.core / 8 ∧ y.entered = s.nstime ∧ y.forced = false ∧ y.flush = i.ctl.flush) ∧
  (∀ n bits k : Nat, elem 32 (flushWords n bits) k =
    let x := elem 32 bits k
    if k < n ∧ x / 2 ^ 23 % 256 = 0 then x / 2 ^ 31 * 2 ^ 31 else x) ∧
  (∀ (s : State) (c : Ctx) (f : Lane) (mk : Lane → Instr) (op : LOp),
    (mk, op) ∈ [(Instr.vsamp, LOp.vsamp), (.vsampl, .vsampl)] → LaneReady op f ownLane s c → c.Quiet →
    let i := laneIssue op f ownLane c
    let va := (match f.b with | .s n => c.h.readS n.val | _ => 0).toNat
    let dests := if i.t = .f32 then [vnum f.d, vnum f.d + 1] else [vnum f.d]
    let starts := fun (t : State) (o : VOp) => exec (mk f) s = .next t ∧ Started s t c f o ∧ t.mem = s.mem ∧ o.wait = .time ∧ o.dests = dests ∧
      ∀ x ∈ o.writes.v, x.1.2 ∈ i.lanes ∧ x.1.1 ∈ dests
    (∀ e, s.checkGlobal c.g.who .load va 16 = .error e →
      (i.workers ≠ [] → exec (mk f) s = .next ((s.noteWalk c.g.who va).takeTrap i.g i.h c.f c.f.pc
        ⟨e.1, e.2, BitVec.ofNat 64 (Bits.maskOf i.workers), true, va % 2 ^ 56, 1⟩)) ∧
      (i.workers = [] → ∃ t o, starts t o ∧ ∀ l ∈ i.lanes, ∀ r ∈ dests, ((r, l), (0 : Word)) ∈ o.writes.v)) ∧
    (∀ pa attr, s.checkGlobal c.g.who .load va 16 = .ok (pa, attr) →
      let d : TexDesc := ⟨s.loadN c.g.core attr pa 16⟩
      let at' := fun (l : Nat) => d.sample s c.g.who c.g.core i.ctl.flush i.t
        (d.texels i.ctl.flush (f.mod.getLsbD 0) (i.texLevel d l) (i.read .f32 f.a l % 2 ^ 32) (i.read .f32 f.a l / 2 ^ 32))
      let faults := i.lanes.filterMap fun l => match at' l with
        | .error e => if i.isHelper l then none else some (l, e.2.2, e.1, e.2.1)
        | .ok _ => none
      (∀ tr, laneFault .load faults = some tr → ∃ u : State, exec (mk f) s = .next (u.takeTrap i.g i.h c.f c.f.pc tr) ∧
        u = { s with xl := { s.xl with cbad := u.xl.cbad }, caches := u.caches, waking := u.waking, free := u.free }) ∧
      (faults = [] → ∃ t o c', starts t o ∧ t.ctx? = some c' ∧
        (d.valid = false → c'.g.errsum &&& TEXE = TEXE ∧ ∀ l, at' l = .ok (nanChannels i.t, 0)) ∧
        (∀ l ∈ i.lanes, ∀ ws, at' l = .ok ws → ∀ x ∈ dests.zip ws.1, ((x.1, l), x.2) ∈ o.writes.v) ∧
        (∀ l ∈ i.lanes, ∀ e, at' l = .error e → ∀ r ∈ dests, ((r, l), (0 : Word)) ∈ o.writes.v) ∧
        o.writes.satf = BitVec.ofNat 4 (i.lanes.foldl (fun a l => a ||| match at' l with | .ok ws => ws.2 | .error _ => 0) 0)))) ∧
  (∀ (s : State) (c : Ctx) (f : Lane), LaneReady .vcov f ownLane s c → c.h.window = none →
    let i := laneIssue .vcov f ownLane c
    ∃ t o, exec (.vcov f) s = .next t ∧ Started s t c f o ∧ t.mem = s.mem ∧ o.wait = .time ∧ o.dests = [vnum f.d] ∧
      o.writes = ⟨i.lanes.map (fun l => ((vnum f.d, l), i.coverage l)), [], [], 0⟩ ∧
      (∀ l, (c.g.kernel.pix = false ∨ c.g.node = none ∨ Table.get [] c.h.records (l / 4) = []) → i.coverage l = 0) ∧
      ∀ l, c.g.kernel.pix = true → c.g.node.isSome → Table.get [] c.h.records (l / 4) ≠ [] →
        let bits := fun (hi lo : Nat) => Bits.ofBytes (Table.get [] c.h.records (l / 4)) / 2 ^ lo % 2 ^ (hi + 1 - lo)
        let b1 := bits (143 + 32 * (l % 4)) (128 + 32 * (l % 4))
        let b2 := bits (159 + 32 * (l % 4)) (144 + 32 * (l % 4))
        let f32 := fun (x : Nat) => (Num.roundF Num.rne .f32 (Num.decode .f16 x).pre).1
        i.coverage l = BitVec.ofNat 64 (if f.mod.getLsbD 0 then bits 99 96 + 16 * bits 103 100
          else if i.t = .f32 then f32 b1 + 2 ^ 32 * f32 b2 else b1 + 2 ^ 16 * b2))

/-! ## The matrix engine (R297 to R330, R408) -/

/-- A matrix word outside a window, with every earlier access performed: an illegal form, a pending source in a checking pass, a gang without the baton
and a bad descriptor trap in that order; else it becomes a macro-operation at the end of its core's queue, or waits at issue where the queue or the
staging is full (R308, R310 to R313, R322). The sequencer starts the macro-operation that is next, the one that runs takes its payloads and completes,
and the bus retrains for a while (R299, R300, R312, R328). That the word waits for the gang's earlier accesses with no window open is a reading (DEDUCED,
log 24). -/
def Obligations.MatrixIssueResults : Prop :=
  (∀ (s : State) (core : Nat), Table.wf Core.fresh s.cores = true →
    (∀ m, s.nextMacro core = some m → ∃ t, exec (.macroOpStart core) s = .next t ∧ t = { s with cores := t.cores } ∧
      ∀ x ∈ (t.core core).macros, x.op = m.op → x.running = true) ∧
    (∀ m, (s.core core).running? = some m →
      (∃ t, exec (.macroOpComplete core) s = .next t ∧ ∀ x ∈ (t.core core).macros, x.op ≠ m.op) ∧
      ∀ sends, ∃ t, exec (.slotPayloadReceive core sends) s = .next t ∧ t = { s with cores := t.cores }) ∧
    (s.retrains core = true → ∃ t, exec (.busRetrain core) s = .next t ∧ t = { s with cores := t.cores } ∧ (t.core core).retraining.isSome) ∧
    (∀ e, (s.core core).retraining = some e → e ≤ s.time →
      ∃ t, exec (.busRetrainEnd core) s = .next t ∧ t = { s with cores := t.cores } ∧ (t.core core).retraining = none)) ∧
  ∀ (s : State) (c : Ctx) (f : Lane) (mk : Lane → Instr) (op : LOp), (mk, op) ∈ matrixOps → s.ctx? = some c →
    Table.wf Core.fresh s.cores = true →
    let i := c.issue op f
    let k := s.core c.g.core
    let all := { i with active := c.h.lmask }
    let late := if c.g.chk then all.stalled k.cycle i.matSources (ownLane all) else none
    let traps := fun (t : Trap) => exec (mk f) s = .next (s.takeTrap c.g c.h c.f c.f.pc t)
    (c.h.window.isSome → exec (mk f) s = .next (s.put c.g c.h (c.f.hold .window))) ∧
    (c.h.window = none → c.h.accessPending = true → exec (mk f) s = .next (s.put c.g c.h (c.f.hold .access))) ∧
    (c.Quiet →
      (∀ d, i.matIllegal = some d → traps (Trap.inGang 0x01 d (c.h.enabled c.f))) ∧
      (i.matIllegal = none →
        (∀ bad, late = some bad → traps (Trap.inGang 0x02 0 bad)) ∧
        (late = none → k.baton ≠ some (c.g.gid, c.h.id) → traps (Trap.inGang 0x09 1 (c.h.enabled c.f))) ∧
        (late = none → k.baton = some (c.g.gid, c.h.id) →
          (∀ d, i.matError = some d → traps (Trap.inGang 0x0A d (c.h.enabled c.f))) ∧
          (∀ t, i.matError = none → i.postQuire s = .error t → exec (mk f) s = .next ((i.noteQuire s).takeTrap c.g c.h c.f c.f.pc t)) ∧
          (∀ post, i.matError = none → i.postQuire s = .ok post →
            let m := i.macroOp s.idCount post
            (k.macroRoom m.staged = true → ∃ t o, exec (mk f) s = .next t ∧ Started s t c f o ∧ t.mem = s.mem ∧ o.wait = .macroOp ∧
              (t.core c.g.core).macros = k.macros ++ [m] ∧ m.gid = c.g.gid ∧ m.gang = c.h.id ∧ m.op = o.id ∧ m.lop = op ∧
              m.running = false ∧ (t.core c.g.core).acc = k.acc ∧ (t.core c.g.core).scratch = k.scratch) ∧
            (k.macroRoom m.staged = false → exec (mk f) s = .next (s.put c.g c.h (c.f.hold (.matrix m.staged))))))))

/-- The macro-operations of a core run one at a time in acceptance order, none while the bus retrains; a completed one leaves its queue, and writes only what its kind
writes: MMA, MMA.S and MMA.CSR the old element, or +0, with its units applied in increasing k, MLDA the converted elements, MSTA the converted tile
rows to its window or its registers; a payload that four sends failed to deliver is marked; a retraining takes 2 µs, by which the macro-operation that
runs is put off (R299, R300, R312 to R321, R324 to R328, R408). The values are stated of a macro-operation that runs from its first step and meets no
uncorrectable word; each operand's stored rows are read as R314 and R316 lay them out.
That the effect comes at completion is a reading (log 28), as is which rows a payload carries (log 29), and that a TSCALE of 0xFF is NaN (DEDUCED, log 30). -/
def Obligations.MatrixEngineSteps : Prop :=
  (∀ (s : State) (core : Nat) (m : MacroOp), s.nextMacro core = some m →
    (∀ x ∈ (s.core core).macros, x.running = false) ∧ (s.core core).retraining = none ∧
    ∃ a b, (s.core core).macros = a ++ m :: b ∧ ∀ x ∈ a, x.byDescriptor = true ∧ ∃ g, s.group? x.gid = some g ∧ g.savePending.isSome) ∧
  (∀ (s : State) (core : Nat) (m : MacroOp), Table.wf Core.fresh s.cores = true → s.nextMacro core = some m →
    ∃ t due, exec (.macroOpStart core) s = .next t ∧ t = { s with cores := t.cores } ∧
      t.core core = { s.core core with
        macros := (s.core core).macros.map (fun (x : MacroOp) => if x.op = m.op then { x with running := true, due := due } else x) } ∧
      ∀ k, k ≠ core → t.core k = s.core k) ∧
  (∀ (s : State) (core : Nat), (s.core core).retraining.isSome → s.nextMacro core = none) ∧
  (∀ (s : State) (core : Nat) (m : MacroOp) (g : Group) (h : Gang), Table.wf Core.fresh s.cores = true → Table.wf 0 (s.core core).acc = true →
    (s.core core).retraining = none →
    (s.core core).macros.find? (fun m => m.running) = some m → s.group? m.gid = some g → g.gang? m.gang = some h →
    h.window = none → (m.lop = .mlda → rowOrigin m.fields + matRows m.fields ≤ 128) →
    let tile := match m.lop, m.fields.d with
      | .msta, _ => none
      | _, .acc n => some (g.tiles.getD n.val 0)
      | _, _ => some (g.tiles.getD 0 0)
    ∃ t g' h', exec (.macroOpComplete core) s = .next t ∧ t.group? m.gid = some g' ∧ g'.gang? m.gang = some h' ∧
      (t.core core).macros = (s.core core).macros.filter (fun x => x.op != m.op) ∧
      (∀ o ∈ h'.ops, o.id ≠ m.op) ∧ (∀ o ∈ h.ops, o.id ≠ m.op → o ∈ h'.ops) ∧
      (m.lop = .mzero → ∀ r c, c < 64 → r < 128 → Table.get 0 (t.core core).acc (accKey (g.tiles.getD (match m.fields.d with | .acc n => n.val | _ => 0) 0) r c) = 0) ∧
      (∀ k r c, tile ≠ some k → c < 64 → r < 128 → Table.get 0 (t.core core).acc (accKey k r c) = Table.get 0 (s.core core).acc (accKey k r c)) ∧
      (m.lop ≠ .msta ∨ (∃ n, m.fields.d = .v n) → (t.core core).scratch = (s.core core).scratch) ∧
      (s.mem.wf = true → ∀ q, (∀ p, m.post = some p → q < p.2 ∨ p.2 + 16 ≤ q) → t.mem.read q = s.mem.read q)) ∧
  (∀ (s : State) (core : Nat) (m : MacroOp) (g : Group) (h : Gang), Table.wf Core.fresh s.cores = true → Table.wf 0 (s.core core).acc = true →
    (s.core core).retraining = none → (s.core core).macros.find? (fun m => m.running) = some m → s.group? m.gid = some g →
    g.gang? m.gang = some h → h.window = none → m.step = 0 → m.poisoned = [] → m.errA = [] → m.errB = [] → (s.core core).accErr = [] →
    (s.core core).scratchErr = [] →
    let k := s.core core
    let ln := m.fields
    let ta := m.fields.ty
    let ctl := Num.ctlOf m.fmtf.toNat
    let dA : Descriptor := ⟨m.dscA.toNat⟩
    let dB : Descriptor := ⟨m.dscB.toNat⟩
    let tile := fun (o : Operand) => g.tiles.getD (match o with | .acc n => n.val | _ => 0) 0
    let isReg := fun (o : Operand) => match o with | .v _ => true | _ => false
    let src := fun (regs : Bool) (data : List Byte) (d : Descriptor) => if regs then OperandSrc.staged data [] else .window g.window d
    let sc := ln.mod.getLsbD 1
    let ts := ln.x24.toNat / 256 % 256
    let whole := fun (t : TyCode) => t = .i32 ∨ t = .f32 ∧ sc = false
    ∃ t, exec (.macroOpComplete core) s = .next t ∧
      (m.lop ∈ [LOp.mma, .mmaS, .mmaCsr] → ∀ r c, r < matRows ln → c < matCols ln →
        let regs := m.lop == .mma
        let ke := kElems ta m.tb
        let us := unitSize ta m.tb
        let lA := stepLayout regs (!regs && dA.tr) ta (matRows ln) ke
        let lB := stepLayout regs (m.lop == .mmaS && dB.tr) m.tb (matCols ln) ke
        let csr := fun (ks e : Nat) => csrRow k g.window (g.kernel.scrg * 4096) ⟨m.dscB.toNat⟩ (Types.width m.tb / 8) (matCols ln) (ks * ke + e)
        let a := fun (ks u : Nat) => operandUnit (src regs m.dataA dA) k lA ta us ke ks r u
        let b := fun (ks u : Nat) =>
          if m.lop ≠ .mmaCsr then operandUnit (src regs m.dataB dB) k lB m.tb us ke ks c u
          else if ∃ e < ke, csr ks e = .malformed then deliver m.tb (List.replicate us 0) 127 0 fun _ => true
          else deliver m.tb ((List.range us).map fun j => (((csr ks (u * us + j)).at? c).map fun e => e.val).getD 0) 127 0 fun _ => false
        let applied := fun (acc ks u : Nat) =>
          if Types.isInt ta then (Num.applyUnitInt ctl acc ((a ks u).ints.zip (b ks u).ints)).1
          else (Num.applyUnit ctl acc ((a ks u).xs.zip (b ks u).xs) (a ks u).scale (b ks u).scale).1
        let old := if ln.mod.getLsbD 0 then 0 else (Table.get 0 k.acc (accKey (tile ln.d) r c)).toNat
        Table.get 0 (t.core core).acc (accKey (tile ln.d) r c) = BitVec.ofNat 32 ((List.range (matSteps m.lop ln)).foldl
          (fun acc ks => (List.range (ke / us)).foldl (fun acc u => applied acc ks u) acc % 2 ^ 32) old)) ∧
      (m.lop = .mlda → rowOrigin ln + matRows ln ≤ 128 →
        let regs := isReg ln.a
        let l := tileLayout regs (!regs && dA.tr) ta (matRows ln)
        (Types.isX ta = true → l.tr = false) → ∀ r c, r < matRows ln → c < 64 →
        let o := src regs m.dataA dA
        let code := fun (c : Nat) => if l.tr then elem l.w (o.row k l 0 c).bits r else elem l.w (o.row k l 0 r).bits c
        let scale := (o.scale k l 0 (2 * r + c / 32)).1
        let block := (blockExact ta ((List.range 32).map fun e => code (32 * (c / 32) + e)) scale).1
        let rounded := fun (p : Num.Pre) => (Num.roundF ctl .f32 p).1
        let scaled := fun (x : Num.Exact) (e : Nat) => if e = 255 then Num.Pre.nan false else (x.scale ((e : Int) - 127)).pre
        Table.get 0 (t.core core).acc (accKey (tile ln.d) (rowOrigin ln + r) c) = BitVec.ofNat 32 (
          if whole ta then code c
          else if Types.isX ta then rounded (scaled (block.getD (c % 32) (.fin false 0 0)) scale)
          else if sc then rounded (scaled (Num.decodeFl ctl.flush ta (code c)) ts)
          else rounded (Num.decodeFl ctl.flush ta (code c)).pre)) ∧
      (m.lop = .msta →
        let regs := isReg ln.d
        let l := tileLayout regs (!regs && dA.tr) ta (matRows ln)
        let cs : Num.Ctl := { ctl with sat := ctl.sat || ln.mod.getLsbD 0 }
        let x := fun (r c : Nat) => (Table.get 0 k.acc (accKey (tile ln.a) (rowOrigin ln + r) c)).toNat
        let value := fun (r c : Nat) => Num.decodeFl ctl.flush .f32 (x r c)
        let block := fun (r b : Nat) =>
          let es := (List.range 32).map fun e => value r (32 * b + e)
          Num.encodeBlock cs ta es (Num.chooseScale ta es)
        let code := fun (r c : Nat) =>
          if whole ta then x r c
          else (Num.roundF cs ta (if !sc then (value r c).pre else if ts = 255 then .nan false else ((value r c).scale (127 - (ts : Int))).pre)).1
        let row := fun (x : Nat) => Bits.toBytes l.rowBytes (fromElems l.w (
          if l.tr then (List.range (matRows ln)).map fun r => code r x
          else if Types.isX ta then (block x 0).1 ++ (block x 1).1 else (List.range 64).map (code x)))
        let scales := if Types.isX ta then (List.range (2 * matRows ln)).map fun j => BitVec.ofNat 8 (block (j / 2) (j % 2)).2.1 else []
        (Types.isX ta = true → l.tr = false) →
        (∀ base, ln.d = .v base → (∃ o ∈ h.ops, o.id = m.op) → Table.wf 0 h.v = true →
          let data := (List.range l.rows).flatMap row ++ scales
          ∃ g' h', t.group? m.gid = some g' ∧ g'.gang? m.gang = some h' ∧ ∀ i, i < Bits.ceilDiv data.length 8 →
            i % h.width < 64 → h.lmask.getLsbD (i % h.width) = true →
            h'.readV (base.val + i / h.width) (i % h.width) = BitVec.ofNat 64 (Bits.ofBytes ((data.drop (8 * i)).take 8))) ∧
        (regs = false → Table.wf 0 k.scratch = true →
          let isWord := fun (x q : Nat) => x < l.rows ∧ q < l.rowBytes / 8
          (∀ x q y p, isWord x q → isWord y p → (x, q) ≠ (y, p) →
            dA.offset 0 x (8 * q) + 8 ≤ dA.offset 0 y (8 * p) ∨ dA.offset 0 y (8 * p) + 8 ≤ dA.offset 0 x (8 * q)) →
          (∀ x q j, isWord x q → j < scales.length →
            dA.scaleOffset l 0 j < dA.offset 0 x (8 * q) ∨ dA.offset 0 x (8 * q) + 8 ≤ dA.scaleOffset l 0 j) →
          (∀ x q j, isWord x q → j < 8 → Table.get 0 (t.core core).scratch (g.window + dA.offset 0 x (8 * q) + j) = (row x).getD (8 * q + j) 0) ∧
          (∀ j, j < scales.length → Table.get 0 (t.core core).scratch (g.window + dA.scaleOffset l 0 j) = scales.getD j 0) ∧
          (∀ a, (∀ x q, isWord x q → a < g.window + dA.offset 0 x (8 * q) ∨ g.window + dA.offset 0 x (8 * q) + 8 ≤ a) →
            (∀ j, j < scales.length → a ≠ g.window + dA.scaleOffset l 0 j) →
            Table.get 0 (t.core core).scratch a = Table.get 0 k.scratch a)))) ∧
  (∀ (d : Descriptor) (ks x q : Nat), d.offset ks x q = (d.bits % 2 ^ 20 + ks * (d.bits / 2 ^ 36 % 2 ^ 20) + x * (d.bits / 2 ^ 20 % 2 ^ 16) + q) ^^^
    (x >>> (d.bits / 2 ^ 56 % 4) &&& ((2 ^ (d.bits / 2 ^ 58 % 4)) - 1)) <<< 6) ∧
  (∀ (s : State) (core sends : Nat), Table.wf Core.fresh s.cores = true →
    let k := s.core core
    (k.retraining = none → (∃ m ∈ k.macros, m.running = true) → ∃ t, exec (.slotPayloadReceive core sends) s = .next t ∧ t = { s with cores := t.cores } ∧
      (∀ j, j ≠ core → t.core j = s.core j) ∧ t.core core = { k with macros := k.macros.map (fun (m : MacroOp) => if m.running then
        { m with payloads := m.payloads + 1, poisoned := if 4 ≤ sends then m.poisoned ++ [m.payloads] else m.poisoned } else m) }) ∧
    (k.retraining = none → k.retrainDue ≤ s.time → ((∀ m ∈ k.macros, m.running = false) ∧ s.waitsForBus core = false ∨
        k.retrainDue + 5000000000 ≤ s.time) →
      ∃ t, exec (.busRetrain core) s = .next t ∧ t = { s with cores := t.cores } ∧ (∀ j, j ≠ core → t.core j = s.core j) ∧
        t.core core = { k with
          retraining := some (s.time + 2000000), retrainDue := s.time + 100000000000,
          macros := k.macros.map fun (m : MacroOp) => if m.running then { m with due := m.due + 2000000 } else m }) ∧
    (∀ e, k.retraining = some e → e ≤ s.time → ∃ t, exec (.busRetrainEnd core) s = .next t ∧ t = { s with cores := t.cores } ∧
      (∀ j, j ≠ core → t.core j = s.core j) ∧ t.core core = { k with retraining := none }))

/-! ## Results that land, and speculation windows (R106, R140, R365 to R371) -/

/-- A variable-latency result lands in lanes that have not exited and is outstanding no more; a window closes when every earlier access has performed: it commits its
held stores in queue order, to memory and to the scratchpad; or, where it holds a fault, the gang is back at its checkpoint, in serial mode up to the
instruction that held the fault, and nothing is stored; an access of another agent to what a window has claimed, or a write to what it has marked, rolls
the gang back to its checkpoint; serial mode that counts accesses ends when all have performed (R106, R163, R192, R365 to R371).
That lanes land together is a reading (log 21), as is the length of serial mode (logs 25 and 92). -/
def Obligations.LandingAndWindows : Prop :=
  (∀ (s : State) (gid gang op : Nat) (g : Group) (h : Gang) (o : VOp), s.group? gid = some g → g.gang? gang = some h →
    h.ops.find? (fun o => o.id == op) = some o → o.wait = .time → (g.place = .resident ∨ g.place = .exited) →
    ∃ t g' h', exec (.varResultLand gid gang op) s = .next t ∧ t.group? gid = some g' ∧ g'.gang? gang = some h' ∧
      h'.ops = h.ops.filter (fun x => x.id != o.id) ∧ h'.v = (h.apply o.writes).v ∧ h'.p = (h.apply o.writes).p ∧
      h'.s = (h.apply o.writes).s ∧ h'.satf = h.satf ||| o.writes.satf ∧ h'.c = h.c ∧ h'.lmask = h.lmask ∧
      (∀ w, h.window = some w → ∃ w', h'.window = some w' ∧
        w'.check = if o.inWindow then w.check else w.check.apply o.writes) ∧
      t.mem = s.mem ∧ (∀ id, id ≠ gang → g'.gang? id = g.gang? id) ∧ ∀ k, k ≠ gid → t.group? k = s.group? k) ∧
  (∀ (s : State) (gid gang : Nat) (g : Group) (h : Gang) (w : Window), s.group? gid = some g → g.gang? gang = some h → h.window = some w →
    h.earlierDone w = true →
    (w.fault = none → ∃ t, exec (.windowCommit gid gang) s = .next t ∧
      (w.held = [] → t.mem = s.mem) ∧
      (∀ (g' : Group) (h' : Gang), t.group? gid = some g' → g'.gang? gang = some h' →
        h'.window = none ∧ h'.s = h.s ∧ h'.v = h.v ∧ h'.p = h.p ∧ h'.lmask = h.lmask ∧ h'.rolls = 0 ∧
        ((∀ e ∈ s.launches, e.tentative = none ∨ e.tentative = some (gid, gang)) → h'.c = h.c)) ∧
      (s.mem.wf = true → ∀ q, t.mem.read q = ((w.heldBytes.reverse.find? fun b => b.scratch == false && b.addr == q).map fun b => b.val).getD
        (s.mem.read q)) ∧
      (Table.wf Core.fresh s.cores = true → Table.wf 0 (s.core g.core).scratch = true → ∀ q, Table.get 0 (t.core g.core).scratch q =
        ((w.heldBytes.reverse.find? fun b => b.scratch == true && b.addr == q).map fun b => b.val).getD
          (Table.get 0 (s.core g.core).scratch q))) ∧
    (∀ x, w.fault = some x → ∃ t g' h', exec (.heldFaultResolve gid gang) s = .next t ∧ t.mem = s.mem ∧ t.cores = s.cores ∧
      t.group? gid = some g' ∧ g'.gang? gang = some h' ∧ h'.window = none ∧ h'.serial = some (.upTo x) ∧
      h'.s = w.check.s ∧ h'.p = w.check.p ∧ h'.v = w.check.v ∧ h'.lmask = w.check.lmask ∧ h'.satf = w.check.satf ∧
      h'.ckrb = h.ckrb + 1 ∧ (∀ o ∈ h'.ops, o.inWindow = false) ∧ (∀ e ∈ t.launches, e.tentative ≠ some (gid, gang)) ∧
      ((∀ f ∈ w.check.frags, f.state ≠ .fuseWait) → h'.tokens = w.check.tokens ∧ h'.joins = w.check.joins ∧
        ((∀ e ∈ s.launches, e.tentative ≠ some (gid, gang)) → h'.frags = w.check.frags ∧ h'.c = w.check.c ∧ t.launches = s.launches)))) ∧
  (∀ (s : State) (agent : Option (Nat × Nat)) (pa n gid gang : Nat) (write : Bool) (g : Group) (h : Gang) (w : Window),
    s.group? gid = some g → g.gang? gang = some h → h.window = some w → agent ≠ some (gid, gang) → (s.groups.map fun g => g.gid).Nodup →
    (g.gangs.map fun h => h.id).Nodup → (∃ l ∈ linesOf pa n, l ∈ w.claims ∨ write = true ∧ l ∈ w.marks) →
    ∃ g' h', (s.conflict agent pa n write).group? gid = some g' ∧ g'.gang? gang = some h' ∧ h'.window = none ∧
      h'.s = w.check.s ∧ h'.p = w.check.p ∧ h'.v = w.check.v ∧ h'.lmask = w.check.lmask ∧ h'.satf = w.check.satf ∧ h'.ckrb = h.ckrb + 1 ∧
      (∀ o ∈ h'.ops, o.inWindow = false) ∧ (∀ e ∈ (s.conflict agent pa n write).launches, e.tentative ≠ some (gid, gang)) ∧
      ((∀ f ∈ w.check.frags, f.state ≠ .fuseWait) → (∀ e ∈ s.launches, e.tentative = none) →
        h'.frags = w.check.frags ∧ h'.c = w.check.c)) ∧
  (∀ (s : State) (agent : Option (Nat × Nat)) (pa n : Nat) (write : Bool), s.NoConflict pa n write → s.conflict agent pa n write = s) ∧
  (∀ (s : State) (gid gang : Nat) (g : Group) (h : Gang), s.group? gid = some g → g.gang? gang = some h → h.serial = some (.count 0) →
    exec (.serialModeEnd gid gang) s = .next (s.setGroup (g.setGang { h with serial := none })))

/-! ## Ownership and writes of control space (R41, R43, R44) -/

/-- OWNCTL and the two timers: each command and event that R44's table lists for a state makes the transition listed, and every other command
leaves the machine as it was, as does any that would come from the PCIe port in root-complex mode (R3, R44).
That TARGET keeps the master last named once no give is pending is the model's choice (DESIGN CHOICE, log 95). -/
def Obligations.OwnershipTransitions : Prop :=
  (∀ (s : State) (t : Master), s.cfg.rootComplex = true →
    ∀ i ∈ [Instr.ownctlClaim 1, .ownctlGive 1 t, .ownctlAccept 1, .ownctlCancel 1], exec i s = .next s) ∧
  ∀ (s : State) (m t : Master), s.Sends m →
    let o := s.own
    let goes := fun (x : Owner) => (Host.Outcome.next { s with own := x } : Out)
    (o.state = .elect → exec (.ownctlClaim m) s = goes { o with claims := o.claims ||| (1#4 <<< m.val) }) ∧
    (o.state = .unowned → exec (.ownctlClaim m) s = goes { o with state := .owned, owner := m }) ∧
    (o.state = .owned ∨ o.state = .giving → exec (.ownctlClaim m) s = .next s) ∧
    (o.state = .owned → o.owner = m → t ≠ m →
      exec (.ownctlGive m t) s = goes { o with state := .giving, target := t, giveEnd := s.time + 1000000000000 }) ∧
    (o.state ≠ .owned ∨ o.owner ≠ m ∨ t = m → exec (.ownctlGive m t) s = .next s) ∧
    (o.state = .giving → o.target = m → exec (.ownctlAccept m) s = goes { o with state := .owned, owner := m }) ∧
    (o.state ≠ .giving ∨ o.target ≠ m → exec (.ownctlAccept m) s = .next s) ∧
    (o.state = .giving → o.owner = m → exec (.ownctlCancel m) s = goes { o with state := .owned }) ∧
    (o.state ≠ .giving ∨ o.owner ≠ m → exec (.ownctlCancel m) s = .next s) ∧
    (o.state = .owned ∨ o.state = .giving → s.cfg.force = true →
      exec (.ownctlForce 2) s = goes { o with state := .owned, owner := 2 }) ∧
    ((o.state ≠ .owned ∧ o.state ≠ .giving) ∨ s.cfg.force = false ∨ m ≠ 2 → exec (.ownctlForce m) s = .next s) ∧
    (o.state = .elect → o.windowEnd ≤ s.time →
      (o.claims = 0 → exec .electionWindowExpiry s = goes { o with state := .unowned }) ∧
      (o.claims.getLsbD m.val = true → (∀ k : Master, k < m → o.claims.getLsbD k.val = false) →
        exec .electionWindowExpiry s = goes { o with state := .owned, owner := m })) ∧
    (o.state = .giving → o.giveEnd ≤ s.time → exec .giveTimerExpiry s = goes { o with state := .owned })

/-- At most one master owns the device, the giver included; a write of control space by any other master, OWNCTL apart, has no effect but
to set that master's bit of NOWR; from the PCIe port nothing comes in root-complex mode (R3, R41, R44). -/
def Obligations.OnlyOwnerWrites : Prop :=
  (∀ (o : Owner) (m n : Master), o.isOwner m = true → o.isOwner n = true → m = n) ∧
  (∀ (o : Owner) (m : Master), o.isOwner m = true ↔ (o.state = .owned ∨ o.state = .giving) ∧ o.owner = m) ∧
  (∀ (s : State) (m : Master) (val : Word) (gh : BitVec 32) (st : StackId) (n : Fin 4) (off : Nat), s.own.isOwner m = false →
    let refused := fun (i : Instr) => exec i s = .next
      (if m = 1 ∧ s.cfg.rootComplex = true then s else { s with own := { s.own with nowr := s.own.nowr ||| (1#4 <<< m.val) } })
    refused (.gsubmitWrite m val) ∧ refused (.gxrelWrite m val) ∧ refused (.gresumeRetry m gh) ∧ refused (.gresumeDeliver m gh) ∧
    refused (.gresumeKill m gh) ∧ refused (.tlbinvRange m val) ∧ refused (.tlbinvAll m val) ∧ refused (.ordclrWrite m st val) ∧
    refused (.vatdirWrite m st val) ∧ refused (.gnetEnable m n val) ∧ refused (.gnetDisable m n val) ∧ refused (.svccmdUpdate m val) ∧
    refused (.svccmdSpareCore m val) ∧ refused (.svccmdRemapVatBank m val) ∧ refused (.svccmdRetrainChannel m val) ∧
    refused (.svccmdAttest m val) ∧ (off ≠ 0x010008 → refused (.registerWrite m off val)))

/-- REGISTER_WRITE by the owner: a register that can be written reads back what was written, as far as its fields reach, and a bit that is
cleared by writing 1 reads 0 where 1 was written and as before elsewhere; the device description ignores writes; memory, frames, groups
and cores stay (R43, R46, R243, R391, R414, R432, R433).
SVCADDR[63:52] is a reading (log 64). -/
def Obligations.RegisterWriteResults : Prop :=
  ∀ (s : State) (m : Master) (val : Word), s.Commands m →
    let keeps := fun (off : Nat) (mask : Word) => ∃ t, exec (.registerWrite m off val) s = .next t ∧
      t.readControl off = val &&& mask ∧ t.mem = s.mem ∧ t.frames = s.frames ∧ t.groups = s.groups ∧ t.cores = s.cores
    let clears := fun (off : Nat) (mask : Word) => ∃ t, exec (.registerWrite m off val) s = .next t ∧
      t.readControl off = s.readControl off &&& ~~~(val &&& mask) ∧ t.mem = s.mem ∧ t.frames = s.frames ∧ t.groups = s.groups ∧
      t.cores = s.cores
    clears 0x010000 0xF00000 ∧ (Bits.maskOf (s.frames.map fun f => f.slot) < 256 → s.frames.length < 256 → s.gu.queue.length < 16 → clears 0x010048 0xF00000) ∧
    keeps 0x010058 0xFFFF ∧ (Bits.field 12 0 val.toNat ≤ 4096 → Bits.field 28 16 val.toNat ≤ 4096 → keeps 0x010060 0x1FFF1FFF) ∧
    keeps 0x020000 0xFFFFFFFFFF001 ∧ clears 0x020010 0x6 ∧ keeps 0x050008 0xFFFF ∧ clears 0x050018 0x7 ∧ keeps 0x050048 0xFFFFFFFF ∧
    (Bits.field 25 16 val.toNat ≤ 1000 → keeps 0x050058 0x3FF00FF) ∧ clears 0x050060 0x6 ∧ keeps 0x060010 0xFFFFFFFFFFFC0 ∧
    (s.svc.code < 2 ^ 56 → clears 0x060008 0x2) ∧
    (s.handles = [] → Bits.field 4 1 val.toNat ≤ 9 → keeps 0x050000 0xFFFFFFFFFF01F) ∧
    (s.handles = [] → keeps 0x050020 0xFFFFFFF800FFF ∧ keeps 0x050028 0xFFFFFFF800FFF) ∧
    (s.handles ≠ [] → ∀ off ∈ [0x050000, 0x050020, 0x050028], exec (.registerWrite m off val) s = .next s) ∧
    (s.ev.waiting = [] → (s.ev.en = false ∨ s.ev.tail = s.ev.head) → Bits.field 4 1 val.toNat ≤ 10 → keeps 0x050040 0xFFFFFFFFFF01F) ∧
    (∀ off, off < 0x10000 → exec (.registerWrite m off val) s = .next s) ∧
    (∀ t : Master, val.toNat < 64 →
      (val.toNat % 16 = 1 → exec (.registerWrite m 0x010008 val) s = exec (.ownctlClaim m) s) ∧
      (val.toNat % 16 = 2 → val.toNat / 16 = t.val → exec (.registerWrite m 0x010008 val) s = exec (.ownctlGive m t) s) ∧
      (val.toNat % 16 = 0 ∨ 5 < val.toNat % 16 → exec (.registerWrite m 0x010008 val) s = .next s))

/-! ## Submission, admission and resuming (R37, R46 to R52, R393) -/

/-- GSUBMIT and admission: a malformed write sets SBAD, one beyond four queued sets SQOVF, any other is queued with the memory that describes its
frame; admission takes the oldest, sets AFLT where the header or the record's pages could not be reached, and otherwise makes the checks of R52 in order:
the first that fails decides STATUS, FKIND and FINDEX, with nothing in flight changed; with none, one new frame is in flight in the lowest free slot,
its promises and reservations made, and the cores drop their RO lines and fetched words; either way the acceptance record holds the decision, byte by
byte (R14, R24, R46, R47, R49 to R53, R56, R92, R247).
Which vat pages ring slots take is the model's choice (log 17), as is that the record's pages are translated as at the GSUBMIT write (log 114); the cycle of
the graph units is the model's reading (log 123). -/
def Obligations.SubmissionResults : Prop :=
  (∀ (s : State) (m : Master) (val : Word), s.Commands m →
    let bad := Bits.field 63 56 val.toNat ≠ 0 ∨ Bits.field 5 0 val.toNat ≠ 0 ∨ s.dev.unitbad.getLsbD 0 = true
    (bad → exec (.gsubmitWrite m val) s = .next { s with gu := { s.gu with sbad := true } }) ∧
    (¬ bad → 4 ≤ s.gu.queue.length → exec (.gsubmitWrite m val) s = .next { s with gu := { s.gu with sqovf := true } }) ∧
    (¬ bad → s.gu.queue.length < 4 → ∃ t x, exec (.gsubmitWrite m val) s = .next t ∧ t.gu = { s.gu with queue := s.gu.queue ++ [x] } ∧
      x.tsub = s.time / 1000 ∧ x.va = val.toNat ∧ x.mem = s.mem ∧ x.memErr = s.memErr ∧ x.xl = s.xl ∧ x.rings = s.rings ∧
      t = { s with gu := t.gu, idCount := s.idCount + 1, xl := { s.xl with cbad := t.xl.cbad }, caches := t.caches, waking := t.waking,
                   free := t.free })) ∧
  (∀ (s : State) (q : Submission) (rest : List Submission), s.gu.queue = q :: rest → s.loads 0 0 = false → s.loads 0 64 = false →
    let u := { s.gu with queue := rest }
    let v := q.view s
    let lost := exec .admission s = .next { s with gu := { u with aflt := true } }
    (v.graphRead q.va 64 = none → lost) ∧
    (∀ n, v.graphRead q.va 64 = some n →
      let h : GraphHeader := ⟨n⟩
      (v.pagesWritable h.accAddr h.accBytes = none → lost) ∧
      (∀ pages, v.pagesWritable h.accAddr h.accBytes = some pages →
        let d := v.describe h
        let s1 : State := { s with gu := u }
        let verdict : Option Refused := if 8 ≤ s.frames.length then some (15, 0, 0x20)
          else (h.failed.head?).or (d.refusal.or (d.check3.or ((d.check4 s1).or ((d.check5 s1).or (d.check6 s1)))))
        let plan := s1.allocateAll { d.frame with serial := s.frameCount } q.tsub (s.time / 1000 / 50000 + 1) h.npass 0 s.reserved []
        let head := fun (r : Refused) (slot : Nat) => Bits.toBytes 64 (s.time / 1000 * 2 ^ 320 + q.tsub * 2 ^ 256 + h.ftag.toNat * 2 ^ 192 +
          r.2.1 * 2 ^ 64 + r.1 * 2 ^ 48 + slot * 2 ^ 40 + r.2.2 * 2 ^ 16 + 1)
        let at' := fun (k : Nat) =>
          (pages.find? fun p => p.1 == (h.accAddr + k) / 65536).map fun p => p.2 + (h.accAddr + k) % 65536
        let plain := s.mem.wf = true ∧ (∀ k, k < h.accBytes → ∃ pa, at' k = some pa ∧ regionOf pa ≠ .control) ∧
          ∀ j k, j < k → k < h.accBytes → at' j ≠ at' k
        let holds := fun (t : State) (bs : List Byte) => plain → (∀ k pa, k < bs.length → at' k = some pa → t.mem.read pa = bs.getD k 0) ∧
          ∀ x, (∀ k, k < bs.length → at' k ≠ some x) → t.mem.read x = s.mem.read x
        let refuses := fun (r : Refused) => ∃ t, exec .admission s = .next t ∧ t.gu = u ∧ t.time = s.time ∧ t.frames = s.frames ∧
          t.rings = s.rings ∧ t.reserved = s.reserved ∧ t.frameCount = s.frameCount ∧ holds t (head r 0)
        (∀ r, verdict = some r → refuses r) ∧
        (∀ i, verdict = none → plan = .error i → refuses (1, i, 0x25)) ∧
        (∀ made last, verdict = none → plan = .ok (made, last) → ∃ t f, exec .admission s = .next t ∧ t.gu = { u with cycle := t.gu.cycle } ∧
          t.time = s.time ∧ t.frames = s.frames ++ [f] ∧ f.serial = s.frameCount ∧ t.frameCount = s.frameCount + 1 ∧
          f.slot < 8 ∧ (∀ x ∈ s.frames, x.slot ≠ f.slot) ∧ (∀ k, k < f.slot → ∃ x ∈ s.frames, x.slot = k) ∧ f.tsub = q.tsub ∧
          f.tacc = s.time / 1000 ∧ f.ftag = h.ftag ∧ f.passes.map (fun p => p.rcd) = d.frame.passes.map (fun p => p.rcd) ∧
          f.edges = d.frame.edges ∧ f.passes.length = h.npass ∧ t.rings = s.rings ++ d.rings s1 s.frameCount ∧
          t.reserved = s.reserved ++ made.drop s.reserved.length ∧ (∀ p ∈ f.passes, p.complete = false ∧ p.retired = 0) ∧
          (∀ i p, f.passes[i]? = some p → p.promised = d.frame.promised i ∧ p.lft = if d.frame.promised i = false then 2 ^ 64 - 1
            else (((last.find? fun x => x.1 == i).map fun x => x.2).getD 0 + 1) * 50000) ∧
          t.caches.icache = [] ∧ (∀ x ∈ t.caches.l1, x.attr ≠ 2) ∧
          holds t (head (15, 0, 0) f.slot ++ f.passes.flatMap fun p => Bits.toBytes 8 p.lft))))) ∧
  (∀ d : Described,
    let fails := d.headFails ++ d.passFails ++ d.resFails ++ d.edgeFails
    (d.refusal = none ↔ fails = []) ∧
    ∀ r, d.refusal = some r → r ∈ fails ∧ ∀ x ∈ fails, r.1 < x.1 ∨ r.1 = x.1 ∧ (r.2.1 < x.2.1 ∨ r.2.1 = x.2.1 ∧ r.2.2 ≤ x.2.2)) ∧
  (∀ (d : Described) (s : State),
    (∀ r, d.check3 = some r → ∃ j x, r = (2, j, 0x22) ∧ (j, x) ∈ d.graph.resources ∧ x.slots + x.ovfn < d.frame.depth j x.prod x.exported) ∧
    (d.check3 = none ↔ ∀ jx ∈ d.graph.resources, d.frame.depth jx.1 jx.2.prod jx.2.exported ≤ jx.2.slots + jx.2.ovfn) ∧
    (∀ r, d.check4 s = some r → ∃ j, r = (2, j, 0x21)) ∧ (∀ r, d.check5 s = some r → r = (15, 0, 0x23)) ∧
    ∀ r, d.check6 s = some r → ∃ j, r = (2, j, 0x24))

/-- GXREL and GRESUME by the owner: XMISS and RMISS where nothing has the window or the handle; retry makes a saved group ready for restore,
deliver makes it ready at its handler, and kill, or deliver without a handler, ends every lane of it with no store; an error of the control state (0x2C)
accepts only kill, of a group and of a tile; a handle is consumed by the first write that names it; a killed tile or failed copy runs again, or ends as
killed; an exported slot that GXREL leaves with no reader is freed (R31, R37, R393, R404, R441).
Deliver on a tile or a copy acts as kill by log 48. -/
def Obligations.ResumeResults : Prop :=
  (∀ (s : State) (m : Master) (val : Word), s.Commands m →
    let win := Bits.field 55 16 val.toNat
    let hit := fun (r : Ring) => r.exported = true ∧ r.winva.toNat / 65536 = win
    ((∀ r ∈ s.rings, ¬ hit r) → exec (.gxrelWrite m val) s = .next { s with gu := { s.gu with xmiss := true } }) ∧
    ((∃ r ∈ s.rings, hit r) → ∃ t, exec (.gxrelWrite m val) s = .next t ∧ t = { s with rings := t.rings } ∧
      (∀ r ∈ t.rings, hit r → ∀ sl ∈ r.held, sl.extra = false ∧ sl.readers ≠ 0) ∧
      ∀ r ∈ s.rings, ¬ hit r → (r.held ≠ [] ∨ ∃ f ∈ s.frames, f.serial = r.frame) → r ∈ t.rings)) ∧
  (∀ (s : State) (m : Master) (gh : BitVec 32), s.Commands m →
    let three := fun (p : Out → Prop) => p (exec (.gresumeRetry m gh) s) ∧ p (exec (.gresumeDeliver m gh) s) ∧ p (exec (.gresumeKill m gh) s)
    ((∀ x ∈ s.handles, x.gh ≠ gh.toNat) → three (fun o => o = .next { s with fq := { s.fq with rmiss := true } })) ∧
    (∀ x, s.handles.find? (fun x => x.gh == gh.toNat) = some x →
      three (fun o => ∃ t, o = .next t ∧ t.mem = s.mem ∧ ∀ y ∈ t.handles, y.gh ≠ gh.toNat) ∧
      (∀ g slot r, x.unit = 0 → s.groups.find? (fun g => g.handle == some x.gh) = some g → g.place = .saved slot r →
        let broken := ∃ h ∈ g.gangs, h.ctlErr = true ∨ h.trapped = true ∧ h.trapcause.cause = 0x2C
        let ready := fun (d : Bool) (o : Out) => ∃ t, o = .next t ∧
          t.group? g.gid = some { g with place := .saved slot true, handle := none, deliver := d }
        let killed := fun (o : Out) => ∃ t g', o = .next t ∧ t.group? g.gid = some g' ∧ g'.place = .exited ∧ g'.macros = [] ∧
          (∀ h ∈ g'.gangs, h.lmask = 0 ∧ h.frags = [] ∧ h.ops = []) ∧ ∀ c ∈ t.copies, c.gid = g.gid → c.orphan = true ∨ c.tpl.isSome
        (¬ broken → ready false (exec (.gresumeRetry m gh) s)) ∧
        (¬ broken → g.kernel.hndlr ≠ 0 → ready true (exec (.gresumeDeliver m gh) s)) ∧
        (broken ∨ g.kernel.hndlr = 0 → killed (exec (.gresumeDeliver m gh) s)) ∧
        (broken → killed (exec (.gresumeRetry m gh) s)) ∧ killed (exec (.gresumeKill m gh) s)) ∧
      (∀ a p, x.unit = 1 → s.passAt x.tref.slot x.tref.pass = some p → p.tiles[x.tref.tile]? = some a →
        let tile := fun (o : Out) (st : TileState) (k : Bool) => ∃ t b, o = .next t ∧ t.tileAt x.tref = some b ∧ b.state = st ∧
          (k = true → b.retiredAsKilled = true) ∧ (k = false → b.placed = 0) ∧ ∀ r ∈ t.recTiles, r.tref ≠ x.tref
        (x.killOnly = false → tile (exec (.gresumeRetry m gh) s) .released false) ∧
        (x.killOnly = true → tile (exec (.gresumeRetry m gh) s) .started true) ∧ tile (exec (.gresumeDeliver m gh) s) .started true ∧
        tile (exec (.gresumeKill m gh) s) .started true) ∧
      (∀ c, (x.unit = 2 ∨ x.unit = 3) → s.copies.find? (fun c => c.id == x.copy) = some c →
        (∃ t d, exec (.gresumeRetry m gh) s = .next t ∧ d ∈ t.copies ∧ d.id = c.id ∧ d.state = .queued ∧ d.word = c.word) ∧
        (∃ t, exec (.gresumeKill m gh) s = .next t ∧ ∀ d ∈ t.copies, d.id ≠ c.id))))

/-! ## Placement, recarving and the clock (R30, R57 to R59, R61, R62, R69, R72 to R79, R129 to R134, R347) -/

/-- A core takes a group only where everything it needs is there, and the choice among cores is R73's; the group starts resident with its lanes active, s1 the argument and every
other register zero, and window and tiles of another frame's read zero (R69, R72, R73, R76, R77, R79, R85, R304).
Which lanes count for a home partition is a reading (log 35); that a core which evicts for a saved group takes no other is the model's choice (log 117). -/
def Obligations.PlacementRules : Prop :=
  (∀ (s : State) (core w : Nat) (p : Spec), Table.wf Core.fresh s.cores = true → 0 < w → p.kernel.entry.toNat % 4 = 0 →
    let t := s.placeGroup core w p
    ∃ g, t.groups = s.groups ++ [g] ∧ g.gid = s.gidCount ∧ t.gidCount = s.gidCount + 1 ∧ t.mem = s.mem ∧ t.frames = s.frames ∧
      g.place = .resident ∧ g.core = core ∧ g.tref = p.tref ∧ g.groupId = p.groupId ∧ g.kernel = p.kernel ∧ g.errsum = 0 ∧ g.spare = 0 ∧
      g.gangs.length = max 1 ((p.lanes + w - 1) / w) ∧
      (∀ (k : Nat) (h : Gang), g.gangs[k]? = some h → h.id = k ∧ h.width = w ∧
        h.present = BitVec.ofNat 64 (2 ^ min w (p.lanes - k * w) - 1) ∧ h.lmask = h.present ∧ h.c = 0 ∧ h.satf = 0 ∧ h.fltmask = 0 ∧
        (∀ r l, h.readV r l = 0) ∧ (∀ r, r ≠ 0 → h.readP r = 0) ∧ h.readS 1 = BitVec.ofNat 64 p.arg ∧
        (∀ r, r ≠ 1 → h.readS r = 0) ∧ h.handler = none ∧ h.window = none ∧ h.ops = [] ∧ h.trapcause = ⟨false, false, 0, 0⟩ ∧
        ∃ f, h.frags = [f] ∧ f.state = .runnable ∧ f.fmask = h.present ∧ 4 * f.pc.toNat = p.kernel.entry.toNat ∧ f.fmtf.toNat = 0x294A ∧
          f.wait = .none) ∧
      (∀ i, i < p.kernel.scrg → Table.get 0 (s.core core).scratchHolder (g.window / 4096 + i) ≠ g.frame + 1 → p.records = [] →
        ∀ a, a / 4096 = g.window / 4096 + i → Table.get 0 (t.core core).scratch a = 0) ∧
      (∀ i ∈ g.tiles, Table.get 0 (s.core core).accHolder i ≠ g.frame + 1 → ∀ e, e / 8192 = i → Table.get 0 (t.core core).acc e = 0)) ∧
  (∀ (s : State) (core : Nat) (n : Need), s.canTake core n = true ↔
    (s.core core).scr = n.scr ∧ (s.core core).recarve = none ∧ (s.core core).draining = false ∧ (s.core core).claims = [] ∧
    (s.slotGangs core).length + n.gangs ≤ 64 ∧ (s.entriesUsed core).length + n.entries ≤ 128 ∧ n.bytes ≤ s.freePool core ∧
    (∃ o, s.freeWindow core n.scrg = some o) ∧ n.accs ≤ (s.freeTiles core).length) ∧
  (∀ (s : State) (st core : Nat) (n : Need), s.chooseCore st n = some core →
    96 * st ≤ core ∧ core < 96 * st + 96 ∧ s.canTake core n = true ∧
    s.evictingFor core = none ∧ ∀ c, 96 * st ≤ c → c < 96 * st + 96 → s.canTake c n = true → s.evictingFor c = none →
      s.freePool c ≤ s.freePool core ∧ (s.freePool c = s.freePool core → core ≤ c)) ∧
  (∀ (s : State) (core units o : Nat), s.freeWindow core units = some o → o % 4096 = 0 ∧ o + 4096 * units ≤ 65536 * (s.core core).scr ∧
    ∀ g ∈ s.residents core, o + 4096 * units ≤ g.window / 4096 * 4096 ∨ g.window / 4096 * 4096 + 4096 * g.kernel.scrg ≤ o ∨
      g.kernel.scrg = 0 ∨ units = 0) ∧
  (∀ (s : State) (st : Nat) (k : Kernel), k.wmin ≤ k.wmax → k.wmax ≤ 3 → k.gqm1 < 256 →
    ∃ w, s.gangWidth st k = 8 * 2 ^ w ∧ k.wmin ≤ w ∧ w ≤ 3 ∧ k.gqm1 + 1 ≤ 2 ^ (w + 1) * 32)

/-- A tile starts, a waiting group or a record-pass group is placed, a core is recarved: each of these steps does its work where a stack has it to do, and
stores nothing to memory (R30, R61, R62, R69, R74, R342, R347).
That a group which waits takes one recarve is a reading (log 20), as is the order in which launched groups go (log 33, log 36). -/
def Obligations.PlacementResults : Prop :=
  (∀ (s : State) (st : StackId) (r : TileRef), s.nextStart st.val = some r →
    ∃ t x, exec (.tileStart st) s = .next t ∧ t.mem = s.mem ∧ t.tileAt r = some x ∧ x.state = .started ∧
      (∀ p, s.passAt r.slot r.pass = some p → p.rcd.kind ≠ 5 → t.gidCount = s.gidCount + 1 ∧ x.placed = 1) ∧
      (∀ p, s.passAt r.slot r.pass = some p → p.rcd.kind = 5 → t.gidCount = s.gidCount ∧ x.engineDone = true ∧
        ∀ n, s.nets[p.rcd.kparam % 4]? = some n →
          t.nets[p.rcd.kparam % 4]? = some (if n.neww then { n with cur := !n.cur, neww := false } else n))) ∧
  (∀ (s : State) (st : StackId) (r : TileRef) (i c : Nat) (p : Spec), s.nextPlace st.val = some (.ofTile r i) → s.tileSpec r i = some p →
    s.chooseCore st.val (p.need (s.gangWidth st.val p.kernel)) = some c →
    exec (.groupPlace st) s = .next ((s.placeGroup c (s.gangWidth st.val p.kernel) p).updTile r fun x => { x with placed := x.placed + 1 })) ∧
  (∀ (s : State) (st : StackId) (e : LaunchEntry), s.nextPlace st.val = some (.ofEntry e) →
    ∃ t, exec (.groupPlace st) s = .next t ∧ t.mem = s.mem ∧ t.gidCount = s.gidCount + 1 ∧ e ∈ s.launches ∧ e.tentative = none ∧
      (e.placed + 1 = e.groups → ∃ more, t.launches = s.launches.filter (fun x => x.id != e.id) ++ more ∧ (∀ x ∈ more, x.placed = 0) ∧
        ((∀ g ∈ s.groups, ∀ h ∈ g.gangs, ∀ f ∈ h.frags, ∀ va b y k, f.wait ≠ .launch va b y k) → more = [])) ∧
      (e.placed + 1 ≠ e.groups →
        t.launches = s.launches.map (fun (x : LaunchEntry) => if x.id = e.id then { x with placed := x.placed + 1 } else x))) ∧
  (∀ (s : State) (slot pass tile node c : Nat) (r : RecTile) (p : Pass) (recs : List NodeRec) (sp : Spec),
    let tr : TileRef := ⟨slot, pass, tile⟩
    let pix := (p.nodeKernels.getD node none).any fun k => k.pix
    s.recTile? tr = some r → s.passAt slot pass = some p → s.groupRecords r p node = some recs →
    s.nodeSpec tr node (Table.get 0 r.launched node)
      (recs.map fun x => (x.bytes ++ List.replicate (16 * (nodeSize (p.node node) + 1) - x.bytes.length) 0))
      (if pix then helperMask recs else 0) = some sp →
    s.chooseCore (p.rcd.stackOf tile) (sp.need (s.gangWidth (p.rcd.stackOf tile) sp.kernel)) = some c →
    r.emits = [] → Table.wf [] r.queues = true →
    ∃ t r', exec (.nodeGroupLaunch slot pass tile node) s = .next t ∧ t.mem = s.mem ∧ t.gidCount = s.gidCount + 1 ∧
      t.recTile? tr = some r' ∧ r'.queue node = (r.queue node).drop recs.length ∧ ∀ n, n ≠ node → r'.queue n = r.queue n) ∧
  (∀ (s : State) (st : StackId) (c scr : Nat), Table.wf Core.fresh s.cores = true →
    s.recarveFor st.val [] ((s.waitingWork st.val).map fun x => x.2.2) = some (c, scr) →
    s.residents c = [] ∧ (s.core c).scr ≠ scr ∧ c / 96 = st.val ∧
    ∃ t due, exec (.recarve st) s = .next t ∧ t = { s with cores := t.cores, free := t.free, caches := t.caches } ∧
      (∀ x ∈ t.caches.l1, x.core ≠ c) ∧ (∀ k, k ≠ c → t.core k = s.core k) ∧
      t.core c = { s.core c with recarve := some (due, scr), scratch := [], scratchErr := [], scratchHolder := [] } ∧
      s.time ≤ due ∧ due ≤ s.time + 12000000) ∧
  (∀ (s : State) (core due scr : Nat), Table.wf Core.fresh s.cores = true → (s.core core).recarve = some (due, scr) → due ≤ s.time →
    ∃ t, exec (.recarveDone core) s = .next t ∧ t = { s with cores := t.cores } ∧ (∀ k, k ≠ core → t.core k = s.core k) ∧
      t.core core = { s.core core with scr := scr, recarve := none })

/-- The end of a core's cycle: the cycle count and the counter of the cycle's class grow by one, the next cycle begins a period of that class
later, the fixed-latency results due in the cycle are made, no other core and no byte of memory changes; and a tile that runs past its budget
is marked once, and its pass's promise lapses (R57, R58, R105, R129, R130, R134).
The phases of idle pairs are a reading (log 68). -/
def Obligations.CycleEnd : Prop :=
  (∀ (s : State) (core : Nat), core < 192 → Table.wf Core.fresh s.cores = true → s.groups.Pairwise (fun a b => a.gid ≠ b.gid) →
    let k := s.core core
    ∃ t, exec (.classPhaseChange core) s = .next t ∧ t.mem = s.mem ∧ t.time = max s.time (k.start + k.cycleLength) ∧
      (t.core core).cycle = k.cycle + 1 ∧ (t.core core).start = k.start + k.cycleLength ∧
      (t.core core).clscyc = k.clscyc.modify k.cycleClass (fun n => n + 1) ∧ (t.core core).scratch = k.scratch ∧
      (t.core core).acc = k.acc ∧ (∀ c, c ≠ core → t.core c = s.core c) ∧
      (∀ g ∈ s.groups, g.core ≠ core ∨ g.place ≠ .resident → t.group? g.gid = some g) ∧
      (∀ g ∈ s.groups, g.core = core → g.place = .resident → ∃ g', t.group? g.gid = some g' ∧ g'.gangs.length = g.gangs.length ∧
        ∀ (i : Nat) (h : Gang), g.gangs[i]? = some h → ∃ h' : Gang, g'.gangs[i]? = some h' ∧ h'.id = h.id ∧ h'.v = (h.settle (k.cycle + 1)).v ∧
          h'.s = (h.settle (k.cycle + 1)).s ∧ h'.p = (h.settle (k.cycle + 1)).p ∧ h'.satf = (h.settle (k.cycle + 1)).satf)) ∧
  (∀ k : Core, (∀ c ∈ k.stages, c.1 < k.cycle → k.cycle ≤ c.1 + 4 → c.2 ≤ k.cycleClass) ∧
    (k.cycleClass = 0 ∨ ∃ c ∈ k.stages, c.2 = k.cycleClass ∧ c.1 < k.cycle ∧ k.cycle ≤ c.1 + 4)) ∧
  (∀ (s : State) (slot pass tile : Nat) (p : Pass) (x : Tile), s.passAt slot pass = some p → p.tiles[tile]? = some x →
    x.state = .started → x.overrun = false → p.rcd.budget < s.tileMeter ⟨slot, pass, tile⟩ →
    ∃ t p' x', exec (.tileOverrun slot pass tile) s = .next t ∧ t = { s with frames := t.frames } ∧
      t.passAt slot pass = some p' ∧ p'.tiles[tile]? = some x' ∧ x' = { x with overrun := true } ∧
      p'.lapsedOwn = (p.lapsedOwn || p.promised))

/-! ## Copies (R281 to R294, R441) -/

/-- The engine's steps: a copy that runs again, and after those a blocked COPY, is taken when its channel has room, and a copy-pass tile where its channel has;
a copy whose template breaks a rule fails with that rule's status and its template's address and moves nothing, and one that faults fails with its
status; a completed one gives its SATF bits to its gang, or ends its tile's work, and leaves (R282, R285, R288 to R290, R293, R294, R441).
The order of the elements is the model's choice (log 18). -/
def Obligations.CopyResults : Prop :=
  ∀ (s : State) (engine ch : Nat),
    (∀ (c : Ctx) (word : Word), s.channelLoad engine ch < 4 → s.loads 1 (Machine.unitArg engine) = false →
      s.firstQueued engine ch = none → s.firstBlocked engine ch = some (c, word) →
      ∃ t x, exec (.copyAccept engine ch) s = .next t ∧ t.mem = s.mem ∧ t.copies = s.copies ++ [x] ∧ x.state = .waiting ∧
        x.word = word ∧ x.gid = c.g.gid ∧ x.gang = c.h.id ∧ x.batch = c.h.batch ∧ x.ch = ch ∧ x.tpl = none ∧ x.orphan = false) ∧
    (∀ c, s.channelLoad engine ch < 4 → s.loads 1 (Machine.unitArg engine) = false → s.firstQueued engine ch = some c →
      exec (.copyAccept engine ch) s = .next (s.setCopy { c with state := .waiting })) ∧
    (∀ c, s.nextCopy engine ch = some c →
      let failed := fun (t : State) (e : Nat × Nat × Nat) => ∃ x ∈ t.copies, x.id = c.id ∧ x.state = .failed e.1 e.2.1 e.2.2
      let template := (Run.mk s 0 0 []).template c
      (∀ e, template = .error e → ∃ t, exec (.copyRun engine ch) s = .next t ∧ t.mem = s.mem ∧ t.cores = s.cores ∧ failed t e) ∧
      (∀ r0 tp st, template = .ok (r0, tp) → c.badStatus tp (s.copyWindow c).2.2 = some st →
        1 ≤ st ∧ st ≤ 4 ∧ ∃ t, exec (.copyRun engine ch) s = .next t ∧ t.mem = s.mem ∧ t.cores = s.cores ∧ failed t (st, c.tplAddr, 7)) ∧
      (∀ r0 tp r e, template = .ok (r0, tp) → c.badStatus tp (s.copyWindow c).2.2 = none → r0.go c tp = .error (r, e) →
        ∃ t, exec (.copyRun engine ch) s = .next t ∧ t.mem = r.s.mem ∧ failed t e) ∧
      (∀ r0 tp r, template = .ok (r0, tp) → c.badStatus tp (s.copyWindow c).2.2 = none → r0.go c tp = .ok r →
        ∃ t x due, exec (.copyRun engine ch) s = .next t ∧ t.mem = r.s.mem ∧ x ∈ t.copies ∧ x.id = c.id ∧ x.state = .running due ∧
          x.satf = BitVec.ofNat 4 r.satf)) ∧
    (∀ (c : Copy) (due : Nat), c ∈ s.copies → c.engine = engine → c.ch = ch → c.state = .running due →
      s.copies.Pairwise (fun a b => a.id ≠ b.id ∧ ¬ (a.engine = b.engine ∧ a.ch = b.ch ∧ (∃ d, a.state = .running d) ∧ ∃ d, b.state = .running d)) →
      ∃ t, exec (.copyComplete engine ch) s = .next t ∧ t.mem = s.mem ∧ t.copies = s.copies.filter (fun x => x.id != c.id) ∧
        (∀ g h, c.tpl = none → s.gangOf? c.gid c.gang = some (g, h) →
          ∃ g' h', t.gangOf? c.gid c.gang = some (g', h') ∧ h'.satf = h.satf ||| c.satf) ∧
        (∀ x, c.tpl.isSome → s.tileAt c.tref = some x →
          ∃ x', t.tileAt c.tref = some x' ∧ x'.engineDone = true ∧ x'.satf = x.satf ||| c.satf)) ∧
    (∀ (st : StackId) (r : TileRef), s.nextCopyTile st.val = some r →
      let e := s.leastLoaded st.val
      s.channelLoad e.1 e.2 < 4 → s.loads 1 (Machine.unitArg e.1) = false →
      ∃ t x p, exec (.copyPassTile st) s = .next t ∧ t.mem = s.mem ∧ s.passAt r.slot r.pass = some p ∧ t.copies = s.copies ++ [x] ∧
        x.tref = r ∧ x.tpl = some (p.nodes.headD 0) ∧ x.state = .waiting ∧ x.engine = e.1 ∧ x.ch = e.2 ∧
        (t.tileAt r).any (fun y => y.state == .started) = true)

/-- What a copy moves: one element from global memory to global memory, of one type and without scaling, arrives as it was read, and no other byte
changes; beyond the edge of the source the destination takes zero; an element of another type is converted with the template's rounding and
saturation alone; a source coordinate is the origin's plus the box's, a destination coordinate the box's, with the first two exchanged under TR; each
address is its base, with 64·DOFF for the destination, plus its coordinates by its strides, and the blocks and scale bytes of an X destination lie in its
rows; element after element is written at its own address (R283, R284).
The order of the elements is the model's choice (log 18). -/
def Obligations.CopyMovesElement : Prop :=
  (∀ (s : State) (engine ch pd b : Nat) (c : Copy) (r0 r1 : Run) (tp : Template) (x : Option Nat), s.nextCopy engine ch = some c →
    (Run.mk s 0 0 []).template c = .ok (r0, tp) →
    c.badStatus tp (s.copyWindow c).2.2 = none → tp.count = 1 → Types.isX tp.dty = false → tp.dsp ≠ 1 → tp.ssp = 0 → s.mem.wf = true →
    let g := c.coords [0, 0, 0, 0, 0]
    let da := tp.destAddr c.doff [0, 0, 0, 0, 0]
    (tp.edge g = true → r0.element c tp [0, 0, 0, 0, 0] = .ok (r0, none)) ∧
    (∀ ps a, tp.edge g = false → r0.s.checkGlobal (r0.s.copyWho c) .copyRead (tp.sourceAddr g) tp.ssize = .ok (ps, a) →
      ∃ r, r0.element c tp [0, 0, 0, 0, 0] = .ok (r, some (s.readPhys ps tp.ssize))) ∧
    (r0.element c tp [0, 0, 0, 0, 0] = .ok (r1, x) → r1.s.checkGlobal (r1.s.copyWho c) .copyWrite da tp.dsize = .ok (pd, b) →
      regionOf pd ≠ .control →
      ∃ t, exec (.copyRun engine ch) s = .next t ∧
        (∀ k, k < tp.dsize → t.mem.read (pd + k) = BitVec.ofNat 8 ((tp.conv x).1 / 256 ^ k)) ∧
        ∀ q, q < pd ∨ pd + tp.dsize ≤ q → t.mem.read q = s.mem.read q) ∧
    (tp.dty = tp.sty → tp.scm = 0 → (tp.conv x).1 = x.getD 0)) ∧
  (∀ (tp : Template) (c0 c1 c2 : Int) (i0 i1 i2 i3 i4 : Nat),
    let g := Template.source c0 c1 c2 [i0, i1, i2, i3, i4]
    tp.sourceAddr g = Bits.wrap 64 ((tp.sbase : Int) + (c0 + i0) * (Types.width tp.sty / 8 : Nat) + (c1 + i1) * tp.sstr 1 + (c2 + i2) * tp.sstr 2 +
      i3 * tp.sstr 3 + i4 * tp.sstr 4) ∧
    (tp.edge g = true ↔ (tp.ext 0 ≠ 0 ∧ (c0 + i0 < 0 ∨ (tp.ext 0 : Int) ≤ c0 + i0)) ∨ (tp.ext 1 ≠ 0 ∧ (c1 + i1 < 0 ∨ (tp.ext 1 : Int) ≤ c1 + i1)) ∨
      (tp.ext 2 ≠ 0 ∧ (c2 + i2 < 0 ∨ (tp.ext 2 : Int) ≤ c2 + i2)))) ∧
  (∀ (tp : Template) (doff i0 i1 i2 i3 i4 : Nat),
    let j := tp.dest [i0, i1, i2, i3, i4]
    let j0 := if tp.tr then i1 else i0
    let j1 := if tp.tr then i0 else i1
    let row := ((tp.bits / 2 ^ 400 % 2 ^ 56 : Nat) : Int) + 64 * doff + j1 * tp.dstr 1 + i2 * tp.dstr 2 + i3 * tp.dstr 3 + i4 * tp.dstr 4
    let width := fun (d : Nat) => if tp.tr ∧ d ≤ 1 then tp.box (1 - d) else tp.box d
    j = [j0, j1, i2, i3, i4] ∧
    tp.destAddr doff j = Bits.wrap 64 (row + j0 * (Types.width tp.dty / 8 : Nat)) ∧
    (∀ k, tp.blockAddr doff j k = Bits.wrap 64 (row + k * 4 * (Types.width tp.dty : Nat)) ∧
      tp.scaleAddr doff j k = Bits.wrap 64 (((tp.bits / 2 ^ 400 % 2 ^ 56 : Nat) : Int) + 64 * doff + (tp.bits / 2 ^ 48 % 2 ^ 20 : Nat) +
        (j1 + width 1 * (i2 + width 2 * (i3 + width 3 * i4))) * (width 0 / 32 : Nat) + k)) ∧
    (∀ d, 1 ≤ d → d ≤ 4 → tp.dstr d = (BitVec.ofNat 20 (tp.bits / 2 ^ (176 + 20 * (d - 1)))).toInt)) ∧
  (∀ c : Copy, (c.tpl = none → c.doff = c.word.toNat / 2 ^ 42 % 2 ^ 14) ∧ (c.tpl.isSome → c.doff = 0)) ∧
  (∀ (r r1 r2 : Run) (c : Copy) (tp : Template) (n : Nat) (rest : List Nat) (x : Option Nat),
    let i := Template.coords tp.box n
    r.element c tp i = .ok (r1, x) →
    r1.write c (tp.dsp == 1) (tp.destAddr c.doff (tp.dest i)) (Bits.toBytes (Types.width tp.dty / 8) (tp.conv x).1) = .ok r2 →
    r.elements c tp (n :: rest) = ({ r2 with satf := r2.satf ||| (tp.conv x).2 } : Run).elements c tp rest) ∧
  (∀ (tp : Template) (n m : Nat), n < tp.count → m < tp.count → Template.coords tp.box n = Template.coords tp.box m → n = m)

/-! ## Translation control, ordered entries, direct pages, nets (R243, R244, R250, R276, R331, R332, R341) -/

/-- By the owner: TLBINV starts an invalidation, which takes what it covers from the TLBs and, with ROD, RO lines from the L1s, or, while one runs, is dropped
and says so; the invalidation ends once no access that it covers is still to perform; VATDIR moves the boundary of the direct pages, zeroing those it takes, but not while a frame is in flight or a lease held or over an enabled
net's memory; ORDCLR frees the entries in its 16 bytes and no others, with ORDE in each group it takes a contribution from (R243, R244, R247, R250,
R276, R332).
Which translation a TLB holds where it may hold several is free (log 16). -/
def Obligations.TranslationControl : Prop :=
  ∀ (s : State) (m : Master) (val : Word) (st : StackId), s.Commands m →
    let n := val.toNat
    let starts := fun (i : Instr) (v : Invalidation) => ∃ t, exec i s = .next t ∧ t.xl = { s.xl with inv := some v } ∧ t.mem = s.mem ∧
      (∀ e ∈ s.caches.tlb, e ∈ t.caches.tlb ↔ v.covers e.base e.size = false) ∧
      (∀ x ∈ s.caches.l1, x.attr ≠ 2 ∨ n.testBit 2 = false → x ∈ t.caches.l1)
    (s.xl.inv.isSome → ∀ i ∈ [Instr.tlbinvRange m val, .tlbinvAll m val], exec i s = .next { s with xl := { s.xl with dropped := true } }) ∧
    (s.xl.inv = none → starts (.tlbinvRange m val) ⟨Bits.field 55 16 n, Bits.field 15 4 n + 1, s.idCount⟩ ∧
      starts (.tlbinvAll m val) ⟨0, 2 ^ 40, s.idCount⟩ ∧
      (n.testBit 2 = true → ∃ t, exec (.tlbinvAll m val) s = .next t ∧ ∀ x ∈ t.caches.l1, x.attr ≠ 2)) ∧
    (∀ v, s.xl.inv = some v →
      (s.awaits v = true → exec .tlbinvDone s = .fault .absent) ∧
      ((∀ r ∈ s.bankQ, v.before ≤ r.op ∨ v.covers r.va r.size = false) →
        (∀ k ∈ s.cores, ∀ m ∈ k.2.macros, ∀ p, m.post = some p → v.before ≤ m.op ∨ v.covers p.1 16 = false) →
        (∀ g ∈ s.groups, ∀ m ∈ g.macros, ∀ p, m.post = some p → v.before ≤ m.op ∨ v.covers p.1 16 = false) →
        (∀ q ∈ s.gu.queue, v.before ≤ q.id ∨ v.covers q.record.1 q.record.2 = false) →
        (∀ e ∈ s.vat0.ordered ++ s.vat1.ordered, ∀ x ∈ e.held, v.before ≤ x.2.op ∨ v.covers x.2.va x.2.size = false) →
        (∀ g ∈ s.groups, ∀ h ∈ g.gangs, ∀ w : Window, h.window = some w → w.awaited = false) →
        exec .tlbinvDone s = .next { s with xl := { s.xl with inv := none } })) ∧
    (let v := s.vat st
     let dp := min 4096 (val.toNat % 8192)
     let other : StackId := 1 - st
     (s.frames ≠ [] ∨ v.leases ≠ [] ∨ (dp < v.dp ∧ s.uncovers st dp = true) → exec (.vatdirWrite m st val) s = .next s) ∧
     (s.frames = [] → v.leases = [] → (dp < v.dp → s.uncovers st dp = false) → s.mem.wf = true →
       ∃ t, exec (.vatdirWrite m st val) s = .next t ∧ t.vat st = { v with dp := dp } ∧ t.vat other = s.vat other ∧
         (∀ q, vatBase st.val + v.dp * 65536 ≤ q → q < vatBase st.val + dp * 65536 → t.mem.read q = 0) ∧
         ∀ q, q < vatBase st.val + v.dp * 65536 ∨ vatBase st.val + dp * 65536 ≤ q → t.mem.read q = s.mem.read q) ∧
     ((Bits.field 63 52 val.toNat ≠ 0 ∨ val.toNat % 16 ≠ 0) → exec (.ordclrWrite m st val) s = .next s) ∧
     (val.toNat < 2 ^ 52 → val.toNat % 16 = 0 →
       ∃ t, exec (.ordclrWrite m st val) s = .next t ∧ t.mem = s.mem ∧
         (∀ k, t.vat k = { s.vat k with ordered := (s.vat k).ordered.filter (fun e => e.target / 16 != val.toNat / 16) }) ∧
         ∀ e ∈ s.vat0.ordered ++ s.vat1.ordered, e.target / 16 = val.toNat / 16 → ∀ x ∈ e.held, ∀ g, s.group? x.2.gid = some g → (g.gang? x.2.gang).isSome →
           ∃ g', t.group? x.2.gid = some g' ∧ g'.errsum &&& ORDE = ORDE))

/-- GNETn by the owner, and a training step: WIGN while a frame is in flight; an enable takes a valid descriptor and starts the net from version
0 with an empty ring, and only sets DBAD for any other; a disable keeps the rest; a training step with no sample changes no memory, and one with samples
takes at most 4,096 from the ring and leaves a new version (R331, R332, R341).
What R341 leaves of the gradient is a reading (log 44). -/
def Obligations.NetControl : Prop :=
  (∀ (s : State) (m : Master) (n : Fin 4) (val : Word) (x : Net), s.Commands m → s.nets[n.val]? = some x →
    let x1 := { x with wign := x.wign && !val.getLsbD 2, dbad := x.dbad && !val.getLsbD 1 }
    let puts := fun (i : Instr) (y : Net) => ∃ t, exec i s = .next t ∧ t = { s with nets := t.nets } ∧ t.nets[n.val]? = some y ∧
      ∀ k, k ≠ n.val → t.nets[k]? = s.nets[k]?
    let da := Bits.field 51 6 val.toNat
    (s.frames ≠ [] → puts (.gnetEnable m n val) { x1 with wign := true } ∧ puts (.gnetDisable m n val) { x1 with wign := true }) ∧
    (s.frames = [] → puts (.gnetDisable m n val) { x1 with daddr := BitVec.ofNat 46 da, en := false }) ∧
    (s.frames = [] → (∀ d, s.readNetDesc (64 * da) = some d → s.netValid n.val d = false) → puts (.gnetEnable m n val) { x with dbad := true }) ∧
    (∀ d, s.frames = [] → s.readNetDesc (64 * da) = some d → s.netValid n.val d = true → puts (.gnetEnable m n val)
      { x1 with daddr := BitVec.ofNat 46 da, en := true, cur := false, neww := false, tail := 0, fill := 0, drops := 0, desc := d.bits })) ∧
  (∀ (s : State) (st : StackId) (r : TileRef) (p : Pass), s.loads 2 (64 * st.val) = false → s.trainingTile st.val = some r →
    s.passAt r.slot r.pass = some p → (s.tileAt r).isSome →
    let n := p.rcd.kparam % 4
    ∃ t p', exec (.trainingStep st) s = .next t ∧ t.passAt r.slot r.pass = some p' ∧ p'.stepsLeft = p.stepsLeft - 1 ∧
      (p.stepsLeft ≤ 1 → (t.tileAt r).any (fun x => x.engineDone) = true) ∧
      ((s.net n).fill = 0 → t.mem = s.mem ∧ t.nets = s.nets) ∧
      ((s.net n).fill ≠ 0 → (t.net n).neww = true ∧ (t.net n).fill = (s.net n).fill - min 4096 (s.net n).fill ∧
        (t.net n).tail = ((s.net n).tail + min 4096 (s.net n).fill) % 65536 ∧ (t.net n).cur = (s.net n).cur ∧
        ∀ k, k ≠ n → t.net k = s.net k))

/-! ## Record passes and traversal units (R348 to R355, R358) -/

/-- A rasteriser takes its next triangle: its quad records go to its target in order and cover only pixels that the triangle covers; a blender takes its next record, its
pixels loaded at the first, and a fault kills the tile (R348 to R351, R358, R390).
That a blender keeps its records until its tile retires is a reading (log 40), and so is the record that a fault leaves (log 41); that a triangle with
a reserved bit set gives nothing is the model's choice (log 83). -/
def Obligations.RasteriserAndBlender : Prop :=
  (∀ (s : State) (slot pass tile node target : Nat) (r : RecTile) (p : Pass) (x : NodeRec) (rest : List NodeRec),
    let tr : TileRef := ⟨slot, pass, tile⟩
    s.recTile? tr = some r → s.passAt slot pass = some p → r.queue node = x :: rest → nodeOut (p.node node) 0 = some target →
    nodeType (p.node node) = 1 → r.emits = [] → target ≠ node → r.stats.length = 8 → Table.wf [] r.queues = true → Table.wf 0 r.triangles = true →
    let tri : Triangle := ⟨Bits.ofBytes x.bytes⟩
    let qs := if tri.culled (nodeCull (p.node node)) || tri.refused then [] else tri.quads p.rcd tile (Table.get 0 r.triangles node)
    ∃ t r', exec (.rasterise slot pass tile node) s = .next t ∧ t.mem = s.mem ∧ t.groups = s.groups ∧ t.recTile? tr = some r' ∧
      r'.queue node = rest ∧ Table.get 0 r'.triangles node = Table.get 0 r.triangles node + 1 ∧
      (r'.queue target).map (fun y => y.bytes) ++ r'.emits.flatMap (fun e => e.recs.map fun y => y.bytes) =
        (r.queue target).map (fun y => y.bytes) ++ qs ∧
      (∀ n, n ≠ node → n ≠ target → r'.queue n = r.queue n) ∧
      r'.stats.getD 2 0 = (r.stats.getD 2 0 + qs.length) % 2 ^ 64 ∧
      (tri.owner p.rcd = tile → tri.refused = false → r'.stats.getD 0 0 = (r.stats.getD 0 0 + 1) % 2 ^ 64) ∧
      (tri.owner p.rcd ≠ tile ∨ tri.refused = true → r'.stats.getD 0 0 = r.stats.getD 0 0 ∧ r'.stats.getD 1 0 = r.stats.getD 1 0)) ∧
  (∀ (tri : Triangle) (seq qx qy : Nat) (b : List Byte), tri.quad seq qx qy = some b →
    b.length = 32 ∧ (∃ i, i < 4 ∧ tri.covers (2 * qx + i % 2) (2 * qy + i / 2) = true) ∧
    ∀ i, i < 4 → ((Bits.ofBytes b).testBit (96 + i) = tri.covers (2 * qx + i % 2) (2 * qy + i / 2)) ∧
      ((Bits.ofBytes b).testBit (100 + i) = !tri.covers (2 * qx + i % 2) (2 * qy + i / 2))) ∧
  (∀ (tri : Triangle) (px py : Nat), 0 < area (tri.point 0) (tri.point 1) (tri.point 2) →
    let e := fun (i j : Nat) => area (tri.point i) (tri.point j) (centre px py)
    (0 < e 0 1 → 0 < e 1 2 → 0 < e 2 0 → tri.covers px py = true) ∧
    (e 0 1 < 0 ∨ e 1 2 < 0 ∨ e 2 0 < 0 → tri.covers px py = false)) ∧
  (∀ (tri : Triangle) (px py : Nat),
    let a := area (tri.point 0) (tri.point 1) (tri.point 2)
    let y := fun (i : Nat) => (tri.point i).2
    let e := fun (i j : Nat) => area (tri.point i) (tri.point j) (centre px py)
    let owns := fun (i j k : Nat) => 0 < e i j ∨ (e i j = 0 ∧ ((y i = y j ∧ y i < y k) ∨ y j < y i))
    (0 < a → (tri.covers px py = true ↔ owns 0 1 2 ∧ owns 1 2 0 ∧ owns 2 0 1)) ∧
    (a < 0 → (tri.covers px py = true ↔ owns 0 2 1 ∧ owns 2 1 0 ∧ owns 1 0 2))) ∧
  (∀ (s : State) (slot pass tile node : Nat) (r : RecTile) (p : Pass) (x : NodeRec) (rest : List NodeRec),
    let tr : TileRef := ⟨slot, pass, tile⟩
    s.recTile? tr = some r → s.passAt slot pass = some p → r.queue node = x :: rest → nodeType (p.node node) = 3 →
    let load := s.loadPixels (s.unitWho tr) (p.node node) (p.rcd.pixels tile)
    let old := Table.get [] r.loaded node
    (r.emits = [] → Table.wf [] r.queues = true → Table.wf [] r.loaded = true → Table.wf [] r.blended = true →
      ∀ ps, (if old = [] then load = .ok ps else ps = old) →
      ∃ t r', exec (.blend slot pass tile node) s = .next t ∧ t.mem = s.mem ∧ (old ≠ [] → t.groups = s.groups) ∧
        t.recTile? tr = some r' ∧ r'.queue node = rest ∧
        Table.get [] r'.loaded node = ps ∧ Table.get [] r'.blended node = Table.get [] r.blended node ++ [x]) ∧
    (∀ e, old = [] → load = .error e → ∃ t r', exec (.blend slot pass tile node) s = .next t ∧ t.mem = s.mem ∧
      t.recTile? tr = some r' ∧ r'.killed = true ∧ r'.queues = [] ∧ r'.loaded = [] ∧ t.handleCount = s.newHandle ∧
      ⟨s.newHandle, 1, tr, 0, false⟩ ∈ t.handles ∧ (∃ b, t.fq.waiting = s.fq.waiting ++ [b] ∧ b.length = 64) ∧ ∀ g ∈ t.groups, g.tref ≠ tr)) ∧
  (∀ (n rgba z : Nat) (px : Pixel), depthPasses (nodeZmode n) z px.z.toNat = false → blendPixel n rgba z px = (px, false)) ∧
  (∀ (n rgba z : Nat) (px : Pixel), nodeZmode n = 0 → nodeBlend n = 0 → rgba < 2 ^ 64 →
    blendPixel n rgba z px = (⟨BitVec.ofNat 64 rgba, px.z⟩, true)) ∧
  (∀ (n rgba z : Nat) (px : Pixel), nodeZmode n ≠ 0 → depthPasses (nodeZmode n) z px.z.toNat = true → (blendPixel n rgba z px).1.z = BitVec.ofNat 32 z) ∧
  (∀ (n rgba z k : Nat) (px : Pixel), k < 4 → depthPasses (nodeZmode n) z px.z.toNat = true →
    let f := fun (x j : Nat) => Num.decode .f16 (elem 16 x j)
    let new := elem 16 (blendPixel n rgba z px).1.rgba.toNat k
    let dst := px.rgba.toNat
    (nodeBlend n = 0 → new = elem 16 rgba k) ∧
    (nodeBlend n = 1 → new = (Num.roundF Num.rne .f16 (Num.addE 0 (f rgba k) (f dst k))).1 % 2 ^ 16) ∧
    (nodeBlend n = 2 → ∀ neg m x st, Num.addE 0 (.fin false 1 0) (f rgba 3).neg = .val neg m x st →
      new = (Num.roundF Num.rne .f16 (Num.addP 0 (f rgba k).pre (Num.mulE (f dst k) (.fin neg m x)))).1 % 2 ^ 16))

/-- A traversal unit: a ray record at the head of a traversal node's queue enters; then a ray whose treelet is held goes on to the treelet of its
next node, or is resolved where it has none left, and its hit is written to its lane, or emitted by its node; a treelet is loaded as the one most
recently loaded of at most 128; a ray that has waited 20 µs is forced; nothing is stored to memory (R352, R354, R355).
The order in which a ray reaches its nodes, and the unit that a ray of a node enters, are readings (log 39). -/
def Obligations.TraversalResults : Prop :=
  ∀ (s : State) (unit : Nat),
    (s.loads 3 (Machine.unitArg unit) = false →
      (∀ tr n r x rest, s.nextRay unit = some (tr, n) → s.recTile? tr = some r → r.queue n = x :: rest →
        ∃ t y, exec (.traverseRay unit) s = .next t ∧ t.mem = s.mem ∧ t.rays = s.rays ++ [y] ∧ y.unit = unit ∧ y.lane = none ∧
          y.node = some (tr, n, 0) ∧ y.forced = false ∧ y.bits = Bits.ofBytes (x.bytes.take 48)) ∧
      (∀ y a rest, s.nextRay unit = none → s.readyRay unit = some y → y.path = a :: rest →
        exec (.traverseRay unit) s =
          .next { s with rays := s.rays.map fun z => if z = y then { z with treelet := a, path := rest } else z }) ∧
      (∀ y, s.nextRay unit = none → s.readyRay unit = some y → y.path = [] →
        let hit := s.hitOf y
        ∃ t, exec (.traverseRay unit) s = .next t ∧ t.mem = s.mem ∧ t.rays = s.rays.erase y ∧
          ∀ gid gang op l d g h o, y.lane = some (gid, gang, op, l, d) → s.gangOf? gid gang = some (g, h) →
            h.ops.find? (fun o => o.id == op) = some o → Table.wf 0 h.v = true → l < 64 → h.lmask.getLsbD l = true →
            ∃ g' h', t.gangOf? gid gang = some (g', h') ∧
              (∀ k, k < 4 → h'.readV (d + k) l = BitVec.ofNat 64 (hit >>> (64 * k))) ∧
              (∀ r m, m < 64 → (m ≠ l ∨ r < d ∨ d + 4 ≤ r) → h'.readV r m = h.readV r m) ∧ h'.satf = h.satf ||| hitFlags hit ∧
              (o.wait = .rays 1 → ∃ o' ∈ h'.ops, o'.id = op ∧ o'.wait = .time)) ∧
      (∀ y tr n x p k r, s.nextRay unit = none → s.readyRay unit = some y → y.path = [] → y.lane = none → y.node = some (tr, n, x) →
        s.passAt tr.slot tr.pass = some p → nodeOut (p.node n) 0 = some k → s.recTile? tr = some r → r.emits = [] → r.stats.length = 8 →
        Table.wf [] r.queues = true →
        let hit := s.hitOf y
        ∃ t r', exec (.traverseRay unit) s = .next t ∧ t.mem = s.mem ∧ t.rays = s.rays.erase y ∧ t.recTile? tr = some r' ∧
          (r'.queue k).map (fun z => z.bytes) ++ r'.emits.flatMap (fun e => e.recs.map fun z => z.bytes) =
            (r.queue k).map (fun z => z.bytes) ++ [Bits.toBytes 32 hit] ∧
          (∀ m, m ≠ k → r'.queue m = r.queue m) ∧
          r'.stats.getD 5 0 = (if Bits.field 161 160 hit = 1 then (r.stats.getD 5 0 + 1) % 2 ^ 64 else r.stats.getD 5 0))) ∧
    (∀ y, s.hitOf y = if y.flush = true then flushWords 3 (s.traceRay (s.rayWho y) y.bits) else s.traceRay (s.rayWho y) y.bits) ∧
    (∀ a, s.nextTreelet unit = some a → ∃ t, exec (.treeletLoad unit) s = .next t ∧ t = { s with treelets := t.treelets } ∧
      t.held unit = (a :: s.held unit).take 128 ∧ ∀ k, k ≠ unit → t.held k = s.held k) ∧
    (let late := fun (y : Ray) => y.unit = unit ∧ y.forced = false ∧ y.treelet ≠ 0 ∧ y.treelet ∉ s.held unit ∧ y.entered + 20000 ≤ s.time / 1000
     (∃ y ∈ s.rays, late y) → ∃ t, exec (.rayWaitTimeout unit) s = .next t ∧ t = { s with rays := t.rays } ∧
       t.rays.length = s.rays.length ∧ ∀ (i : Nat) (y : Ray), s.rays[i]? = some y →
         (late y → t.rays[i]? = some { y with forced := true }) ∧ (¬ late y → t.rays[i]? = some y))

/-! ## Saving and restoring groups (R60, R382, R390 to R405) -/

/-- A save becomes pending by pre-emption or eviction, and after 20 µs every gang stops; a late hit goes into the v image of the save, and a late count-down into its
fragment entries; a saved group that is ready goes to the core that R73 chooses, where its registers, its window and its tiles hold what the save
record holds, zero where nothing was saved, and no byte of memory changes (R60, R382, R396, R397, R399, R403, R405).
Which gangs stop at once, and which parked earliest, are readings (log 45, log 47); that the core which evicts for a saved group takes no other until that
one is back is the model's choice (log 117). -/
def Obligations.SaveSteps : Prop :=
  (∀ (s : State) (st : StackId) (gs : List Group), (s.waitingWork st.val).findSome? (fun w => s.chooseVictims st.val w) = some gs →
    gs ≠ [] ∧ (∀ g ∈ gs, g ∈ s.groups ∧ g.place = .resident ∧ g.core / 96 = st.val ∧ g.savePending = none ∧
      2 ≤ (s.workKey g.tref st.val 0).headD 0) ∧
    ∃ t, exec (.preempt st) s = .next t ∧ t.mem = s.mem ∧
      ((∀ g ∈ gs, s.ofRecTile g = false) → t = { s with groups := t.groups } ∧
        (∀ g ∈ gs, ∃ x, t.group? g.gid = some x ∧ x.savePending = some (s.time, .preempt)) ∧
        ∀ k, (∀ g ∈ gs, g.gid ≠ k) → t.group? k = s.group? k)) ∧
  (∀ (s : State) (core : Nat) (x : Group), 4096 ≤ (s.core core).evictCount ∨ s.evictingFor core ≠ none → s.evictable core = true →
    s.evictsFor core = some x → (∀ g ∈ s.residents core, g.savePending = none) → s.freeSaveSlot (core / 96) ≠ none →
    ∃ g ∈ s.residents core, ∃ h ∈ g.gangs, h.exited = false ∧
      (∀ x ∈ s.residents core, ∀ y ∈ x.gangs, y.exited = false → h.parkedSince ≤ y.parkedSince) ∧
      exec (.eviction core) s = .next ((s.setGroup { g with savePending := some (s.time, .evict) }).updCore core fun k =>
        { k with evictFor := some x.gid })) ∧
  (∀ (s : State) (gid since : Nat) (g : Group) (why : SaveWhy), s.group? gid = some g → g.savePending = some (since, why) →
    g.place = .resident → since + 20000000 ≤ s.time → (∃ h ∈ g.gangs, h.stopped = false) →
    ∃ t g', exec (.saveTimeout gid) s = .next t ∧ t = { s with groups := t.groups } ∧ t.group? gid = some g' ∧
      g' = { g with gangs := g'.gangs } ∧ g'.gangs.length = g.gangs.length ∧ (∀ h ∈ g'.gangs, h.stopped = true) ∧
      ∀ k, k ≠ gid → t.group? k = s.group? k) ∧
  (∀ (s : State) (g : Group) (slot : Nat) (h : Gang) (o : VOp), s.landsInSave = some (g, slot, h, o) →
    let at' := s.slotBase (g.core / 96) slot + 0x1000 + 0x2000 * h.id + 0x340
    ∃ t, exec .hitDeliveryToSave s = .next t ∧ t.rays = s.rays ∧
      (∀ g' h', t.gangOf? g.gid h.id = some (g', h') → ∀ x ∈ h'.ops, x.id ≠ o.id) ∧
      (s.plainRange at' 512 = true → s.mem.wf = true →
        let h1 := { h with ops := h.ops.filter fun x => x.id != o.id }
        (∀ i k, i < 16 → k < 32 → t.mem.read (at' + 32 * i + k) = (Bits.toBytes 32 ((h1.frags[i]?.map h1.fragBits).getD 0)).getD k 0) ∧
        ∀ q, q < at' ∨ at' + 512 ≤ q → t.mem.read q = s.mem.read q)) ∧
  (∀ (s : State) (y : Ray) (gid gang op l d slot : Nat) (r : Bool) (g : Group) (h : Gang), s.landsInSave = none →
    s.rays.find? (fun y => s.raySaved y && y.path == [] && s.rayMoves y && !s.loads 3 (Machine.unitArg y.unit)) = some y →
    y.lane = some (gid, gang, op, l, d) → s.gangOf? gid gang = some (g, h) → g.place = .saved slot r →
    let hit := s.hitOf y
    let base := s.slotBase (g.core / 96) slot
    let at' := base + 0x100000 + 8 * (320 * (h.id * h.width + l) + d)
    let flags := base + 0x1000 + 0x2000 * h.id + 15
    ∃ t, exec .hitDeliveryToSave s = .next t ∧ t.rays = s.rays.erase y ∧
      ((∀ k, k < 4 → s.plainRange (at' + 8 * k) 8 = true) → s.mem.wf = true → h.id < 32 →
        (∀ k, k < 32 → t.mem.read (at' + k) = (Bits.toBytes 32 hit).getD k 0) ∧
        ∀ q, q < at' ∨ at' + 32 ≤ q → q ≠ flags ∨ hitFlags hit = 0 → t.mem.read q = s.mem.read q)) ∧
  (∀ (s : State) (st : StackId) (g : Group) (c : Nat), s.nextRestore st.val = some (g, c) →
    (g.gangs.map fun h => h.id).Nodup →
    let keptFor := fun (k : Nat) => ∀ x, s.evictingFor k = some x → x.gid = g.gid
    s.canTake c g.need = true ∧ c / 96 = st.val ∧ keptFor c ∧
    (∀ k, k / 96 = st.val → s.canTake k g.need = true → keptFor k → s.freePool k < s.freePool c ∨ (s.freePool k = s.freePool c ∧ c ≤ k)) ∧
    ∃ t g', exec (.groupRestore st) s = .next t ∧ t.mem = s.mem ∧ t.group? g.gid = some g' ∧ g'.place = .resident ∧ g'.core = c ∧
      g'.savePending = none ∧ g'.handle = none ∧ g'.deliver = false ∧ g'.kernel = g.kernel ∧ g'.tref = g.tref ∧
      g'.gangs.map (fun h => (h.id, h.lmask, h.c, h.satf)) = g.gangs.map (fun h => (h.id, h.lmask, h.c, h.satf)) ∧
      ∀ slot rdy, g.place = .saved slot rdy →
        let base := s.slotBase (g.core / 96) slot
        let word := fun (a : Nat) => BitVec.ofNat 64 (s.saveRead (base + a) 8)
        (∀ h ∈ g.gangs, h.exited = false → h.serr = [] → h.perr = [] → h.verr = [] → h.width ≤ 64 → ∃ h' ∈ g'.gangs, h'.id = h.id ∧
          (∀ i, 1 ≤ i → i < 64 → h'.readS i = word (0x1000 + 0x2000 * h.id + 0x140 + 8 * i)) ∧
          (∀ i, 1 ≤ i → i < 16 → h'.readP i = word (0x1000 + 0x2000 * h.id + 0xC0 + 8 * i)) ∧
          (∀ n l, l < h.width → h'.readV n l =
            if n ∈ h.saved then word (0x100000 + 8 * (320 * (h.id * h.width + l) + n)) else 0)) ∧
        (Table.wf Core.fresh s.cores = true → Table.wf 0 (s.core c).scratch = true →
          ∀ x, x < 4096 * g.kernel.scrg → (t.core c).scratchByte (g'.window + x) =
            if x / 64 ∈ g.chunks then BitVec.ofNat 8 (s.saveRead (base + 0x380000 + 64 * (x / 64)) 64 >>> (8 * (x % 64))) else 0) ∧
        (Table.wf Core.fresh s.cores = true → Table.wf 0 (s.core c).acc = true →
          ∀ i e, i < g.tiles.length → e < 8192 → Table.get 0 (t.core c).acc (8192 * g'.tiles.getD i 0 + e) =
            BitVec.ofNat 32 (s.saveRead (base + 0x80000 + 0x8000 * i + 4 * e) 4)))

/-- A save: without a free slot the group waits and SVFULL is set; with one, a group with no running macro-operation leaves its core for the slot,
ready for restore unless a gang of it took the owner route, for which a handle is made and one fault record a trapping gang waits; its s and p registers,
LMASK, SATF and c bits, the v registers that R397 names, its tiles and the window saved stand in the save record at the offsets of R399 and R401; its
control state is kept; a gang in whose control state an error is found has trapped with cause 0x2C, and where it is of a record pass its
tile is killed and nothing is saved (R348, R390, R392, R397 to R401, R404).
The images of exited gangs, which VTRACEs are outstanding, and what an uncorrectable word leaves in the record, of a tile among them, are readings (log 46,
log 93, log 109, log 110). -/
def Obligations.SaveCaptures : Prop :=
  ∀ (s : State) (g : Group), s.group? g.gid = some g → s.captureReady g = true → Table.wf Core.fresh s.cores = true →
    (∀ h, s.brokenRecGang g = some h → ∃ t, exec (.saveCapture g.gid) s = .next t ∧ t.mem = s.mem ∧ t.handleCount = s.newHandle ∧
      ⟨s.newHandle, 1, g.tref, 0, true⟩ ∈ t.handles ∧ (∃ b, t.fq.waiting = s.fq.waiting ++ [b] ∧ b.length = 64) ∧ ∀ x ∈ t.groups, x.tref ≠ g.tref) ∧
    (s.brokenRecGang g = none → s.freeSaveSlot (g.core / 96) = none → s.fq.svfull = false →
      exec (.saveCapture g.gid) s = .next { s with fq := { s.fq with svfull := true } }) ∧
    (∀ slot, s.brokenRecGang g = none → s.freeSaveSlot (g.core / 96) = some slot →
        (∀ m ∈ (s.core g.core).macros, m.gid = g.gid → m.running = false) →
      ∃ t g', exec (.saveCapture g.gid) s = .next t ∧ t.group? g.gid = some g' ∧ g'.savePending = none ∧ g'.core = g.core ∧
        g'.kernel = g.kernel ∧ g'.tref = g.tref ∧
        ((∀ h ∈ g.gangs, h.trapped = false ∧ h.ctlErr = false) → g'.place = .saved slot true ∧ g'.handle = none ∧ t.handles = s.handles ∧
          t.fq.waiting = s.fq.waiting) ∧
        ((∃ h ∈ g.gangs, h.trapped = true ∨ h.ctlErr = true) → g'.place = .saved slot false ∧ g'.handle = some s.newHandle ∧
          t.handles = s.handles ++ [⟨s.newHandle, 0, g.tref, 0, false⟩] ∧
          ∃ l, t.fq.waiting = s.fq.waiting ++ l ∧ l.length = (g.gangs.filter fun h => h.trapped || h.ctlErr).length) ∧
        g'.gangs.map (fun h => (h.id, h.lmask, h.c, h.tokens, h.joins)) = g.gangs.map (fun h => (h.id, h.lmask, h.c, h.tokens, h.joins)) ∧
        g'.gangs.map (fun h => if h.trapped then some h.trapcause.cause else none) = g.gangs.map (fun h =>
          if h.ctlErr then some 0x2C else if h.trapped then some h.trapcause.cause else none) ∧
        ((∀ h ∈ g.gangs, h.ctlErr = false) →
          g'.gangs.map (fun h => (h.trappc, h.trapcause)) = g.gangs.map (fun h => (h.trappc, h.trapcause))) ∧
        g'.gangs.map (fun h => h.frags) = g.gangs.map (fun h => h.frags) ∧
        ((t.core g.core).macros.all fun m => m.gid != g.gid) = true ∧
        (g.FitsSlot → s.mem.wf = true → let base := s.slotBase (g.core / 96) slot
          s.plainRange base (2 ^ 23) = true →
          let holds := fun (off n x : Nat) => ∀ k, k < n → t.mem.read (base + off + k) = (Bits.toBytes n x).getD k 0
          (∀ h ∈ g.gangs, h.fpend = [] →
            let at' := 0x1000 + 0x2000 * h.id
            (∀ i, i < 64 → holds (at' + 0x140 + 8 * i) 8 (h.readS i).toNat) ∧
            (∀ i, 1 ≤ i → i < 16 → holds (at' + 0xC0 + 8 * i) 8 (h.readP i).toNat) ∧
            holds (at' + 0xC0) 8 0 ∧
            (∀ n l, l < h.width → n < h.vcount →
              (h.hintTables = none ∨ (∃ ts, h.hintTables = some ts ∧ ∃ x ∈ ts, x.testBit n = true) ∨ n ∈ h.traceRegs) →
              holds (0x100000 + 8 * (320 * (h.id * h.width + l) + n)) 8 (h.readV n l).toNat) ∧
            (h.ctlErr = false → holds (at' + 0x30) 8 h.lmask.toNat ∧
              ∃ b, t.mem.read (base + at' + 15) = b ∧ b.toNat = h.c.toNat + 16 * h.satf.toNat)) ∧
          (∀ i e, i < g.tiles.length → e < 8192 → holds (0x80000 + 0x8000 * i + 4 * e) 4 (g.tileElem (s.core g.core) i e).1) ∧
          (∀ x, x < 4096 * g.kernel.scrg → (∃ h ∈ g.gangs, h.exited = false ∧ h.hintTables = none) →
            t.mem.read (base + 0x380000 + x) = (s.core g.core).scratchByte (g.window + x)) ∧
          holds 0x30 8 g'.errsum.toNat ∧ t.mem.read base &&& 1 = 1))

/-! ## Retirement, completion and the rings of records (R27, R391, R392, R409 to R415) -/

/-- A tile that may retire does: its groups go, its pass counts it, and a pass that completes leaves a completion record of 32 bytes, memory as it was; a
record-pass tile first writes its targets, or takes the owner route; the decrements that have arrived are applied cycle by cycle, and in a cycle by pass
and then by tile (R27, R28, R348, R409 to R411, R413).
That a tile waits for its held contributions, and the slots of the other stack, are readings (log 55, log 56), and so is that R28's cycle is the base die's
of 625 ps (log 123). -/
def Obligations.RetirementResults : Prop :=
  (∀ (s : State) (slot pass tile : Nat) (p : Pass) (f : Frame),
    let tr : TileRef := ⟨slot, pass, tile⟩
    s.retirable tr = true → s.frameAt slot = some f → s.passAt slot pass = some p → s.recTile? tr = none →
    ∃ t, exec (.tileRetire slot pass tile) s = .next t ∧ t.mem = s.mem ∧ t.cores = s.cores ∧ (∀ g ∈ t.groups, g.tref ≠ tr) ∧
      (∀ g ∈ s.groups, g.tref ≠ tr → g ∈ t.groups) ∧
      (p.retired + 1 ≠ p.rcd.tiles → t.ev = s.ev ∧ (t.passAt slot pass).map (fun q => q.retired) = some (p.retired + 1) ∧
        (t.tileAt tr).map (fun x => x.state) = some .retired) ∧
      (p.retired + 1 = p.rcd.tiles → ∃ b, t.ev = { s.ev with waiting := s.ev.waiting ++ [b] } ∧ b.length = 32 ∧ (b.headD 0).getLsbD 0 = true)) ∧
  (∀ (s : State) (slot pass tile : Nat) (r : RecTile) (p : Pass),
    let tr : TileRef := ⟨slot, pass, tile⟩
    s.retirable tr = true → s.recTile? tr = some r → s.passAt slot pass = some p →
    (∀ e, s.finishRecTile r p = .error e → ∃ t, exec (.tileRetire slot pass tile) s = .next t ∧ t.handleCount = s.newHandle ∧
      ⟨s.newHandle, 1, tr, 0, false⟩ ∈ t.handles ∧ t.mem = s.mem) ∧
    (∀ u, s.finishRecTile r p = .ok u → ∃ t, exec (.tileRetire slot pass tile) s = .next t ∧ t.mem = u.mem ∧
      (∀ g ∈ t.groups, g.tref ≠ tr) ∧ ∀ x ∈ t.recTiles, x.tref ≠ tr)) ∧
  (∀ (s : State) (st : StackId), s.loads 0 (64 * st.val) = false → (∃ d ∈ s.decrements, d.stack = st.val ∧ d.due ≤ s.time) →
    ∃ d ∈ s.decrements, d.stack = st.val ∧ d.due ≤ s.time ∧ (∀ e ∈ s.decrements, e.stack = st.val → e.due ≤ s.time → d.due / 625 ≤ e.due / 625 ∧
        (e.due / 625 = d.due / 625 → d.tref.pass < e.tref.pass ∨ (d.tref.pass = e.tref.pass ∧ d.tref.tile ≤ e.tref.tile))) ∧
      exec (.decrementArrival st) s = .next (({ s with decrements := s.decrements.erase d }).decrementOn st.val d.tref d.frame)) ∧
  (∀ x : Tile, x.lower.counter = x.counter - 1 ∧ (x.counter ≤ 1 → x.state = .waiting → x.lower.state = .released) ∧
    (1 < x.counter ∨ x.state ≠ .waiting → x.lower.state = x.state))

/-- The fault queue and the event ring: the oldest waiting record goes to the place that TAIL names when its ring is enabled and not full, and TAIL moves on;
the owner is signalled for a fault record at once, or when there is one, and for completions when the count or the time of R415 is reached (R391, R392,
R413 to R415).
TAIL moves on past a lost record by log 67. -/
def Obligations.RecordRings : Prop :=
  (∀ (s : State) (b : List Byte) (rest : List (List Byte)), s.fq.waiting = b :: rest → b.length = 64 → s.fq.en = true →
    (s.fq.tail - s.fq.head).toNat ≠ 2 ^ (s.fq.logn + 6) → s.mem.wf = true →
    let pa := s.fq.base.toNat * 4096 + 64 * (s.fq.tail.toNat % 2 ^ (s.fq.logn + 6))
    ∃ t, exec .faultRecordWrite s = .next t ∧ t.fq.tail = s.fq.tail + 1 ∧ t.fq.waiting = rest ∧ t.fq.head = s.fq.head ∧
      (∀ m, s.own.now = some m → t.irqs = s.irqs ++ [⟨s.time, m, true⟩]) ∧ (s.own.now = none → t.irqs = s.irqs ∧ t.fq.waitIrq = true) ∧
      (s.recordLost pa 64 = true → t.fq.werr = true ∧ t.mem = s.mem) ∧
      (s.recordLost pa 64 = false → (∀ k, k < 64 → t.mem.read (pa + k) = b.getD k 0) ∧
        ∀ q, q < pa ∨ pa + 64 ≤ q → t.mem.read q = s.mem.read q)) ∧
  (∀ (s : State) (b : List Byte) (rest : List (List Byte)), s.ev.waiting = b :: rest → b.length = 32 → s.ev.en = true →
    (s.ev.tail - s.ev.head).toNat ≠ 2 ^ (s.ev.logn + 6) → s.mem.wf = true →
    let pa := s.ev.base.toNat * 4096 + 32 * (s.ev.tail.toNat % 2 ^ (s.ev.logn + 6))
    ∃ t, exec .completionRecordWrite s = .next t ∧ t.ev.tail = s.ev.tail + 1 ∧ t.ev.waiting = rest ∧ t.ev.u = s.ev.u + 1 ∧ t.irqs = s.irqs ∧
      (s.ev.u = 0 → t.ev.t0 = s.time / 1000) ∧
      (s.recordLost pa 32 = true → t.ev.werr = true ∧ t.mem = s.mem) ∧
      (s.recordLost pa 32 = false → (∀ k, k < 32 → t.mem.read (pa + k) = b.getD k 0) ∧
        ∀ q, q < pa ∨ pa + 32 ≤ q → t.mem.read q = s.mem.read q)) ∧
  (∀ (s : State) (m : Master), (s.own.state = .owned ∨ s.own.state = .giving) → s.own.owner = m →
    let due := s.ev.cntm1 + 1 ≤ s.ev.u ∨ (1 ≤ s.ev.u ∧ 1000 * s.ev.time ≤ s.time / 1000 - s.ev.t0)
    (due → exec .eventInterrupt s = .next { s with ev := { s.ev with irq := true, u := 0 }, irqs := s.irqs ++ [⟨s.time, m, false⟩] }) ∧
    (¬ due → s.fq.waitIrq = true →
      exec .eventInterrupt s = .next { s with fq := { s.fq with waitIrq := false }, irqs := s.irqs ++ [⟨s.time, m, true⟩] }))

/-! ## Collectives and the link (R416 to R419) -/

/-- A collective tile starts and its elements are read, or it waits for the owner; it pairs with a pass of the peer's, or a pass of the peer's that does not match, or
100 ms without the link, ends a pass as killed; each named stack writes its part, and the last ends the tile; the link trains to the peer's rank or
sets RKDUP; a flit of bad CRC counts a replay, one out of sequence delivers nothing (R290, R416 to R419).
What the peer box does is free (log 12), that a participant runs a tile in one step the model's choice (log 54), and the flits without effect a
reading (log 62). -/
def Obligations.CollectiveAndLinkResults : Prop :=
  (∀ (s : State) (st : StackId) (tr : TileRef) (p : Pass) (x : Tile) (act : CollectiveAct), s.collectiveNext st.val = some (tr, act) →
    s.tileAt tr = some x → s.passAt tr.slot tr.pass = some p →
    let serial := s.frameSerial tr.slot
    let w : Who := ⟨none, some (serial, tr.pass)⟩
    let waits := fun (t : State) => t.handleCount = s.newHandle ∧ (∃ h, t.handles = s.handles ++ [h] ∧ h.gh = s.newHandle ∧ h.unit = 2 ∧ h.tref = tr) ∧
      (∃ b, t.fq.waiting = s.fq.waiting ++ [b] ∧ b.length = 64) ∧ t.mem = s.mem ∧ ∀ c ∈ t.colls, c.tref ≠ tr
    (act = .start → x.state = .started ∨ (s.startTile tr).isSome →
      let s0 := if x.state = .started then s else (s.startTile tr).getD s
      let read := s0.readElements w p.rcd (p.rcd.tileBase tr.tile) p.rcd.ccount
      (∀ u xs err, read = .ok (u, xs, err) → ∃ t y, exec (.collectiveChunk st) s = .next t ∧ t.mem = s.mem ∧ t.colls = s.colls ++ [⟨tr, xs, []⟩] ∧
        t.tileAt tr = some y ∧ y.state = .started ∧ y.errsum = x.errsum ||| err) ∧
      (∀ e, read = .error e → ∃ t, exec (.collectiveChunk st) s = .next t ∧ waits t)) ∧
    (act = .pair → x.state = .started →
      (∀ o, s.link.offers.find? (fun o => Config.offered o == p.rcd.pairKey) = some o → ∃ t, exec (.collectiveChunk st) s = .next t ∧
        t.mem = s.mem ∧ t.link = { s.link with offers := s.link.offers.erase o } ∧ (t.passAt tr.slot tr.pass).map (fun q => q.paired) = some true) ∧
      (s.link.offers.find? (fun o => Config.offered o == p.rcd.pairKey) = none → ∃ t, exec (.collectiveChunk st) s = .next t ∧
        t.mem = s.mem ∧ t.link = { s.link with offers := s.link.offers.tail } ∧
        ∀ i y, t.tileAt ⟨tr.slot, tr.pass, i⟩ = some y → y.state = .retired ∨ y.retiredAsKilled = true)) ∧
    (∀ c, act = .run → x.state = .started → s.colls.find? (fun c => c.tref == tr) = some c →
      let ys := ((List.range c.xs.length).zip c.xs).map fun ix => collectiveResult p.rcd (s.participants serial tr.pass p.rcd) (s.rankOf st.val) tr.tile
        (s.elementsOf serial tr.pass p.rcd tr.tile ix.1 ix.2)
      let write := s.writeElements w p.rcd (p.rcd.tileBase tr.tile) ys
      (∀ u, write = .ok u → ∃ t y, exec (.collectiveChunk st) s = .next t ∧ t.mem = u.mem ∧ t.tileAt tr = some y ∧ y.state = .started ∧
        ((∀ k ∈ affStacks p.rcd.cspan, k ∈ c.ran ++ [st.val]) → y.engineDone = true ∧ ∀ z ∈ t.colls, z.tref ≠ tr) ∧
        ((∃ k ∈ affStacks p.rcd.cspan, k ∉ c.ran ++ [st.val]) → y.engineDone = x.engineDone ∧ { c with ran := c.ran ++ [st.val] } ∈ t.colls)) ∧
      (∀ e, write = .error e → ∃ t, exec (.collectiveChunk st) s = .next t ∧ waits t))) ∧
  (∀ (s : State) (d : Nat), s.link.downSince = some d → d + 100000000000 ≤ s.time →
    (∃ sp ∈ s.crossPasses, ∃ p, s.passAt sp.1 sp.2 = some p ∧ ∃ x ∈ p.tiles, x.state ≠ .retired ∧ x.retiredAsKilled = false) →
    ∃ t, exec .collectiveLinkTimeout s = .next t ∧ t.mem = s.mem ∧
      ∀ sp ∈ s.crossPasses, ∀ i y, t.tileAt ⟨sp.1, sp.2, i⟩ = some y → y.state = .retired ∨ y.retiredAsKilled = true) ∧
  (∀ (p : PassRec) (ranks : List Nat) (mine tile a b : Nat),
    (p.cop = 0 → collectiveResult p ranks mine tile [a, b] = some (foldOp p.cred ⟨0, false, false⟩ p.ctype a b).1) ∧
    (p.cop = 1 → collectiveResult p ranks mine tile [a, b] =
      if ranks.getD (tile % ranks.length) 0 = mine then some (foldOp p.cred ⟨0, false, false⟩ p.ctype a b).1 else none) ∧
    (p.cop = 2 → ranks.length = 2 → collectiveResult p ranks mine tile [a, b] = some (if tile % 2 = 0 then a else b)) ∧
    (3 ≤ p.cop → collectiveResult p ranks mine tile [a, b] = some a)) ∧
  (∀ (s : State) (rank : Bool) (flit : List Byte),
    (s.cfg.link = true → rank ≠ s.cfg.linkRank → exec (.linkTrain true rank) s = .next { s with
      dev := { s.dev with linkUp := true, rkdup := false }, link := { s.link with downSince := none, peerRank := rank } }) ∧
    (s.cfg.link = true → rank = s.cfg.linkRank → ∃ t, exec (.linkTrain true rank) s = .next t ∧ t.dev.linkUp = false ∧ t.dev.rkdup = true) ∧
    (∃ t, exec (.linkTrain false rank) s = .next t ∧ t.dev.linkUp = false) ∧
    (s.cfg.link = false → ∃ t, exec (.linkTrain true rank) s = .next t ∧ t.dev.linkUp = false) ∧
    (∃ t, exec .linkDown s = .next t ∧ t = { s with dev := { s.dev with linkUp := false }, link := t.link } ∧
      (s.dev.linkUp = true → t.link = { s.link with downSince := some s.time }) ∧ (s.dev.linkUp = false → t.link = s.link)) ∧
    (s.dev.linkUp = true → flit.length = 256 →
      (Config.crc64 (flit.take 248) ≠ flit.drop 248 →
        exec (.flitReceive flit) s = .next { s with dev := { s.dev with linkrpl := s.dev.linkrpl + 1 } }) ∧
      (Config.crc64 (flit.take 248) = flit.drop 248 →
        (flitSeq flit ≠ s.link.nextSeq → exec (.flitReceive flit) s = .next s) ∧
        (flitSeq flit = s.link.nextSeq →
          let link := { s.link with nextSeq := s.link.nextSeq + 1 }
          ((flit.headD 0).toNat = 3 →
            let payload := (flit.drop 8).take 240
            let which := Config.offeredPass payload
            (which ∈ s.link.known → exec (.flitReceive flit) s = .next { s with link := link }) ∧
            (which ∉ s.link.known → exec (.flitReceive flit) s =
              .next { s with link := { link with offers := link.offers ++ [payload], known := link.known ++ [which] } })) ∧
          ((flit.headD 0).toNat < 7 → (flit.headD 0).toNat ≠ 3 → exec (.flitReceive flit) s = .next { s with link := link }) ∧
          (7 ≤ (flit.headD 0).toNat →
            exec (.flitReceive flit) s = .next { s with link := link, dev := { s.dev with linkdrp := s.dev.linkdrp + 1 } })))) ∧
    (s.dev.linkUp = false → exec (.flitReceive flit) s = .next s))

/-! ## Power, clocks and service (R130, R262, R263, R430 to R439) -/

/-- An array that may be gated holds zero from then on, and no other byte changes; a wake-up ends within 1.5 µs, with the array no longer gated; a recalibration, of
each core in turn once every 1 ms, keeps each period within 5% of its nominal value and reports the longest, and the core runs at the new periods from the
end of its cycle on; the thermal trip stops every step but a reset (R130, R262, R263, R432, R438, R439).
New periods are free (log 7); what is gated is an input (log 58). -/
def Obligations.PowerResults : Prop :=
  ∀ (s : State) (arr : GatedArray), Table.wf Core.fresh s.cores = true → s.mem.wf = true →
    (s.isGated arr = false → s.gateable arr = true → ∃ t, exec (.arrayGate arr) s = .next t ∧ t.isGated arr = true ∧
      (∀ st slice bank, arr = .vatBank st slice bank → t.cores = s.cores ∧
        ∀ q, t.mem.read q = if inBank st slice bank q then 0 else s.mem.read q) ∧
      (∀ core way, arr = .l1Way core way → t.mem = s.mem ∧ (t.core core).scratch = (s.core core).scratch) ∧
      (∀ core range, arr = .scratch core range → t.mem = s.mem ∧ (Table.wf 0 (s.core core).scratch = true →
        ∀ a, Table.get 0 (t.core core).scratch a = if a / 4096 = range then 0 else Table.get 0 (s.core core).scratch a))) ∧
    (s.isGated arr = true → (∀ x ∈ s.waking, x.1 ≠ arr) → ∃ t d, exec (.arrayWake arr) s = .next t ∧
      t = { s with waking := s.waking ++ [(arr, d)], free := t.free } ∧ s.time ≤ d ∧ d ≤ s.time + 1500000) ∧
    ((∃ x ∈ s.waking, x.1 = arr ∧ x.2 ≤ s.time) → ∃ t, exec (.arrayWakeEnd arr) s = .next t ∧ t.isGated arr = false ∧
      (∀ x ∈ t.waking, x.1 ≠ arr) ∧ t.mem = s.mem) ∧
    (∀ p0 p1 p2 p3, let core := s.recalCount % 192
      (s.recalCount / 192 + 1) * 1000000000 ≤ s.time →
      400 ≤ p0 → p0 ≤ 420 → 550 ≤ p1 → p1 ≤ 577 → 667 ≤ p2 → p2 ≤ 700 → 800 ≤ p3 → p3 ≤ 840 →
      ∃ t, exec (.recalibration core p0 p1 p2 p3) s = .next t ∧ (t.core core).recal = some [p0, p1, p2, p3] ∧ t.mem = s.mem ∧
        t.recalCount = s.recalCount + 1 ∧ (∀ k, k ≠ core → t.core k = s.core k) ∧ t.dev.clscal.length = 4 ∧
        ∀ k c, k < 4 → c < 192 → ((t.core c).recal.getD (t.core c).periods).getD k 0 ≤ t.dev.clscal.getD k 0) ∧
    (∀ (k : Core) (a b : Nat × Nat), (k.endCycle a b).periods = k.recal.getD k.periods ∧ (k.endCycle a b).recal = none ∧
      (k.endCycle a b).start = k.start + k.cycleLength) ∧
    (∀ tj, exec (.thermalTrip tj) s = .next { s with
      dev := { s.dev with tjmax := BitVec.ofNat 64 tj, tripped := s.dev.tripped || decide (880 ≤ tj) } }) ∧
    (s.dev.tripped = true → (∀ f rest, s.inputs ≠ .command (.deviceReset f) :: rest) → step s = .fault .heldInReset)

/-- SVCCMD by the owner: CODE 1 while a command runs; a field out of range ends with CODE 5, an update over a promised frame with 3 and of a bad image with 2,
a core with no spare with 4; otherwise the command runs, and ends with CODE 0 when its work is done (R433 to R437).
The order in which the codes are tested is a reading (log 59), as are what an update leaves (log 60) and that a spare core starts as a core does at
reset, its counters included (log 65). -/
def Obligations.ServiceResults : Prop :=
  (∀ (s : State) (m : Master) (val : Word), s.Commands m →
    let all := fun (p : Out → Prop) => p (exec (.svccmdUpdate m val) s) ∧ p (exec (.svccmdSpareCore m val) s) ∧
      p (exec (.svccmdRemapVatBank m val) s) ∧ p (exec (.svccmdRetrainChannel m val) s) ∧ p (exec (.svccmdAttest m val) s)
    let arg := val.toNat / 256 % 4096
    let kind := val.toNat / 16 % 16
    let ends := fun (o : Out) (code : Nat) => o = .next { s with svc := { s.svc with busy := false, done := true, code := code, run := none } }
    let runs := fun (o : Out) (cmd a k most : Nat) => ∃ t due, o = .next t ∧ t.svc = { s.svc with busy := true, run := some ⟨cmd, a, k, due, false⟩ } ∧
      (most ≠ 0 → s.time ≤ due ∧ due ≤ s.time + most) ∧ t.mem = s.mem
    (s.svc.busy = true → all (fun o => o = .next { s with svc := { s.svc with code := 0x01 } })) ∧
    (s.svc.busy = false → 2 ^ 20 ≤ val.toNat → all (fun o => ends o 0x05)) ∧
    (s.svc.busy = false → val.toNat < 2 ^ 20 →
      let units := if kind = 1 ∨ kind = 3 then 12 else 1
      (3 < kind ∨ 128 ≤ arg ∨ units ≤ arg % 64 → ends (exec (.svccmdUpdate m val) s) 0x05) ∧
      (kind ≤ 3 → arg < 128 → arg % 64 < units →
        let ok := imageOk (s.imageAt (64 * s.svc.addr.toNat)) kind (s.cfg.minVersions.getD kind 0)
        (s.promises = true → ends (exec (.svccmdUpdate m val) s) 0x03) ∧
        (s.promises = false → ok = false → ends (exec (.svccmdUpdate m val) s) 0x02) ∧
        (s.promises = false → ok = true → runs (exec (.svccmdUpdate m val) s) 1 arg kind 2000000000)) ∧
      (192 ≤ arg ∨ kind ≠ 0 → ends (exec (.svccmdSpareCore m val) s) 0x05) ∧
      (arg < 192 → kind = 0 → s.dev.spares (arg / 96) = 0 → ends (exec (.svccmdSpareCore m val) s) 0x04) ∧
      (arg < 192 → kind = 0 → s.dev.spares (arg / 96) ≠ 0 → runs (exec (.svccmdSpareCore m val) s) 2 arg 0 100000000000) ∧
      (2048 ≤ arg ∨ kind ≠ 0 → ends (exec (.svccmdRemapVatBank m val) s) 0x05) ∧
      (arg < 2048 → kind = 0 → runs (exec (.svccmdRemapVatBank m val) s) 3 arg 0 200000000) ∧
      (16 ≤ arg ∨ kind ≠ 0 → ends (exec (.svccmdRetrainChannel m val) s) 0x05) ∧
      (arg < 16 → kind = 0 → runs (exec (.svccmdRetrainChannel m val) s) 4 arg 0 200000000) ∧
      (kind ≠ 0 → ends (exec (.svccmdAttest m val) s) 0x05) ∧ (kind = 0 → runs (exec (.svccmdAttest m val) s) 5 arg 0 0))) ∧
  (∀ (s : State) (r : ServiceRun), s.svc.run = some r →
    let finishes := ∃ t, exec .serviceCommandDone s = .next t ∧ t.svc = { s.svc with busy := false, done := true, code := 0, run := none }
    (r.cmd = 1 → r.due ≤ s.time → s.unitQuiet r = true → finishes) ∧
    (r.cmd = 2 → s.drainedCore r.arg = true → Table.wf Core.fresh s.cores = true → ∃ t, exec .serviceCommandDone s = .next t ∧
      t.svc = { s.svc with busy := false, done := true, code := 0, run := none } ∧ t.core r.arg = Core.fresh ∧
      (∀ k, k ≠ r.arg → t.core k = s.core k) ∧ t.dev.spares (r.arg / 96) = s.dev.spares (r.arg / 96) - 1) ∧
    (3 ≤ r.cmd → r.due ≤ s.time → finishes) ∧
    (r.cmd = 2 → r.drained = false → r.due ≤ s.time → ∃ t, exec .spareDrainTimeout s = .next t ∧ t.mem = s.mem ∧
      (∀ g ∈ t.groups, g.core = r.arg → g.place = .resident → g.savePending.isSome) ∧
      t.groups.length = s.groups.length ∧ t.svc = { s.svc with run := some { r with drained := true } }))

/-- Reset: the election window opens for the time that the configuration record gives, no master owns the device, every unit whose image was refused is marked,
nothing is in flight, memory reads zero, and the registers of control space hold their reset values (R43, R46, R243, R250, R391, R414, R428, R430 to R434).
Memory is read as among the arrays that R430 zeroes (log 2); no clause states a value of log 6, log 7 or log 8. -/
def Obligations.ResetState : Prop :=
  (∀ (s : State) (flash : Flash), ∃ t, exec (.deviceReset flash) s = .next t ∧ t.own.state = .elect ∧ t.own.claims = 0 ∧ t.own.nowr = 0 ∧
    t.cfg = (flashConfig flash).getD .default ∧ t.own.windowEnd = t.cfg.electMs * 1000000000 ∧ t.frames = [] ∧ t.groups = [] ∧ t.copies = [] ∧
    (∀ pa, t.mem.read pa = 0) ∧ (∀ k, k < 5 → (t.dev.unitbad.getLsbD k = true ↔ flashAccepts flash t.cfg k = false)) ∧
    (t.dev.unitbad.getLsbD 8 = true ↔ flashConfig flash = none) ∧ t.dev.tripped = false) ∧
  (let s := State.reset
   s.own.state = .elect ∧ s.own.windowEnd = 200 * 1000000000 ∧ s.frames = [] ∧ s.groups = [] ∧ s.gu.queue = [] ∧
   (∀ pa, s.mem.read pa = 0) ∧ (∀ m, s.own.isOwner m = false) ∧
   s.readControl 0x010000 = 0 ∧ s.readControl 0x010048 = 0 ∧ s.readControl 0x010058 = 0xC0E0 ∧ s.readControl 0x010060 = 0x08000800 ∧
   (∀ k, k < 4 → s.readControl (0x010080 + 16 * k) = 0 ∧ s.readControl (0x010088 + 16 * k) = 0) ∧
   s.readControl 0x020000 = 0 ∧ s.readControl 0x020010 = 0 ∧ s.readControl 0x030000 = 0 ∧ s.readControl 0x040000 = 0 ∧
   s.readControl 0x050000 = 0 ∧ s.readControl 0x050008 = 0 ∧ s.readControl 0x050010 = 0 ∧ s.readControl 0x050040 = 0 ∧
   s.readControl 0x060008 = 0)

/-! ## Whole-machine rules -/

/-- No instruction word of a fragment changes ownership, the configuration record, the service block, the device description, the graph unit's and the event ring's
registers, the link, the inputs, time, or, of the other registers of control space, the page-table root and its enable, an invalidation, the direct pages, the base
and enable of the fault queue, the save areas, and which nets are enabled from what (R41, R45). What a word may move there, a lease's VATLS, the ring of
a net, the places of the fault queue, no clause names. -/
def Obligations.WordsLeaveControlSpace : Prop :=
  ∀ (i : Instr) (s t : State), isWord i = true → exec i s = .next t →
    t.own = s.own ∧ t.cfg = s.cfg ∧ t.svc = s.svc ∧ t.dev = s.dev ∧ t.link = s.link ∧ t.gu = s.gu ∧ t.ev = s.ev ∧ t.time = s.time ∧
    t.xl.root = s.xl.root ∧ t.xl.en = s.xl.en ∧ t.xl.inv = s.xl.inv ∧ t.xl.dropped = s.xl.dropped ∧ t.vat0.dp = s.vat0.dp ∧ t.vat1.dp = s.vat1.dp ∧
    t.fq.base = s.fq.base ∧ t.fq.en = s.fq.en ∧ t.fq.svbase0 = s.fq.svbase0 ∧ t.fq.svbase1 = s.fq.svbase1 ∧ t.inputs = s.inputs ∧
    t.nets.map (fun n => (n.en, n.daddr, n.desc)) = s.nets.map (fun n => (n.en, n.daddr, n.desc))

/-- After reset memory and the table of cores are in their canonical forms.
The form is the model's own (log 2). -/
def Obligations.ResetCanonical : Prop := Canonical State.reset

/-- Every step keeps memory and the table of cores in their canonical forms, so that equal memories are equal data (the model's own form of R238's
memory).
The form is the model's own (log 2). -/
def Obligations.StepsKeepCanonical : Prop := ∀ (s t : State), Canonical s → step s = .next t → Canonical t

/-! ## Encoding and fetching (R89 to R114, R177) -/

/-- Decoding and encoding agree: every well-formed instruction word decodes from its encoding to itself, with every operand at every value the encoding
admits; and every word that decodes to an instruction is the encoding of that instruction, which is well formed (R89 to R114). -/
def Obligations.DecodeEncode : Prop :=
  (∀ i : Instr, isWord i = true → (∀ v a c, i ≠ .copy v a c) → (∀ d, i ≠ .illegalInstruction d) → i.wellFormed = true →
    Decode.wordList (Decode.encode i) = .ok i ∧ (∀ w ∈ Decode.encode i, w < 2 ^ 32) ∧
    Decode.encode i ≠ [] ∧ (Decode.encode i).length = Decode.wordCount ((Decode.encode i).headD 0)) ∧
  (∀ (w0 w1 w2 : Nat) (i : Instr), w0 < 2 ^ 32 → w1 < 2 ^ 32 → w2 < 2 ^ 32 → Decode.words w0 w1 w2 = .ok i →
    Decode.encode i = [w0, w1, w2].take (Decode.wordCount w0) ∧ i.wellFormed = true)

/-- Words written out from the encodings of R93 to R96, and the worked encodings after R118 and R177, decode to the instructions they stand for. -/
def Obligations.DecodeWrittenWords : Prop :=
  decodeTableWord 32 0x01041080 = some (.sadd 1 1 2) ∧
  decodeTableWord 96 (0xD0C0805A + 0x1010EA05 * 2 ^ 32) = some (.vfma ⟨.v 4, .v 5, .const 2, .v 4, 3, true, .f32, 0, 1, 4, 0, 0, 0⟩) ∧
  decodeTableWord 32 0x410C4FF4 = some (.saddImm 3 4 0xFF4) ∧
  decodeTableWord 32 0x86A4000C = some (.brv 5 2 false 12) ∧
  decodeTableWord 32 0x41186400 = some (.saddImm 6 6 0x400) ∧
  decodeTableWord 32 0x50140004 = some (.sli 5 4) ∧
  decodeTableWord 64 (0x52180000 + 0x03007F10 * 2 ^ 32) = some (.sliw 6 0 0x03007F10) ∧
  decodeTableWord 32 0x180041A1 = some (.launch 4 6 true 1) ∧
  decodeTableWord 32 0x85200004 = some (.brc true 1 4) ∧
  decodeTableWord 32 0x8A02FFFD = some (.loop 5 0x7FFD) ∧
  decodeTableWord 32 0x821FFFFA = some (.bra 0x1FFFFA) ∧
  decodeTableWord 32 0x90000000 = some (.exit 0 false) ∧
  decodeTableWord 32 0x94000000 = some .yield ∧
  decodeTableWord 32 0x80000001 = none ∧
  decodeTableWord 32 0x00000000 = none

/-- A step of the device in which an instruction issues runs the instruction that its fragment fetched, on the state that issue leaves, and after it nothing is
issuing: what the instruction's meaning answers stands, unless it is to wait at issue, when nothing but the wait has changed; what it fetched is
what the words at its program counter decode to, as its core fetches them (R89, R91, R92, R128).
At the first step of a core's cycle its grants are fixed, and no register, program counter or byte of memory changes.
Which fragment issues first is by log 1, which also says that the step is a core's only when no cycle of the graph units has ended and no engine acts at the
beginning of the core's cycle (logs 18, 28 and 123); that the grants are fixed there is by log 98, that COPY is named from its address by log 22, and
when a changed word reaches a core is free (log 73). -/
def Obligations.StepRunsDecoded : Prop :=
  (∀ (s0 : State) (core : Nat) (r : Ready) (i : Instr), s0.dev.tripped = false → s0.inputs = [] → s0.firstStep s0.windowEvents = none →
    s0.graphDue = false → s0.liveCore = some core → ((s0.core core).turn = none → s0.firstStep s0.engineEvents = none) →
    let s := s0.beginTurn exec core
    s.choose core = some r → r.what = .instr i →
    step s0 = finishIssue s r (exec i (s.issueStart r)) ∧ (s.issueStart r).mem = s0.mem ∧ (s.issueStart r).time = s0.time ∧
    (∀ t, exec i (s.issueStart r) = .next t →
      ((∀ f, t.fragOf? r = some f → f.wait.unissued = false ∨ f.pc ≠ r.f.pc) → step s0 = .next (t.issued r)) ∧
      (∀ f, t.fragOf? r = some f → f.wait.unissued = true → f.pc = r.f.pc → step s0 = .next (s.heldAt r f.wait))) ∧
    (s.issueStart r).cur = some ⟨r.g.gid, r.h.id, r.f.entry⟩ ∧ (∀ t, step s0 = .next t → t.cur = none) ∧
    ∃ j, s.fetch r.g.who r.f.pc = .instr j ∧ i = r.h.named j ∧ ((∀ v a k, j ≠ .sst v a k) → i = j)) ∧
  (∀ (s : State) (core : Nat), ((s.core core).turn.isSome → s.beginTurn exec core = s) ∧
    ((s.core core).turn = none → Table.wf Core.fresh s.cores = true →
      let t := s.beginTurn exec core
      ((t.core core).turn).isSome ∧ t.mem = s.mem ∧ t.time = s.time ∧ (∀ k, k ≠ core → t.core k = s.core k) ∧
      t.core core = { s.core core with turn := (t.core core).turn } ∧
      t.groups.map (fun g => (g.gid, g.gangs.map fun h => (h.id, h.s, h.v, h.p, h.c, h.frags.map fun f => (f.entry, f.pc, f.qset, f.fmask)))) =
        s.groups.map (fun g => (g.gid, g.gangs.map fun h => (h.id, h.s, h.v, h.p, h.c, h.frags.map fun f => (f.entry, f.pc, f.qset, f.fmask)))))) ∧
  (∀ (s : State) (w : Who) (va pa a : Nat), s.checkGlobal w .fetch va 4 = .ok (pa, a) →
    (s.memErrBits pa 4 = 0 → s.fetchWord w va = .ok (s.codeWord w.core pa)) ∧ (s.memErrBits pa 4 ≠ 0 → s.fetchWord w va = .error (0x21, 0x27, va)) ∧
    ((s.caches.old = [] ∨ ∀ k, w.core = some k → s.caches.icache.contains (k, pa / 128) = false) → s.codeWord w.core pa = s.readPhys pa 4)) ∧
  (∀ (s : State) (w : Who) (pc : BitVec 54) (w0 : Nat) (j : Instr),
    s.fetchWord w (4 * pc.toNat) = .ok w0 → Decode.wordCount w0 = 1 → Decode.wordList [w0] = .ok j → s.fetch w pc = .instr j) ∧
  (∀ (s : State) (w : Who) (pc : BitVec 54) (w0 w1 : Nat) (j : Instr),
    s.fetchWord w (4 * pc.toNat) = .ok w0 → s.fetchWord w (4 * pc.toNat + 4) = .ok w1 → Decode.wordCount w0 = 2 →
    Decode.wordList [w0, w1] = .ok j → s.fetch w pc = .instr j) ∧
  (∀ (s : State) (w : Who) (pc : BitVec 54) (w0 w1 w2 : Nat) (j : Instr),
    s.fetchWord w (4 * pc.toNat) = .ok w0 → s.fetchWord w (4 * pc.toNat + 4) = .ok w1 → s.fetchWord w (4 * pc.toNat + 8) = .ok w2 →
    Decode.wordCount w0 = 3 → Decode.wordList [w0, w1, w2] = .ok j → s.fetch w pc = .instr j)
end

