-- ==== Sys2Proof/Laws/Lanes.lean ====
section
/-! SUPPORT. What the shared frame of a lane instruction does, once for every instruction that uses it. -/

namespace Sys2Proof.Machine

/-! ## What a wait leaves: all but the record of finished VTRACEs -/

theorem Gang.waited_eq (h : Gang) (set : Nat) : h.waited set = { h with traced := (h.waited set).traced } := by
  unfold Gang.waited
  split <;> rfl

@[simp] theorem Gang.waited_window (h : Gang) (set : Nat) : (h.waited set).window = h.window := by rw [Gang.waited_eq]

@[simp] theorem Gang.waited_lmask (h : Gang) (set : Nat) : (h.waited set).lmask = h.lmask := by rw [Gang.waited_eq]

@[simp] theorem Gang.waited_enabled (h : Gang) (set : Nat) (f : Fragment) : (h.waited set).enabled f = h.enabled f := by
  simp [Gang.enabled]

/-- A lane instruction that is ready runs its meaning on the issue. -/
theorem laneWord_ready (op : LOp) (ln : Lane) (far : Remote) (s : State) (c : Ctx) (k : Issue → Out) (r : LaneReady op ln far s c) :
    laneWord op ln s far k = k (laneIssue op ln far c) := by
  have hc := r.ctx
  have hl := r.legal
  simp only [laneWord, laneWordWith, withCur, hc]
  have hl' : Legal.illegal op ln ⟨some (c.issue op ln).fmt, some c.h.vcount, some c.g.tiles.length⟩ = none := hl
  simp only [hl']
  by_cases hk : c.g.chk = true
  · have h0 := r.clear hk
    have h0' : (c.issue op ln).stalled (s.core c.g.core).cycle (sources op ln (c.issue op ln).t (c.issue op ln).fmt) (far (c.issue op ln)) = none := h0
    simp [hk, h0', laneIssue, Issue.stalledIn, Issue.badIn]
  · simp [hk, laneIssue, Issue.badIn]

/-- A lane instruction that is illegal takes the trap of the lowest detail. -/
theorem laneWord_illegal (op : LOp) (ln : Lane) (far : Remote) (s : State) (c : Ctx) (k : Issue → Out) (d : Nat) (hc : s.ctx? = some c)
    (hl : Legal.illegal op ln ⟨some c.f.fmtf.toNat, some c.h.vcount, some c.g.tiles.length⟩ = some d) :
    laneWord op ln s far k = s.trap c (Trap.inGang 0x01 d (c.h.enabled c.f)) := by
  have hl' : Legal.illegal op ln ⟨some (c.issue op ln).fmt, some c.h.vcount, some c.g.tiles.length⟩ = some d := hl
  simp only [laneWord, laneWordWith, withCur, hc, hl']
  simp [Issue.enabled, Ctx.issue]

/-- A fixed-latency instruction that is ready, outside a window, leaves its writes pending and goes on. -/
theorem fixedWord_ready (op : LOp) (ln : Lane) (far : Remote) (s : State) (c : Ctx) (body : Issue → Writes × BitVec 9)
    (r : LaneReady op ln far s c) (hw : c.h.window = none) :
    fixedWord op ln s far body = fixedDone op ln far s c (body (laneIssue op ln far c)).1 (body (laneIssue op ln far c)).2 := by
  have hs : ((laneIssue op ln far c).count (s.core (laneIssue op ln far c).g.core).cycle).h.shadow
      (body (laneIssue op ln far c)).1.vregs = some ((laneIssue op ln far c).count (s.core (laneIssue op ln far c).g.core).cycle).h := by
    simp [Gang.shadow, Issue.count, laneIssue, Ctx.issue, hw]
  simp only [fixedWord, laneWord_ready op ln far s c _ r, hs]
  rfl

/-- A lane instruction whose meaning is `fixedWord` makes the writes of any body that agrees with its own on issues of that instruction. -/
theorem laneResult_of_fixed (ins : Instr) (op : LOp) (ln : Lane) (far : Remote) (body body' : Issue → Writes × BitVec 9)
    (h : ∀ s, exec ins s = fixedWord op ln s far body') (hb : ∀ i : Issue, i.ln = ln → body' i = body i) : LaneResult ins op ln far body := by
  intro s c r hw
  rw [h, fixedWord_ready op ln far s c body' r hw, hb _ rfl]

end Sys2Proof.Machine
end

