-- ==== Sys2Proof/Laws/Table.lean ====
section
/-! SUPPORT. The laws of sorted tables: a read after a write, and the canonical form that a write keeps. Memory is such a table. -/

namespace Sys2Proof.Machine

variable {V : Type} [DecidableEq V]

theorem Table.wfFrom_mono (d : V) (t : Table V) (a b : Nat) (hab : a ≤ b) (h : Table.wfFrom d b t = true) : Table.wfFrom d a t = true := by
  cases t with
  | nil => rfl
  | cons e t =>
    simp only [Table.wfFrom, Bool.and_eq_true, decide_eq_true_eq] at *
    exact ⟨⟨by omega, h.1.2⟩, h.2⟩

theorem Table.get_below (d : V) (t : Table V) (a k : Nat) (h : Table.wfFrom d a t = true) (hk : k < a) : Table.get d t k = d := by
  cases t with
  | nil => rfl
  | cons e t =>
    simp only [Table.wfFrom, Bool.and_eq_true, decide_eq_true_eq] at h
    simp only [Table.get]
    rw [if_neg (by omega), if_neg (by omega)]

/-- A write leaves every other key alone. -/
theorem Table.get_set_other (d : V) (t : Table V) (k q : Nat) (v : V) (lo : Nat) (h : Table.wfFrom d lo t = true) (hn : k ≠ q) :
    Table.get d (Table.set d t k v) q = Table.get d t q := by
  induction t generalizing lo with
  | nil => simp only [Table.set]; split <;> simp [Table.get, hn]
  | cons e t ih =>
    simp only [Table.wfFrom, Bool.and_eq_true, decide_eq_true_eq] at h
    simp only [Table.set]
    split
    · simp only [Table.get]
      split
      · rfl
      · split
        · exact ih _ h.2
        · rfl
    · split
      · rename_i h1 h2
        subst h2
        split
        · simp only [Table.get, if_neg hn]
          split
          · rfl
          · exact Table.get_below d t _ q h.2 (by omega)
        · simp only [Table.get, if_neg hn]
      · split
        · rfl
        · simp only [Table.get, if_neg hn]
          split
          · rfl
          · rw [if_neg (by omega), if_neg (by omega)]

/-- A read of a key gives what was written to it. -/
theorem Table.get_set_same (d : V) (t : Table V) (k : Nat) (v : V) (lo : Nat) (h : Table.wfFrom d lo t = true) :
    Table.get d (Table.set d t k v) k = v := by
  induction t generalizing lo with
  | nil => simp only [Table.set]; split <;> simp_all [Table.get]
  | cons e t ih =>
    simp only [Table.wfFrom, Bool.and_eq_true, decide_eq_true_eq] at h
    simp only [Table.set]
    split
    · simp only [Table.get]
      rw [if_neg (by omega), if_pos (by omega)]
      exact ih _ h.2
    · split
      · rename_i hk
        split
        · rename_i hv
          rw [hv, Table.get_below d t _ k h.2 (by omega)]
        · simp [Table.get]
      · split
        · rename_i hv
          simp only [Table.get]
          rw [if_neg (by omega), if_neg (by omega), hv]
        · simp [Table.get]

theorem Table.wfFrom_set (d : V) (t : Table V) (k : Nat) (v : V) (lo : Nat) (h : Table.wfFrom d lo t = true) (hk : lo ≤ k) :
    Table.wfFrom d lo (Table.set d t k v) = true := by
  induction t generalizing lo with
  | nil => simp only [Table.set]; split <;> simp_all [Table.wfFrom]
  | cons e t ih =>
    simp only [Table.wfFrom, Bool.and_eq_true, decide_eq_true_eq] at h
    simp only [Table.set]
    split
    · simp only [Table.wfFrom, Bool.and_eq_true, decide_eq_true_eq]
      exact ⟨h.1, ih _ h.2 (by omega)⟩
    · split
      · rename_i hk'
        split
        · exact Table.wfFrom_mono _ _ _ _ (by omega) h.2
        · rename_i hv
          simp only [Table.wfFrom, Bool.and_eq_true, decide_eq_true_eq]
          exact ⟨⟨hk, hv⟩, hk' ▸ h.2⟩
      · split
        · simp only [Table.wfFrom, Bool.and_eq_true, decide_eq_true_eq]
          exact h
        · rename_i hv
          simp only [Table.wfFrom, Bool.and_eq_true, decide_eq_true_eq]
          exact ⟨⟨hk, hv⟩, ⟨by omega, h.1.2⟩, h.2⟩

/-- A write keeps the canonical form. -/
theorem Table.wf_set (d : V) (t : Table V) (k : Nat) (v : V) (h : Table.wf d t = true) : Table.wf d (Table.set d t k v) = true :=
  Table.wfFrom_set d t k v 0 h (Nat.zero_le k)

theorem Table.wfFrom_filter (d : V) (p : Nat × V → Bool) (t : Table V) (lo : Nat) (h : Table.wfFrom d lo t = true) :
    Table.wfFrom d lo (List.filter p t) = true := by
  induction t generalizing lo with
  | nil => rfl
  | cons e t ih =>
    simp only [Table.wfFrom, Bool.and_eq_true, decide_eq_true_eq] at h
    simp only [List.filter]
    split
    · simp only [Table.wfFrom, Bool.and_eq_true, decide_eq_true_eq]
      exact ⟨h.1, ih _ h.2⟩
    · exact Table.wfFrom_mono _ _ _ _ (by omega) (ih _ h.2)

/-- Dropping entries keeps the canonical form. -/
theorem Table.wf_filter (d : V) (p : Nat × V → Bool) (t : Table V) (h : Table.wf d t = true) : Table.wf d (List.filter p t) = true :=
  Table.wfFrom_filter d p t 0 h

/-- Memory after a write of one byte. -/
theorem Memory.wf_write (m : Memory) (pa : Nat) (b : Byte) (h : m.wf = true) : (m.write pa b).wf = true := Table.wf_set _ m pa b h

/-- Memory after a write of bytes. -/
theorem Memory.wf_writeL (bs : List Byte) (m : Memory) (pa : Nat) (h : m.wf = true) : (m.writeL pa bs).wf = true := by
  induction bs generalizing m pa with
  | nil => exact h
  | cons b bs ih => exact ih _ _ (Memory.wf_write m pa b h)

theorem Memory.read_write_same (m : Memory) (pa : Nat) (b : Byte) (h : m.wf = true) : (m.write pa b).read pa = b :=
  Table.get_set_same _ m pa b 0 h

theorem Memory.read_write_other (m : Memory) (pa q : Nat) (b : Byte) (h : m.wf = true) (hn : pa ≠ q) : (m.write pa b).read q = m.read q :=
  Table.get_set_other _ m pa q b 0 h hn

/-- Bytes outside a written run are unchanged. -/
theorem Memory.read_writeL_other (bs : List Byte) (m : Memory) (pa q : Nat) (h : m.wf = true) (hn : q < pa ∨ pa + bs.length ≤ q) :
    (m.writeL pa bs).read q = m.read q := by
  induction bs generalizing m pa with
  | nil => rfl
  | cons b bs ih =>
    simp only [List.length_cons] at hn
    rw [Memory.writeL, ih _ _ (Memory.wf_write m pa b h) (by omega)]
    exact Memory.read_write_other m pa q b h (by omega)

/-- Byte k of a written run reads as what was written. -/
theorem Memory.read_writeL (bs : List Byte) (m : Memory) (pa k : Nat) (h : m.wf = true) (hk : k < bs.length) :
    (m.writeL pa bs).read (pa + k) = bs[k] := by
  induction bs generalizing m pa k with
  | nil => simp at hk
  | cons b bs ih =>
    rw [Memory.writeL]
    cases k with
    | zero =>
      rw [Nat.add_zero, Memory.read_writeL_other _ _ _ _ (Memory.wf_write m pa b h) (by omega)]
      exact Memory.read_write_same m pa b h
    | succ k =>
      simp only [List.length_cons] at hk
      have := ih (m.write pa b) (pa + 1) k (Memory.wf_write m pa b h) (by omega)
      rw [show pa + (k + 1) = pa + 1 + k by omega, this]
      rfl

end Sys2Proof.Machine
end

