-- ==== Sys2Proof/Laws/Memory.lean ====
section
/-! SUPPORT. What the operations that write physical memory do to it, once each: the bytes they store, and nothing else; and what waking,
rolling back and taking an exception leave of it. -/

namespace Sys2Proof.Machine

/-- A fold of steps that keep memory keeps it. -/
theorem foldl_mem {A : Type} (l : List A) (f : State → A → State) (s : State) (h : ∀ u a, (f u a).mem = u.mem) : (l.foldl f s).mem = s.mem := by
  induction l generalizing s with
  | nil => rfl
  | cons a l ih => rw [List.foldl_cons, ih, h]

/-- Waking changes no byte. -/
@[simp] theorem State.wakeMem_mem (s : State) (pa n : Nat) : (s.wakeMem pa n).mem = s.mem := rfl

/-- Nor does a launcher that takes a freed entry (R62). -/
@[simp] theorem State.wakeLauncher_mem (s : State) (st : Nat) : (s.wakeLauncher st).mem = s.mem := by
  unfold State.wakeLauncher
  dsimp only
  split
  · rfl
  · split <;> rfl

@[simp] theorem State.freeLaunches_mem (s : State) (gone : LaunchEntry → Bool) : (s.freeLaunches gone).mem = s.mem :=
  foldl_mem _ _ _ fun _ _ => State.wakeLauncher_mem _ _

@[simp] theorem State.cancelTentative_mem (s : State) (gid gang : Nat) : (s.cancelTentative gid gang).mem = s.mem :=
  State.freeLaunches_mem _ _

/-- A rollback changes no byte (R369). -/
@[simp] theorem State.rollback_mem (s : State) (gid gang : Nat) : (s.rollback gid gang).mem = s.mem := by
  unfold State.rollback
  split <;> try rfl
  split <;> try rfl
  split <;> try rfl
  exact State.cancelTentative_mem _ _ _

/-- Nor do the rollbacks of a conflict. -/
@[simp] theorem State.rollbackWhere_mem (s : State) (agent : Option (Nat × Nat)) (bad : Group → Window → Bool) :
    (s.rollbackWhere agent bad).mem = s.mem := by
  unfold State.rollbackWhere
  refine foldl_mem _ _ _ fun u g => foldl_mem _ _ _ fun w h => ?_
  split
  · rfl
  · split
    · exact State.rollback_mem _ _ _
    · rfl

@[simp] theorem State.conflict_mem (s : State) (agent : Option (Nat × Nat)) (pa n : Nat) (w : Bool) : (s.conflict agent pa n w).mem = s.mem :=
  State.rollbackWhere_mem _ _ _

@[simp] theorem State.sconflict_mem (s : State) (agent : Option (Nat × Nat)) (core a n : Nat) (w : Bool) :
    (s.sconflict agent core a n w).mem = s.mem := State.rollbackWhere_mem _ _ _

/-- A write of bytes stores them, and nothing else (R359). -/
@[simp] theorem State.pokes_mem (s : State) (pa : Nat) (bs : List Byte) : (s.pokes pa bs).mem = s.mem.writeL pa bs := rfl

@[simp] theorem State.poke_mem (s : State) (agent : Option (Nat × Nat)) (pa : Nat) (bs : List Byte) :
    (s.poke agent pa bs).mem = s.mem.writeL pa bs := by
  rw [State.poke, State.pokes_mem, State.conflict_mem]

/-! ## What accesses leave beside the bytes: translations, the L1s, wake-ups -/

@[simp] theorem State.wakeArray_mem (s : State) (a : GatedArray) : (s.wakeArray a).mem = s.mem := by
  unfold State.wakeArray
  split <;> rfl

@[simp] theorem State.touchBanks_mem (s : State) (pa n : Nat) : (s.touchBanks pa n).mem = s.mem := by
  unfold State.touchBanks
  split
  · rfl
  · exact foldl_mem _ _ _ State.wakeArray_mem

@[simp] theorem State.touchWays_mem (s : State) (core : Nat) (lines : List Nat) : (s.touchWays core lines).mem = s.mem := by
  unfold State.touchWays
  split
  · rfl
  · exact foldl_mem _ _ _ fun u l => State.wakeArray_mem u _

@[simp] theorem State.touchWalk_mem (s : State) (va : Nat) : (s.touchWalk va).mem = s.mem := by
  unfold State.touchWalk
  split
  · rfl
  · exact foldl_mem _ _ _ fun u pa => State.touchBanks_mem u pa 8

@[simp] theorem State.noteWalk_mem (s : State) (w : Who) (va : Nat) : (s.noteWalk w va).mem = s.mem := by
  unfold State.noteWalk
  dsimp only
  split
  · rfl
  · split
    · exact State.touchWalk_mem s va
    · exact State.touchWalk_mem s va

@[simp] theorem State.recall_mem (s : State) (pa n : Nat) : (s.recall pa n).mem = s.mem := State.touchBanks_mem s pa n

@[simp] theorem State.readHome_mem (s : State) (pa n : Nat) : (s.readHome pa n).mem = s.mem := State.touchBanks_mem s pa n

@[simp] theorem State.l1Load_mem (s : State) (core attr pa n : Nat) : (s.l1Load core attr pa n).mem = s.mem := by
  simp only [State.l1Load, State.touchBanks_mem]
  split
  · rfl
  · exact State.touchWays_mem _ _ _

@[simp] theorem State.l1Store_mem (s : State) (core attr pa n : Nat) : (s.l1Store core attr pa n).mem = s.mem := by
  simp only [State.l1Store, State.touchBanks_mem]
  split
  · rfl
  · exact State.touchWays_mem _ _ _

/-- A write by an agent of the device stores its bytes, or nothing in control space (R41). -/
theorem State.writePhys_mem (s : State) (agent : Option (Nat × Nat)) (pa : Nat) (bs : List Byte) :
    (s.writePhys agent pa bs).mem = if regionOf pa = .control then s.mem else s.mem.writeL pa bs := by
  unfold State.writePhys
  split
  · rfl
  · rw [State.poke_mem]
    split
    · rw [State.recall_mem]
    · rw [State.touchBanks_mem]

/-- It keeps the canonical form. -/
theorem State.writePhys_wf (s : State) (agent : Option (Nat × Nat)) (pa : Nat) (bs : List Byte) (h : s.mem.wf = true) :
    (s.writePhys agent pa bs).mem.wf = true := by
  rw [State.writePhys_mem]
  split
  · exact h
  · exact Memory.wf_writeL _ _ _ h

/-- And leaves every byte outside its range. -/
theorem State.writePhys_other (s : State) (agent : Option (Nat × Nat)) (pa q : Nat) (bs : List Byte) (h : s.mem.wf = true)
    (hq : q < pa ∨ pa + bs.length ≤ q) : (s.writePhys agent pa bs).mem.read q = s.mem.read q := by
  rw [State.writePhys_mem]
  split
  · rfl
  · exact Memory.read_writeL_other _ _ _ _ h hq

/-- A write of scratchpad bytes stores nothing to memory. -/
@[simp] theorem State.spoke_mem (s : State) (agent : Option (Nat × Nat)) (core a : Nat) (bs : List Byte) :
    (s.spoke agent core a bs).mem = s.mem := State.sconflict_mem _ _ _ _ _ _

/-! ## Taking an exception -/

@[simp] theorem State.passAny_mem (s : State) (core : Nat) : (s.passAny core).mem = s.mem := by
  unfold State.passAny
  dsimp only
  split <;> rfl

@[simp] theorem State.leaveBaton_mem (s : State) (core gid gang : Nat) : (s.leaveBaton core gid gang).mem = s.mem := by
  unfold State.leaveBaton
  dsimp only
  split
  · exact State.passAny_mem _ _
  · rfl

/-- A group that leaves its core changes no byte of memory. -/
@[simp] theorem State.releaseCore_mem (s : State) (g : Group) (keep : Bool) : (s.releaseCore g keep).mem = s.mem :=
  foldl_mem _ _ _ fun _ _ => State.leaveBaton_mem _ _ _ _

@[simp] theorem State.killRecTile_mem (s : State) (t : TileRef) : (s.killRecTile t).mem = s.mem := by
  refine (State.freeLaunches_mem _ _).trans (foldl_mem _ _ _ fun u g => ?_)
  split
  · exact State.releaseCore_mem _ g false
  · rfl

@[simp] theorem State.ownerRoute_mem (s : State) (g : Group) (h : Gang) : (s.ownerRoute g h).mem = s.mem := by
  unfold State.ownerRoute
  dsimp only
  split
  · rfl
  · exact State.killRecTile_mem _ _

/-- Taking an exception changes no byte of memory (R384, R387, R390). -/
@[simp] theorem State.takeTrap_mem (s : State) (g : Group) (h : Gang) (f : Fragment) (pc : BitVec 54) (t : Trap) :
    (s.takeTrap g h f pc t).mem = s.mem := by
  unfold State.takeTrap
  dsimp only
  split
  · exact State.ownerRoute_mem _ _ _
  · rfl

end Sys2Proof.Machine
end

