-- ==== Sys2Proof/Laws/State.lean ====
section
/-! SUPPORT. What each update of State leaves as it was, field by field; and how a group, a gang and a fragment are found again after they
are put back. -/

namespace Sys2Proof.Machine


/-! ### setGroup -/

@[simp] theorem State.setGroup_time (s : State) (g : Group) : (s.setGroup g).time = s.time := rfl
@[simp] theorem State.setGroup_own (s : State) (g : Group) : (s.setGroup g).own = s.own := rfl
@[simp] theorem State.setGroup_cfg (s : State) (g : Group) : (s.setGroup g).cfg = s.cfg := rfl
@[simp] theorem State.setGroup_gu (s : State) (g : Group) : (s.setGroup g).gu = s.gu := rfl
@[simp] theorem State.setGroup_frames (s : State) (g : Group) : (s.setGroup g).frames = s.frames := rfl
@[simp] theorem State.setGroup_frameCount (s : State) (g : Group) : (s.setGroup g).frameCount = s.frameCount := rfl
@[simp] theorem State.setGroup_rings (s : State) (g : Group) : (s.setGroup g).rings = s.rings := rfl
@[simp] theorem State.setGroup_reserved (s : State) (g : Group) : (s.setGroup g).reserved = s.reserved := rfl
@[simp] theorem State.setGroup_launches (s : State) (g : Group) : (s.setGroup g).launches = s.launches := rfl
@[simp] theorem State.setGroup_history (s : State) (g : Group) : (s.setGroup g).history = s.history := rfl
@[simp] theorem State.setGroup_gidCount (s : State) (g : Group) : (s.setGroup g).gidCount = s.gidCount := rfl
@[simp] theorem State.setGroup_handles (s : State) (g : Group) : (s.setGroup g).handles = s.handles := rfl
@[simp] theorem State.setGroup_handleCount (s : State) (g : Group) : (s.setGroup g).handleCount = s.handleCount := rfl
@[simp] theorem State.setGroup_cores (s : State) (g : Group) : (s.setGroup g).cores = s.cores := rfl
@[simp] theorem State.setGroup_mem (s : State) (g : Group) : (s.setGroup g).mem = s.mem := rfl
@[simp] theorem State.setGroup_memErr (s : State) (g : Group) : (s.setGroup g).memErr = s.memErr := rfl
@[simp] theorem State.setGroup_caches (s : State) (g : Group) : (s.setGroup g).caches = s.caches := rfl
@[simp] theorem State.setGroup_xl (s : State) (g : Group) : (s.setGroup g).xl = s.xl := rfl
@[simp] theorem State.setGroup_vat0 (s : State) (g : Group) : (s.setGroup g).vat0 = s.vat0 := rfl
@[simp] theorem State.setGroup_vat1 (s : State) (g : Group) : (s.setGroup g).vat1 = s.vat1 := rfl
@[simp] theorem State.setGroup_bankQ (s : State) (g : Group) : (s.setGroup g).bankQ = s.bankQ := rfl
@[simp] theorem State.setGroup_copies (s : State) (g : Group) : (s.setGroup g).copies = s.copies := rfl
@[simp] theorem State.setGroup_idCount (s : State) (g : Group) : (s.setGroup g).idCount = s.idCount := rfl
@[simp] theorem State.setGroup_nets (s : State) (g : Group) : (s.setGroup g).nets = s.nets := rfl
@[simp] theorem State.setGroup_recTiles (s : State) (g : Group) : (s.setGroup g).recTiles = s.recTiles := rfl
@[simp] theorem State.setGroup_colls (s : State) (g : Group) : (s.setGroup g).colls = s.colls := rfl
@[simp] theorem State.setGroup_rays (s : State) (g : Group) : (s.setGroup g).rays = s.rays := rfl
@[simp] theorem State.setGroup_treelets (s : State) (g : Group) : (s.setGroup g).treelets = s.treelets := rfl
@[simp] theorem State.setGroup_fq (s : State) (g : Group) : (s.setGroup g).fq = s.fq := rfl
@[simp] theorem State.setGroup_ev (s : State) (g : Group) : (s.setGroup g).ev = s.ev := rfl
@[simp] theorem State.setGroup_svc (s : State) (g : Group) : (s.setGroup g).svc = s.svc := rfl
@[simp] theorem State.setGroup_dev (s : State) (g : Group) : (s.setGroup g).dev = s.dev := rfl
@[simp] theorem State.setGroup_link (s : State) (g : Group) : (s.setGroup g).link = s.link := rfl
@[simp] theorem State.setGroup_decrements (s : State) (g : Group) : (s.setGroup g).decrements = s.decrements := rfl
@[simp] theorem State.setGroup_irqs (s : State) (g : Group) : (s.setGroup g).irqs = s.irqs := rfl
@[simp] theorem State.setGroup_loading (s : State) (g : Group) : (s.setGroup g).loading = s.loading := rfl
@[simp] theorem State.setGroup_recalCount (s : State) (g : Group) : (s.setGroup g).recalCount = s.recalCount := rfl
@[simp] theorem State.setGroup_waking (s : State) (g : Group) : (s.setGroup g).waking = s.waking := rfl
@[simp] theorem State.setGroup_cur (s : State) (g : Group) : (s.setGroup g).cur = s.cur := rfl
@[simp] theorem State.setGroup_inputs (s : State) (g : Group) : (s.setGroup g).inputs = s.inputs := rfl
@[simp] theorem State.setGroup_free (s : State) (g : Group) : (s.setGroup g).free = s.free := rfl

/-! ### put -/

@[simp] theorem State.put_time (s : State) (g : Group) (h : Gang) (f : Fragment) : (s.put g h f).time = s.time := rfl
@[simp] theorem State.put_own (s : State) (g : Group) (h : Gang) (f : Fragment) : (s.put g h f).own = s.own := rfl
@[simp] theorem State.put_cfg (s : State) (g : Group) (h : Gang) (f : Fragment) : (s.put g h f).cfg = s.cfg := rfl
@[simp] theorem State.put_gu (s : State) (g : Group) (h : Gang) (f : Fragment) : (s.put g h f).gu = s.gu := rfl
@[simp] theorem State.put_frames (s : State) (g : Group) (h : Gang) (f : Fragment) : (s.put g h f).frames = s.frames := rfl
@[simp] theorem State.put_frameCount (s : State) (g : Group) (h : Gang) (f : Fragment) : (s.put g h f).frameCount = s.frameCount := rfl
@[simp] theorem State.put_rings (s : State) (g : Group) (h : Gang) (f : Fragment) : (s.put g h f).rings = s.rings := rfl
@[simp] theorem State.put_reserved (s : State) (g : Group) (h : Gang) (f : Fragment) : (s.put g h f).reserved = s.reserved := rfl
@[simp] theorem State.put_launches (s : State) (g : Group) (h : Gang) (f : Fragment) : (s.put g h f).launches = s.launches := rfl
@[simp] theorem State.put_history (s : State) (g : Group) (h : Gang) (f : Fragment) : (s.put g h f).history = s.history := rfl
@[simp] theorem State.put_gidCount (s : State) (g : Group) (h : Gang) (f : Fragment) : (s.put g h f).gidCount = s.gidCount := rfl
@[simp] theorem State.put_handles (s : State) (g : Group) (h : Gang) (f : Fragment) : (s.put g h f).handles = s.handles := rfl
@[simp] theorem State.put_handleCount (s : State) (g : Group) (h : Gang) (f : Fragment) : (s.put g h f).handleCount = s.handleCount := rfl
@[simp] theorem State.put_cores (s : State) (g : Group) (h : Gang) (f : Fragment) : (s.put g h f).cores = s.cores := rfl
@[simp] theorem State.put_mem (s : State) (g : Group) (h : Gang) (f : Fragment) : (s.put g h f).mem = s.mem := rfl
@[simp] theorem State.put_memErr (s : State) (g : Group) (h : Gang) (f : Fragment) : (s.put g h f).memErr = s.memErr := rfl
@[simp] theorem State.put_caches (s : State) (g : Group) (h : Gang) (f : Fragment) : (s.put g h f).caches = s.caches := rfl
@[simp] theorem State.put_xl (s : State) (g : Group) (h : Gang) (f : Fragment) : (s.put g h f).xl = s.xl := rfl
@[simp] theorem State.put_vat0 (s : State) (g : Group) (h : Gang) (f : Fragment) : (s.put g h f).vat0 = s.vat0 := rfl
@[simp] theorem State.put_vat1 (s : State) (g : Group) (h : Gang) (f : Fragment) : (s.put g h f).vat1 = s.vat1 := rfl
@[simp] theorem State.put_bankQ (s : State) (g : Group) (h : Gang) (f : Fragment) : (s.put g h f).bankQ = s.bankQ := rfl
@[simp] theorem State.put_copies (s : State) (g : Group) (h : Gang) (f : Fragment) : (s.put g h f).copies = s.copies := rfl
@[simp] theorem State.put_idCount (s : State) (g : Group) (h : Gang) (f : Fragment) : (s.put g h f).idCount = s.idCount := rfl
@[simp] theorem State.put_nets (s : State) (g : Group) (h : Gang) (f : Fragment) : (s.put g h f).nets = s.nets := rfl
@[simp] theorem State.put_recTiles (s : State) (g : Group) (h : Gang) (f : Fragment) : (s.put g h f).recTiles = s.recTiles := rfl
@[simp] theorem State.put_colls (s : State) (g : Group) (h : Gang) (f : Fragment) : (s.put g h f).colls = s.colls := rfl
@[simp] theorem State.put_rays (s : State) (g : Group) (h : Gang) (f : Fragment) : (s.put g h f).rays = s.rays := rfl
@[simp] theorem State.put_treelets (s : State) (g : Group) (h : Gang) (f : Fragment) : (s.put g h f).treelets = s.treelets := rfl
@[simp] theorem State.put_fq (s : State) (g : Group) (h : Gang) (f : Fragment) : (s.put g h f).fq = s.fq := rfl
@[simp] theorem State.put_ev (s : State) (g : Group) (h : Gang) (f : Fragment) : (s.put g h f).ev = s.ev := rfl
@[simp] theorem State.put_svc (s : State) (g : Group) (h : Gang) (f : Fragment) : (s.put g h f).svc = s.svc := rfl
@[simp] theorem State.put_dev (s : State) (g : Group) (h : Gang) (f : Fragment) : (s.put g h f).dev = s.dev := rfl
@[simp] theorem State.put_link (s : State) (g : Group) (h : Gang) (f : Fragment) : (s.put g h f).link = s.link := rfl
@[simp] theorem State.put_decrements (s : State) (g : Group) (h : Gang) (f : Fragment) : (s.put g h f).decrements = s.decrements := rfl
@[simp] theorem State.put_irqs (s : State) (g : Group) (h : Gang) (f : Fragment) : (s.put g h f).irqs = s.irqs := rfl
@[simp] theorem State.put_loading (s : State) (g : Group) (h : Gang) (f : Fragment) : (s.put g h f).loading = s.loading := rfl
@[simp] theorem State.put_recalCount (s : State) (g : Group) (h : Gang) (f : Fragment) : (s.put g h f).recalCount = s.recalCount := rfl
@[simp] theorem State.put_waking (s : State) (g : Group) (h : Gang) (f : Fragment) : (s.put g h f).waking = s.waking := rfl
@[simp] theorem State.put_cur (s : State) (g : Group) (h : Gang) (f : Fragment) : (s.put g h f).cur = s.cur := rfl
@[simp] theorem State.put_inputs (s : State) (g : Group) (h : Gang) (f : Fragment) : (s.put g h f).inputs = s.inputs := rfl
@[simp] theorem State.put_free (s : State) (g : Group) (h : Gang) (f : Fragment) : (s.put g h f).free = s.free := rfl

/-! ### updGang -/

@[simp] theorem State.updGang_time (s : State) (gid gang : Nat) (f : Gang → Gang) : (s.updGang gid gang f).time = s.time := rfl
@[simp] theorem State.updGang_own (s : State) (gid gang : Nat) (f : Gang → Gang) : (s.updGang gid gang f).own = s.own := rfl
@[simp] theorem State.updGang_cfg (s : State) (gid gang : Nat) (f : Gang → Gang) : (s.updGang gid gang f).cfg = s.cfg := rfl
@[simp] theorem State.updGang_gu (s : State) (gid gang : Nat) (f : Gang → Gang) : (s.updGang gid gang f).gu = s.gu := rfl
@[simp] theorem State.updGang_frames (s : State) (gid gang : Nat) (f : Gang → Gang) : (s.updGang gid gang f).frames = s.frames := rfl
@[simp] theorem State.updGang_frameCount (s : State) (gid gang : Nat) (f : Gang → Gang) : (s.updGang gid gang f).frameCount = s.frameCount := rfl
@[simp] theorem State.updGang_rings (s : State) (gid gang : Nat) (f : Gang → Gang) : (s.updGang gid gang f).rings = s.rings := rfl
@[simp] theorem State.updGang_reserved (s : State) (gid gang : Nat) (f : Gang → Gang) : (s.updGang gid gang f).reserved = s.reserved := rfl
@[simp] theorem State.updGang_launches (s : State) (gid gang : Nat) (f : Gang → Gang) : (s.updGang gid gang f).launches = s.launches := rfl
@[simp] theorem State.updGang_history (s : State) (gid gang : Nat) (f : Gang → Gang) : (s.updGang gid gang f).history = s.history := rfl
@[simp] theorem State.updGang_gidCount (s : State) (gid gang : Nat) (f : Gang → Gang) : (s.updGang gid gang f).gidCount = s.gidCount := rfl
@[simp] theorem State.updGang_handles (s : State) (gid gang : Nat) (f : Gang → Gang) : (s.updGang gid gang f).handles = s.handles := rfl
@[simp] theorem State.updGang_handleCount (s : State) (gid gang : Nat) (f : Gang → Gang) : (s.updGang gid gang f).handleCount = s.handleCount := rfl
@[simp] theorem State.updGang_cores (s : State) (gid gang : Nat) (f : Gang → Gang) : (s.updGang gid gang f).cores = s.cores := rfl
@[simp] theorem State.updGang_mem (s : State) (gid gang : Nat) (f : Gang → Gang) : (s.updGang gid gang f).mem = s.mem := rfl
@[simp] theorem State.updGang_memErr (s : State) (gid gang : Nat) (f : Gang → Gang) : (s.updGang gid gang f).memErr = s.memErr := rfl
@[simp] theorem State.updGang_caches (s : State) (gid gang : Nat) (f : Gang → Gang) : (s.updGang gid gang f).caches = s.caches := rfl
@[simp] theorem State.updGang_xl (s : State) (gid gang : Nat) (f : Gang → Gang) : (s.updGang gid gang f).xl = s.xl := rfl
@[simp] theorem State.updGang_vat0 (s : State) (gid gang : Nat) (f : Gang → Gang) : (s.updGang gid gang f).vat0 = s.vat0 := rfl
@[simp] theorem State.updGang_vat1 (s : State) (gid gang : Nat) (f : Gang → Gang) : (s.updGang gid gang f).vat1 = s.vat1 := rfl
@[simp] theorem State.updGang_bankQ (s : State) (gid gang : Nat) (f : Gang → Gang) : (s.updGang gid gang f).bankQ = s.bankQ := rfl
@[simp] theorem State.updGang_copies (s : State) (gid gang : Nat) (f : Gang → Gang) : (s.updGang gid gang f).copies = s.copies := rfl
@[simp] theorem State.updGang_idCount (s : State) (gid gang : Nat) (f : Gang → Gang) : (s.updGang gid gang f).idCount = s.idCount := rfl
@[simp] theorem State.updGang_nets (s : State) (gid gang : Nat) (f : Gang → Gang) : (s.updGang gid gang f).nets = s.nets := rfl
@[simp] theorem State.updGang_recTiles (s : State) (gid gang : Nat) (f : Gang → Gang) : (s.updGang gid gang f).recTiles = s.recTiles := rfl
@[simp] theorem State.updGang_colls (s : State) (gid gang : Nat) (f : Gang → Gang) : (s.updGang gid gang f).colls = s.colls := rfl
@[simp] theorem State.updGang_rays (s : State) (gid gang : Nat) (f : Gang → Gang) : (s.updGang gid gang f).rays = s.rays := rfl
@[simp] theorem State.updGang_treelets (s : State) (gid gang : Nat) (f : Gang → Gang) : (s.updGang gid gang f).treelets = s.treelets := rfl
@[simp] theorem State.updGang_fq (s : State) (gid gang : Nat) (f : Gang → Gang) : (s.updGang gid gang f).fq = s.fq := rfl
@[simp] theorem State.updGang_ev (s : State) (gid gang : Nat) (f : Gang → Gang) : (s.updGang gid gang f).ev = s.ev := rfl
@[simp] theorem State.updGang_svc (s : State) (gid gang : Nat) (f : Gang → Gang) : (s.updGang gid gang f).svc = s.svc := rfl
@[simp] theorem State.updGang_dev (s : State) (gid gang : Nat) (f : Gang → Gang) : (s.updGang gid gang f).dev = s.dev := rfl
@[simp] theorem State.updGang_link (s : State) (gid gang : Nat) (f : Gang → Gang) : (s.updGang gid gang f).link = s.link := rfl
@[simp] theorem State.updGang_decrements (s : State) (gid gang : Nat) (f : Gang → Gang) : (s.updGang gid gang f).decrements = s.decrements := rfl
@[simp] theorem State.updGang_irqs (s : State) (gid gang : Nat) (f : Gang → Gang) : (s.updGang gid gang f).irqs = s.irqs := rfl
@[simp] theorem State.updGang_loading (s : State) (gid gang : Nat) (f : Gang → Gang) : (s.updGang gid gang f).loading = s.loading := rfl
@[simp] theorem State.updGang_recalCount (s : State) (gid gang : Nat) (f : Gang → Gang) : (s.updGang gid gang f).recalCount = s.recalCount := rfl
@[simp] theorem State.updGang_waking (s : State) (gid gang : Nat) (f : Gang → Gang) : (s.updGang gid gang f).waking = s.waking := rfl
@[simp] theorem State.updGang_cur (s : State) (gid gang : Nat) (f : Gang → Gang) : (s.updGang gid gang f).cur = s.cur := rfl
@[simp] theorem State.updGang_inputs (s : State) (gid gang : Nat) (f : Gang → Gang) : (s.updGang gid gang f).inputs = s.inputs := rfl
@[simp] theorem State.updGang_free (s : State) (gid gang : Nat) (f : Gang → Gang) : (s.updGang gid gang f).free = s.free := rfl

/-! ### setBytes -/

@[simp] theorem State.setBytes_time (s : State) (pa : Nat) (bs : List Byte) : (s.setBytes pa bs).time = s.time := rfl
@[simp] theorem State.setBytes_own (s : State) (pa : Nat) (bs : List Byte) : (s.setBytes pa bs).own = s.own := rfl
@[simp] theorem State.setBytes_cfg (s : State) (pa : Nat) (bs : List Byte) : (s.setBytes pa bs).cfg = s.cfg := rfl
@[simp] theorem State.setBytes_gu (s : State) (pa : Nat) (bs : List Byte) : (s.setBytes pa bs).gu = s.gu := rfl
@[simp] theorem State.setBytes_frames (s : State) (pa : Nat) (bs : List Byte) : (s.setBytes pa bs).frames = s.frames := rfl
@[simp] theorem State.setBytes_frameCount (s : State) (pa : Nat) (bs : List Byte) : (s.setBytes pa bs).frameCount = s.frameCount := rfl
@[simp] theorem State.setBytes_rings (s : State) (pa : Nat) (bs : List Byte) : (s.setBytes pa bs).rings = s.rings := rfl
@[simp] theorem State.setBytes_reserved (s : State) (pa : Nat) (bs : List Byte) : (s.setBytes pa bs).reserved = s.reserved := rfl
@[simp] theorem State.setBytes_launches (s : State) (pa : Nat) (bs : List Byte) : (s.setBytes pa bs).launches = s.launches := rfl
@[simp] theorem State.setBytes_history (s : State) (pa : Nat) (bs : List Byte) : (s.setBytes pa bs).history = s.history := rfl
@[simp] theorem State.setBytes_groups (s : State) (pa : Nat) (bs : List Byte) : (s.setBytes pa bs).groups = s.groups := rfl
@[simp] theorem State.setBytes_gidCount (s : State) (pa : Nat) (bs : List Byte) : (s.setBytes pa bs).gidCount = s.gidCount := rfl
@[simp] theorem State.setBytes_handles (s : State) (pa : Nat) (bs : List Byte) : (s.setBytes pa bs).handles = s.handles := rfl
@[simp] theorem State.setBytes_handleCount (s : State) (pa : Nat) (bs : List Byte) : (s.setBytes pa bs).handleCount = s.handleCount := rfl
@[simp] theorem State.setBytes_cores (s : State) (pa : Nat) (bs : List Byte) : (s.setBytes pa bs).cores = s.cores := rfl
@[simp] theorem State.setBytes_xl (s : State) (pa : Nat) (bs : List Byte) : (s.setBytes pa bs).xl = s.xl := rfl
@[simp] theorem State.setBytes_vat0 (s : State) (pa : Nat) (bs : List Byte) : (s.setBytes pa bs).vat0 = s.vat0 := rfl
@[simp] theorem State.setBytes_vat1 (s : State) (pa : Nat) (bs : List Byte) : (s.setBytes pa bs).vat1 = s.vat1 := rfl
@[simp] theorem State.setBytes_bankQ (s : State) (pa : Nat) (bs : List Byte) : (s.setBytes pa bs).bankQ = s.bankQ := rfl
@[simp] theorem State.setBytes_copies (s : State) (pa : Nat) (bs : List Byte) : (s.setBytes pa bs).copies = s.copies := rfl
@[simp] theorem State.setBytes_idCount (s : State) (pa : Nat) (bs : List Byte) : (s.setBytes pa bs).idCount = s.idCount := rfl
@[simp] theorem State.setBytes_nets (s : State) (pa : Nat) (bs : List Byte) : (s.setBytes pa bs).nets = s.nets := rfl
@[simp] theorem State.setBytes_recTiles (s : State) (pa : Nat) (bs : List Byte) : (s.setBytes pa bs).recTiles = s.recTiles := rfl
@[simp] theorem State.setBytes_colls (s : State) (pa : Nat) (bs : List Byte) : (s.setBytes pa bs).colls = s.colls := rfl
@[simp] theorem State.setBytes_rays (s : State) (pa : Nat) (bs : List Byte) : (s.setBytes pa bs).rays = s.rays := rfl
@[simp] theorem State.setBytes_treelets (s : State) (pa : Nat) (bs : List Byte) : (s.setBytes pa bs).treelets = s.treelets := rfl
@[simp] theorem State.setBytes_fq (s : State) (pa : Nat) (bs : List Byte) : (s.setBytes pa bs).fq = s.fq := rfl
@[simp] theorem State.setBytes_ev (s : State) (pa : Nat) (bs : List Byte) : (s.setBytes pa bs).ev = s.ev := rfl
@[simp] theorem State.setBytes_svc (s : State) (pa : Nat) (bs : List Byte) : (s.setBytes pa bs).svc = s.svc := rfl
@[simp] theorem State.setBytes_dev (s : State) (pa : Nat) (bs : List Byte) : (s.setBytes pa bs).dev = s.dev := rfl
@[simp] theorem State.setBytes_link (s : State) (pa : Nat) (bs : List Byte) : (s.setBytes pa bs).link = s.link := rfl
@[simp] theorem State.setBytes_decrements (s : State) (pa : Nat) (bs : List Byte) : (s.setBytes pa bs).decrements = s.decrements := rfl
@[simp] theorem State.setBytes_irqs (s : State) (pa : Nat) (bs : List Byte) : (s.setBytes pa bs).irqs = s.irqs := rfl
@[simp] theorem State.setBytes_loading (s : State) (pa : Nat) (bs : List Byte) : (s.setBytes pa bs).loading = s.loading := rfl
@[simp] theorem State.setBytes_recalCount (s : State) (pa : Nat) (bs : List Byte) : (s.setBytes pa bs).recalCount = s.recalCount := rfl
@[simp] theorem State.setBytes_waking (s : State) (pa : Nat) (bs : List Byte) : (s.setBytes pa bs).waking = s.waking := rfl
@[simp] theorem State.setBytes_cur (s : State) (pa : Nat) (bs : List Byte) : (s.setBytes pa bs).cur = s.cur := rfl
@[simp] theorem State.setBytes_inputs (s : State) (pa : Nat) (bs : List Byte) : (s.setBytes pa bs).inputs = s.inputs := rfl
@[simp] theorem State.setBytes_free (s : State) (pa : Nat) (bs : List Byte) : (s.setBytes pa bs).free = s.free := rfl

/-! ### setCore -/

@[simp] theorem State.setCore_time (s : State) (i : Nat) (c : Core) : (s.setCore i c).time = s.time := rfl
@[simp] theorem State.setCore_own (s : State) (i : Nat) (c : Core) : (s.setCore i c).own = s.own := rfl
@[simp] theorem State.setCore_cfg (s : State) (i : Nat) (c : Core) : (s.setCore i c).cfg = s.cfg := rfl
@[simp] theorem State.setCore_gu (s : State) (i : Nat) (c : Core) : (s.setCore i c).gu = s.gu := rfl
@[simp] theorem State.setCore_frames (s : State) (i : Nat) (c : Core) : (s.setCore i c).frames = s.frames := rfl
@[simp] theorem State.setCore_frameCount (s : State) (i : Nat) (c : Core) : (s.setCore i c).frameCount = s.frameCount := rfl
@[simp] theorem State.setCore_rings (s : State) (i : Nat) (c : Core) : (s.setCore i c).rings = s.rings := rfl
@[simp] theorem State.setCore_reserved (s : State) (i : Nat) (c : Core) : (s.setCore i c).reserved = s.reserved := rfl
@[simp] theorem State.setCore_launches (s : State) (i : Nat) (c : Core) : (s.setCore i c).launches = s.launches := rfl
@[simp] theorem State.setCore_history (s : State) (i : Nat) (c : Core) : (s.setCore i c).history = s.history := rfl
@[simp] theorem State.setCore_groups (s : State) (i : Nat) (c : Core) : (s.setCore i c).groups = s.groups := rfl
@[simp] theorem State.setCore_gidCount (s : State) (i : Nat) (c : Core) : (s.setCore i c).gidCount = s.gidCount := rfl
@[simp] theorem State.setCore_handles (s : State) (i : Nat) (c : Core) : (s.setCore i c).handles = s.handles := rfl
@[simp] theorem State.setCore_handleCount (s : State) (i : Nat) (c : Core) : (s.setCore i c).handleCount = s.handleCount := rfl
@[simp] theorem State.setCore_mem (s : State) (i : Nat) (c : Core) : (s.setCore i c).mem = s.mem := rfl
@[simp] theorem State.setCore_memErr (s : State) (i : Nat) (c : Core) : (s.setCore i c).memErr = s.memErr := rfl
@[simp] theorem State.setCore_caches (s : State) (i : Nat) (c : Core) : (s.setCore i c).caches = s.caches := rfl
@[simp] theorem State.setCore_xl (s : State) (i : Nat) (c : Core) : (s.setCore i c).xl = s.xl := rfl
@[simp] theorem State.setCore_vat0 (s : State) (i : Nat) (c : Core) : (s.setCore i c).vat0 = s.vat0 := rfl
@[simp] theorem State.setCore_vat1 (s : State) (i : Nat) (c : Core) : (s.setCore i c).vat1 = s.vat1 := rfl
@[simp] theorem State.setCore_bankQ (s : State) (i : Nat) (c : Core) : (s.setCore i c).bankQ = s.bankQ := rfl
@[simp] theorem State.setCore_copies (s : State) (i : Nat) (c : Core) : (s.setCore i c).copies = s.copies := rfl
@[simp] theorem State.setCore_idCount (s : State) (i : Nat) (c : Core) : (s.setCore i c).idCount = s.idCount := rfl
@[simp] theorem State.setCore_nets (s : State) (i : Nat) (c : Core) : (s.setCore i c).nets = s.nets := rfl
@[simp] theorem State.setCore_recTiles (s : State) (i : Nat) (c : Core) : (s.setCore i c).recTiles = s.recTiles := rfl
@[simp] theorem State.setCore_colls (s : State) (i : Nat) (c : Core) : (s.setCore i c).colls = s.colls := rfl
@[simp] theorem State.setCore_rays (s : State) (i : Nat) (c : Core) : (s.setCore i c).rays = s.rays := rfl
@[simp] theorem State.setCore_treelets (s : State) (i : Nat) (c : Core) : (s.setCore i c).treelets = s.treelets := rfl
@[simp] theorem State.setCore_fq (s : State) (i : Nat) (c : Core) : (s.setCore i c).fq = s.fq := rfl
@[simp] theorem State.setCore_ev (s : State) (i : Nat) (c : Core) : (s.setCore i c).ev = s.ev := rfl
@[simp] theorem State.setCore_svc (s : State) (i : Nat) (c : Core) : (s.setCore i c).svc = s.svc := rfl
@[simp] theorem State.setCore_dev (s : State) (i : Nat) (c : Core) : (s.setCore i c).dev = s.dev := rfl
@[simp] theorem State.setCore_link (s : State) (i : Nat) (c : Core) : (s.setCore i c).link = s.link := rfl
@[simp] theorem State.setCore_decrements (s : State) (i : Nat) (c : Core) : (s.setCore i c).decrements = s.decrements := rfl
@[simp] theorem State.setCore_irqs (s : State) (i : Nat) (c : Core) : (s.setCore i c).irqs = s.irqs := rfl
@[simp] theorem State.setCore_loading (s : State) (i : Nat) (c : Core) : (s.setCore i c).loading = s.loading := rfl
@[simp] theorem State.setCore_recalCount (s : State) (i : Nat) (c : Core) : (s.setCore i c).recalCount = s.recalCount := rfl
@[simp] theorem State.setCore_waking (s : State) (i : Nat) (c : Core) : (s.setCore i c).waking = s.waking := rfl
@[simp] theorem State.setCore_cur (s : State) (i : Nat) (c : Core) : (s.setCore i c).cur = s.cur := rfl
@[simp] theorem State.setCore_inputs (s : State) (i : Nat) (c : Core) : (s.setCore i c).inputs = s.inputs := rfl
@[simp] theorem State.setCore_free (s : State) (i : Nat) (c : Core) : (s.setCore i c).free = s.free := rfl

/-! ### updCore -/

@[simp] theorem State.updCore_time (s : State) (i : Nat) (f : Core → Core) : (s.updCore i f).time = s.time := rfl
@[simp] theorem State.updCore_own (s : State) (i : Nat) (f : Core → Core) : (s.updCore i f).own = s.own := rfl
@[simp] theorem State.updCore_cfg (s : State) (i : Nat) (f : Core → Core) : (s.updCore i f).cfg = s.cfg := rfl
@[simp] theorem State.updCore_gu (s : State) (i : Nat) (f : Core → Core) : (s.updCore i f).gu = s.gu := rfl
@[simp] theorem State.updCore_frames (s : State) (i : Nat) (f : Core → Core) : (s.updCore i f).frames = s.frames := rfl
@[simp] theorem State.updCore_frameCount (s : State) (i : Nat) (f : Core → Core) : (s.updCore i f).frameCount = s.frameCount := rfl
@[simp] theorem State.updCore_rings (s : State) (i : Nat) (f : Core → Core) : (s.updCore i f).rings = s.rings := rfl
@[simp] theorem State.updCore_reserved (s : State) (i : Nat) (f : Core → Core) : (s.updCore i f).reserved = s.reserved := rfl
@[simp] theorem State.updCore_launches (s : State) (i : Nat) (f : Core → Core) : (s.updCore i f).launches = s.launches := rfl
@[simp] theorem State.updCore_history (s : State) (i : Nat) (f : Core → Core) : (s.updCore i f).history = s.history := rfl
@[simp] theorem State.updCore_groups (s : State) (i : Nat) (f : Core → Core) : (s.updCore i f).groups = s.groups := rfl
@[simp] theorem State.updCore_gidCount (s : State) (i : Nat) (f : Core → Core) : (s.updCore i f).gidCount = s.gidCount := rfl
@[simp] theorem State.updCore_handles (s : State) (i : Nat) (f : Core → Core) : (s.updCore i f).handles = s.handles := rfl
@[simp] theorem State.updCore_handleCount (s : State) (i : Nat) (f : Core → Core) : (s.updCore i f).handleCount = s.handleCount := rfl
@[simp] theorem State.updCore_mem (s : State) (i : Nat) (f : Core → Core) : (s.updCore i f).mem = s.mem := rfl
@[simp] theorem State.updCore_memErr (s : State) (i : Nat) (f : Core → Core) : (s.updCore i f).memErr = s.memErr := rfl
@[simp] theorem State.updCore_caches (s : State) (i : Nat) (f : Core → Core) : (s.updCore i f).caches = s.caches := rfl
@[simp] theorem State.updCore_xl (s : State) (i : Nat) (f : Core → Core) : (s.updCore i f).xl = s.xl := rfl
@[simp] theorem State.updCore_vat0 (s : State) (i : Nat) (f : Core → Core) : (s.updCore i f).vat0 = s.vat0 := rfl
@[simp] theorem State.updCore_vat1 (s : State) (i : Nat) (f : Core → Core) : (s.updCore i f).vat1 = s.vat1 := rfl
@[simp] theorem State.updCore_bankQ (s : State) (i : Nat) (f : Core → Core) : (s.updCore i f).bankQ = s.bankQ := rfl
@[simp] theorem State.updCore_copies (s : State) (i : Nat) (f : Core → Core) : (s.updCore i f).copies = s.copies := rfl
@[simp] theorem State.updCore_idCount (s : State) (i : Nat) (f : Core → Core) : (s.updCore i f).idCount = s.idCount := rfl
@[simp] theorem State.updCore_nets (s : State) (i : Nat) (f : Core → Core) : (s.updCore i f).nets = s.nets := rfl
@[simp] theorem State.updCore_recTiles (s : State) (i : Nat) (f : Core → Core) : (s.updCore i f).recTiles = s.recTiles := rfl
@[simp] theorem State.updCore_colls (s : State) (i : Nat) (f : Core → Core) : (s.updCore i f).colls = s.colls := rfl
@[simp] theorem State.updCore_rays (s : State) (i : Nat) (f : Core → Core) : (s.updCore i f).rays = s.rays := rfl
@[simp] theorem State.updCore_treelets (s : State) (i : Nat) (f : Core → Core) : (s.updCore i f).treelets = s.treelets := rfl
@[simp] theorem State.updCore_fq (s : State) (i : Nat) (f : Core → Core) : (s.updCore i f).fq = s.fq := rfl
@[simp] theorem State.updCore_ev (s : State) (i : Nat) (f : Core → Core) : (s.updCore i f).ev = s.ev := rfl
@[simp] theorem State.updCore_svc (s : State) (i : Nat) (f : Core → Core) : (s.updCore i f).svc = s.svc := rfl
@[simp] theorem State.updCore_dev (s : State) (i : Nat) (f : Core → Core) : (s.updCore i f).dev = s.dev := rfl
@[simp] theorem State.updCore_link (s : State) (i : Nat) (f : Core → Core) : (s.updCore i f).link = s.link := rfl
@[simp] theorem State.updCore_decrements (s : State) (i : Nat) (f : Core → Core) : (s.updCore i f).decrements = s.decrements := rfl
@[simp] theorem State.updCore_irqs (s : State) (i : Nat) (f : Core → Core) : (s.updCore i f).irqs = s.irqs := rfl
@[simp] theorem State.updCore_loading (s : State) (i : Nat) (f : Core → Core) : (s.updCore i f).loading = s.loading := rfl
@[simp] theorem State.updCore_recalCount (s : State) (i : Nat) (f : Core → Core) : (s.updCore i f).recalCount = s.recalCount := rfl
@[simp] theorem State.updCore_waking (s : State) (i : Nat) (f : Core → Core) : (s.updCore i f).waking = s.waking := rfl
@[simp] theorem State.updCore_cur (s : State) (i : Nat) (f : Core → Core) : (s.updCore i f).cur = s.cur := rfl
@[simp] theorem State.updCore_inputs (s : State) (i : Nat) (f : Core → Core) : (s.updCore i f).inputs = s.inputs := rfl
@[simp] theorem State.updCore_free (s : State) (i : Nat) (f : Core → Core) : (s.updCore i f).free = s.free := rfl

/-! ### updFrame -/

@[simp] theorem State.updFrame_time (s : State) (i : Nat) (f : Frame → Frame) : (s.updFrame i f).time = s.time := rfl
@[simp] theorem State.updFrame_own (s : State) (i : Nat) (f : Frame → Frame) : (s.updFrame i f).own = s.own := rfl
@[simp] theorem State.updFrame_cfg (s : State) (i : Nat) (f : Frame → Frame) : (s.updFrame i f).cfg = s.cfg := rfl
@[simp] theorem State.updFrame_gu (s : State) (i : Nat) (f : Frame → Frame) : (s.updFrame i f).gu = s.gu := rfl
@[simp] theorem State.updFrame_frameCount (s : State) (i : Nat) (f : Frame → Frame) : (s.updFrame i f).frameCount = s.frameCount := rfl
@[simp] theorem State.updFrame_rings (s : State) (i : Nat) (f : Frame → Frame) : (s.updFrame i f).rings = s.rings := rfl
@[simp] theorem State.updFrame_reserved (s : State) (i : Nat) (f : Frame → Frame) : (s.updFrame i f).reserved = s.reserved := rfl
@[simp] theorem State.updFrame_launches (s : State) (i : Nat) (f : Frame → Frame) : (s.updFrame i f).launches = s.launches := rfl
@[simp] theorem State.updFrame_history (s : State) (i : Nat) (f : Frame → Frame) : (s.updFrame i f).history = s.history := rfl
@[simp] theorem State.updFrame_groups (s : State) (i : Nat) (f : Frame → Frame) : (s.updFrame i f).groups = s.groups := rfl
@[simp] theorem State.updFrame_gidCount (s : State) (i : Nat) (f : Frame → Frame) : (s.updFrame i f).gidCount = s.gidCount := rfl
@[simp] theorem State.updFrame_handles (s : State) (i : Nat) (f : Frame → Frame) : (s.updFrame i f).handles = s.handles := rfl
@[simp] theorem State.updFrame_handleCount (s : State) (i : Nat) (f : Frame → Frame) : (s.updFrame i f).handleCount = s.handleCount := rfl
@[simp] theorem State.updFrame_cores (s : State) (i : Nat) (f : Frame → Frame) : (s.updFrame i f).cores = s.cores := rfl
@[simp] theorem State.updFrame_mem (s : State) (i : Nat) (f : Frame → Frame) : (s.updFrame i f).mem = s.mem := rfl
@[simp] theorem State.updFrame_memErr (s : State) (i : Nat) (f : Frame → Frame) : (s.updFrame i f).memErr = s.memErr := rfl
@[simp] theorem State.updFrame_caches (s : State) (i : Nat) (f : Frame → Frame) : (s.updFrame i f).caches = s.caches := rfl
@[simp] theorem State.updFrame_xl (s : State) (i : Nat) (f : Frame → Frame) : (s.updFrame i f).xl = s.xl := rfl
@[simp] theorem State.updFrame_vat0 (s : State) (i : Nat) (f : Frame → Frame) : (s.updFrame i f).vat0 = s.vat0 := rfl
@[simp] theorem State.updFrame_vat1 (s : State) (i : Nat) (f : Frame → Frame) : (s.updFrame i f).vat1 = s.vat1 := rfl
@[simp] theorem State.updFrame_bankQ (s : State) (i : Nat) (f : Frame → Frame) : (s.updFrame i f).bankQ = s.bankQ := rfl
@[simp] theorem State.updFrame_copies (s : State) (i : Nat) (f : Frame → Frame) : (s.updFrame i f).copies = s.copies := rfl
@[simp] theorem State.updFrame_idCount (s : State) (i : Nat) (f : Frame → Frame) : (s.updFrame i f).idCount = s.idCount := rfl
@[simp] theorem State.updFrame_nets (s : State) (i : Nat) (f : Frame → Frame) : (s.updFrame i f).nets = s.nets := rfl
@[simp] theorem State.updFrame_recTiles (s : State) (i : Nat) (f : Frame → Frame) : (s.updFrame i f).recTiles = s.recTiles := rfl
@[simp] theorem State.updFrame_colls (s : State) (i : Nat) (f : Frame → Frame) : (s.updFrame i f).colls = s.colls := rfl
@[simp] theorem State.updFrame_rays (s : State) (i : Nat) (f : Frame → Frame) : (s.updFrame i f).rays = s.rays := rfl
@[simp] theorem State.updFrame_treelets (s : State) (i : Nat) (f : Frame → Frame) : (s.updFrame i f).treelets = s.treelets := rfl
@[simp] theorem State.updFrame_fq (s : State) (i : Nat) (f : Frame → Frame) : (s.updFrame i f).fq = s.fq := rfl
@[simp] theorem State.updFrame_ev (s : State) (i : Nat) (f : Frame → Frame) : (s.updFrame i f).ev = s.ev := rfl
@[simp] theorem State.updFrame_svc (s : State) (i : Nat) (f : Frame → Frame) : (s.updFrame i f).svc = s.svc := rfl
@[simp] theorem State.updFrame_dev (s : State) (i : Nat) (f : Frame → Frame) : (s.updFrame i f).dev = s.dev := rfl
@[simp] theorem State.updFrame_link (s : State) (i : Nat) (f : Frame → Frame) : (s.updFrame i f).link = s.link := rfl
@[simp] theorem State.updFrame_decrements (s : State) (i : Nat) (f : Frame → Frame) : (s.updFrame i f).decrements = s.decrements := rfl
@[simp] theorem State.updFrame_irqs (s : State) (i : Nat) (f : Frame → Frame) : (s.updFrame i f).irqs = s.irqs := rfl
@[simp] theorem State.updFrame_loading (s : State) (i : Nat) (f : Frame → Frame) : (s.updFrame i f).loading = s.loading := rfl
@[simp] theorem State.updFrame_recalCount (s : State) (i : Nat) (f : Frame → Frame) : (s.updFrame i f).recalCount = s.recalCount := rfl
@[simp] theorem State.updFrame_waking (s : State) (i : Nat) (f : Frame → Frame) : (s.updFrame i f).waking = s.waking := rfl
@[simp] theorem State.updFrame_cur (s : State) (i : Nat) (f : Frame → Frame) : (s.updFrame i f).cur = s.cur := rfl
@[simp] theorem State.updFrame_inputs (s : State) (i : Nat) (f : Frame → Frame) : (s.updFrame i f).inputs = s.inputs := rfl
@[simp] theorem State.updFrame_free (s : State) (i : Nat) (f : Frame → Frame) : (s.updFrame i f).free = s.free := rfl

/-! ### updPass -/

@[simp] theorem State.updPass_time (s : State) (i p : Nat) (f : Pass → Pass) : (s.updPass i p f).time = s.time := rfl
@[simp] theorem State.updPass_own (s : State) (i p : Nat) (f : Pass → Pass) : (s.updPass i p f).own = s.own := rfl
@[simp] theorem State.updPass_cfg (s : State) (i p : Nat) (f : Pass → Pass) : (s.updPass i p f).cfg = s.cfg := rfl
@[simp] theorem State.updPass_gu (s : State) (i p : Nat) (f : Pass → Pass) : (s.updPass i p f).gu = s.gu := rfl
@[simp] theorem State.updPass_frameCount (s : State) (i p : Nat) (f : Pass → Pass) : (s.updPass i p f).frameCount = s.frameCount := rfl
@[simp] theorem State.updPass_rings (s : State) (i p : Nat) (f : Pass → Pass) : (s.updPass i p f).rings = s.rings := rfl
@[simp] theorem State.updPass_reserved (s : State) (i p : Nat) (f : Pass → Pass) : (s.updPass i p f).reserved = s.reserved := rfl
@[simp] theorem State.updPass_launches (s : State) (i p : Nat) (f : Pass → Pass) : (s.updPass i p f).launches = s.launches := rfl
@[simp] theorem State.updPass_history (s : State) (i p : Nat) (f : Pass → Pass) : (s.updPass i p f).history = s.history := rfl
@[simp] theorem State.updPass_groups (s : State) (i p : Nat) (f : Pass → Pass) : (s.updPass i p f).groups = s.groups := rfl
@[simp] theorem State.updPass_gidCount (s : State) (i p : Nat) (f : Pass → Pass) : (s.updPass i p f).gidCount = s.gidCount := rfl
@[simp] theorem State.updPass_handles (s : State) (i p : Nat) (f : Pass → Pass) : (s.updPass i p f).handles = s.handles := rfl
@[simp] theorem State.updPass_handleCount (s : State) (i p : Nat) (f : Pass → Pass) : (s.updPass i p f).handleCount = s.handleCount := rfl
@[simp] theorem State.updPass_cores (s : State) (i p : Nat) (f : Pass → Pass) : (s.updPass i p f).cores = s.cores := rfl
@[simp] theorem State.updPass_mem (s : State) (i p : Nat) (f : Pass → Pass) : (s.updPass i p f).mem = s.mem := rfl
@[simp] theorem State.updPass_memErr (s : State) (i p : Nat) (f : Pass → Pass) : (s.updPass i p f).memErr = s.memErr := rfl
@[simp] theorem State.updPass_caches (s : State) (i p : Nat) (f : Pass → Pass) : (s.updPass i p f).caches = s.caches := rfl
@[simp] theorem State.updPass_xl (s : State) (i p : Nat) (f : Pass → Pass) : (s.updPass i p f).xl = s.xl := rfl
@[simp] theorem State.updPass_vat0 (s : State) (i p : Nat) (f : Pass → Pass) : (s.updPass i p f).vat0 = s.vat0 := rfl
@[simp] theorem State.updPass_vat1 (s : State) (i p : Nat) (f : Pass → Pass) : (s.updPass i p f).vat1 = s.vat1 := rfl
@[simp] theorem State.updPass_bankQ (s : State) (i p : Nat) (f : Pass → Pass) : (s.updPass i p f).bankQ = s.bankQ := rfl
@[simp] theorem State.updPass_copies (s : State) (i p : Nat) (f : Pass → Pass) : (s.updPass i p f).copies = s.copies := rfl
@[simp] theorem State.updPass_idCount (s : State) (i p : Nat) (f : Pass → Pass) : (s.updPass i p f).idCount = s.idCount := rfl
@[simp] theorem State.updPass_nets (s : State) (i p : Nat) (f : Pass → Pass) : (s.updPass i p f).nets = s.nets := rfl
@[simp] theorem State.updPass_recTiles (s : State) (i p : Nat) (f : Pass → Pass) : (s.updPass i p f).recTiles = s.recTiles := rfl
@[simp] theorem State.updPass_colls (s : State) (i p : Nat) (f : Pass → Pass) : (s.updPass i p f).colls = s.colls := rfl
@[simp] theorem State.updPass_rays (s : State) (i p : Nat) (f : Pass → Pass) : (s.updPass i p f).rays = s.rays := rfl
@[simp] theorem State.updPass_treelets (s : State) (i p : Nat) (f : Pass → Pass) : (s.updPass i p f).treelets = s.treelets := rfl
@[simp] theorem State.updPass_fq (s : State) (i p : Nat) (f : Pass → Pass) : (s.updPass i p f).fq = s.fq := rfl
@[simp] theorem State.updPass_ev (s : State) (i p : Nat) (f : Pass → Pass) : (s.updPass i p f).ev = s.ev := rfl
@[simp] theorem State.updPass_svc (s : State) (i p : Nat) (f : Pass → Pass) : (s.updPass i p f).svc = s.svc := rfl
@[simp] theorem State.updPass_dev (s : State) (i p : Nat) (f : Pass → Pass) : (s.updPass i p f).dev = s.dev := rfl
@[simp] theorem State.updPass_link (s : State) (i p : Nat) (f : Pass → Pass) : (s.updPass i p f).link = s.link := rfl
@[simp] theorem State.updPass_decrements (s : State) (i p : Nat) (f : Pass → Pass) : (s.updPass i p f).decrements = s.decrements := rfl
@[simp] theorem State.updPass_irqs (s : State) (i p : Nat) (f : Pass → Pass) : (s.updPass i p f).irqs = s.irqs := rfl
@[simp] theorem State.updPass_loading (s : State) (i p : Nat) (f : Pass → Pass) : (s.updPass i p f).loading = s.loading := rfl
@[simp] theorem State.updPass_recalCount (s : State) (i p : Nat) (f : Pass → Pass) : (s.updPass i p f).recalCount = s.recalCount := rfl
@[simp] theorem State.updPass_waking (s : State) (i p : Nat) (f : Pass → Pass) : (s.updPass i p f).waking = s.waking := rfl
@[simp] theorem State.updPass_cur (s : State) (i p : Nat) (f : Pass → Pass) : (s.updPass i p f).cur = s.cur := rfl
@[simp] theorem State.updPass_inputs (s : State) (i p : Nat) (f : Pass → Pass) : (s.updPass i p f).inputs = s.inputs := rfl
@[simp] theorem State.updPass_free (s : State) (i p : Nat) (f : Pass → Pass) : (s.updPass i p f).free = s.free := rfl

/-! ### updTile -/

@[simp] theorem State.updTile_time (s : State) (t : TileRef) (f : Tile → Tile) : (s.updTile t f).time = s.time := rfl
@[simp] theorem State.updTile_own (s : State) (t : TileRef) (f : Tile → Tile) : (s.updTile t f).own = s.own := rfl
@[simp] theorem State.updTile_cfg (s : State) (t : TileRef) (f : Tile → Tile) : (s.updTile t f).cfg = s.cfg := rfl
@[simp] theorem State.updTile_gu (s : State) (t : TileRef) (f : Tile → Tile) : (s.updTile t f).gu = s.gu := rfl
@[simp] theorem State.updTile_frameCount (s : State) (t : TileRef) (f : Tile → Tile) : (s.updTile t f).frameCount = s.frameCount := rfl
@[simp] theorem State.updTile_rings (s : State) (t : TileRef) (f : Tile → Tile) : (s.updTile t f).rings = s.rings := rfl
@[simp] theorem State.updTile_reserved (s : State) (t : TileRef) (f : Tile → Tile) : (s.updTile t f).reserved = s.reserved := rfl
@[simp] theorem State.updTile_launches (s : State) (t : TileRef) (f : Tile → Tile) : (s.updTile t f).launches = s.launches := rfl
@[simp] theorem State.updTile_history (s : State) (t : TileRef) (f : Tile → Tile) : (s.updTile t f).history = s.history := rfl
@[simp] theorem State.updTile_groups (s : State) (t : TileRef) (f : Tile → Tile) : (s.updTile t f).groups = s.groups := rfl
@[simp] theorem State.updTile_gidCount (s : State) (t : TileRef) (f : Tile → Tile) : (s.updTile t f).gidCount = s.gidCount := rfl
@[simp] theorem State.updTile_handles (s : State) (t : TileRef) (f : Tile → Tile) : (s.updTile t f).handles = s.handles := rfl
@[simp] theorem State.updTile_handleCount (s : State) (t : TileRef) (f : Tile → Tile) : (s.updTile t f).handleCount = s.handleCount := rfl
@[simp] theorem State.updTile_cores (s : State) (t : TileRef) (f : Tile → Tile) : (s.updTile t f).cores = s.cores := rfl
@[simp] theorem State.updTile_mem (s : State) (t : TileRef) (f : Tile → Tile) : (s.updTile t f).mem = s.mem := rfl
@[simp] theorem State.updTile_memErr (s : State) (t : TileRef) (f : Tile → Tile) : (s.updTile t f).memErr = s.memErr := rfl
@[simp] theorem State.updTile_caches (s : State) (t : TileRef) (f : Tile → Tile) : (s.updTile t f).caches = s.caches := rfl
@[simp] theorem State.updTile_xl (s : State) (t : TileRef) (f : Tile → Tile) : (s.updTile t f).xl = s.xl := rfl
@[simp] theorem State.updTile_vat0 (s : State) (t : TileRef) (f : Tile → Tile) : (s.updTile t f).vat0 = s.vat0 := rfl
@[simp] theorem State.updTile_vat1 (s : State) (t : TileRef) (f : Tile → Tile) : (s.updTile t f).vat1 = s.vat1 := rfl
@[simp] theorem State.updTile_bankQ (s : State) (t : TileRef) (f : Tile → Tile) : (s.updTile t f).bankQ = s.bankQ := rfl
@[simp] theorem State.updTile_copies (s : State) (t : TileRef) (f : Tile → Tile) : (s.updTile t f).copies = s.copies := rfl
@[simp] theorem State.updTile_idCount (s : State) (t : TileRef) (f : Tile → Tile) : (s.updTile t f).idCount = s.idCount := rfl
@[simp] theorem State.updTile_nets (s : State) (t : TileRef) (f : Tile → Tile) : (s.updTile t f).nets = s.nets := rfl
@[simp] theorem State.updTile_recTiles (s : State) (t : TileRef) (f : Tile → Tile) : (s.updTile t f).recTiles = s.recTiles := rfl
@[simp] theorem State.updTile_colls (s : State) (t : TileRef) (f : Tile → Tile) : (s.updTile t f).colls = s.colls := rfl
@[simp] theorem State.updTile_rays (s : State) (t : TileRef) (f : Tile → Tile) : (s.updTile t f).rays = s.rays := rfl
@[simp] theorem State.updTile_treelets (s : State) (t : TileRef) (f : Tile → Tile) : (s.updTile t f).treelets = s.treelets := rfl
@[simp] theorem State.updTile_fq (s : State) (t : TileRef) (f : Tile → Tile) : (s.updTile t f).fq = s.fq := rfl
@[simp] theorem State.updTile_ev (s : State) (t : TileRef) (f : Tile → Tile) : (s.updTile t f).ev = s.ev := rfl
@[simp] theorem State.updTile_svc (s : State) (t : TileRef) (f : Tile → Tile) : (s.updTile t f).svc = s.svc := rfl
@[simp] theorem State.updTile_dev (s : State) (t : TileRef) (f : Tile → Tile) : (s.updTile t f).dev = s.dev := rfl
@[simp] theorem State.updTile_link (s : State) (t : TileRef) (f : Tile → Tile) : (s.updTile t f).link = s.link := rfl
@[simp] theorem State.updTile_decrements (s : State) (t : TileRef) (f : Tile → Tile) : (s.updTile t f).decrements = s.decrements := rfl
@[simp] theorem State.updTile_irqs (s : State) (t : TileRef) (f : Tile → Tile) : (s.updTile t f).irqs = s.irqs := rfl
@[simp] theorem State.updTile_loading (s : State) (t : TileRef) (f : Tile → Tile) : (s.updTile t f).loading = s.loading := rfl
@[simp] theorem State.updTile_recalCount (s : State) (t : TileRef) (f : Tile → Tile) : (s.updTile t f).recalCount = s.recalCount := rfl
@[simp] theorem State.updTile_waking (s : State) (t : TileRef) (f : Tile → Tile) : (s.updTile t f).waking = s.waking := rfl
@[simp] theorem State.updTile_cur (s : State) (t : TileRef) (f : Tile → Tile) : (s.updTile t f).cur = s.cur := rfl
@[simp] theorem State.updTile_inputs (s : State) (t : TileRef) (f : Tile → Tile) : (s.updTile t f).inputs = s.inputs := rfl
@[simp] theorem State.updTile_free (s : State) (t : TileRef) (f : Tile → Tile) : (s.updTile t f).free = s.free := rfl

/-! ### updRecTile -/

@[simp] theorem State.updRecTile_time (s : State) (t : TileRef) (f : RecTile → RecTile) : (s.updRecTile t f).time = s.time := rfl
@[simp] theorem State.updRecTile_own (s : State) (t : TileRef) (f : RecTile → RecTile) : (s.updRecTile t f).own = s.own := rfl
@[simp] theorem State.updRecTile_cfg (s : State) (t : TileRef) (f : RecTile → RecTile) : (s.updRecTile t f).cfg = s.cfg := rfl
@[simp] theorem State.updRecTile_gu (s : State) (t : TileRef) (f : RecTile → RecTile) : (s.updRecTile t f).gu = s.gu := rfl
@[simp] theorem State.updRecTile_frames (s : State) (t : TileRef) (f : RecTile → RecTile) : (s.updRecTile t f).frames = s.frames := rfl
@[simp] theorem State.updRecTile_frameCount (s : State) (t : TileRef) (f : RecTile → RecTile) : (s.updRecTile t f).frameCount = s.frameCount := rfl
@[simp] theorem State.updRecTile_rings (s : State) (t : TileRef) (f : RecTile → RecTile) : (s.updRecTile t f).rings = s.rings := rfl
@[simp] theorem State.updRecTile_reserved (s : State) (t : TileRef) (f : RecTile → RecTile) : (s.updRecTile t f).reserved = s.reserved := rfl
@[simp] theorem State.updRecTile_launches (s : State) (t : TileRef) (f : RecTile → RecTile) : (s.updRecTile t f).launches = s.launches := rfl
@[simp] theorem State.updRecTile_history (s : State) (t : TileRef) (f : RecTile → RecTile) : (s.updRecTile t f).history = s.history := rfl
@[simp] theorem State.updRecTile_groups (s : State) (t : TileRef) (f : RecTile → RecTile) : (s.updRecTile t f).groups = s.groups := rfl
@[simp] theorem State.updRecTile_gidCount (s : State) (t : TileRef) (f : RecTile → RecTile) : (s.updRecTile t f).gidCount = s.gidCount := rfl
@[simp] theorem State.updRecTile_handles (s : State) (t : TileRef) (f : RecTile → RecTile) : (s.updRecTile t f).handles = s.handles := rfl
@[simp] theorem State.updRecTile_handleCount (s : State) (t : TileRef) (f : RecTile → RecTile) : (s.updRecTile t f).handleCount = s.handleCount := rfl
@[simp] theorem State.updRecTile_cores (s : State) (t : TileRef) (f : RecTile → RecTile) : (s.updRecTile t f).cores = s.cores := rfl
@[simp] theorem State.updRecTile_mem (s : State) (t : TileRef) (f : RecTile → RecTile) : (s.updRecTile t f).mem = s.mem := rfl
@[simp] theorem State.updRecTile_memErr (s : State) (t : TileRef) (f : RecTile → RecTile) : (s.updRecTile t f).memErr = s.memErr := rfl
@[simp] theorem State.updRecTile_caches (s : State) (t : TileRef) (f : RecTile → RecTile) : (s.updRecTile t f).caches = s.caches := rfl
@[simp] theorem State.updRecTile_xl (s : State) (t : TileRef) (f : RecTile → RecTile) : (s.updRecTile t f).xl = s.xl := rfl
@[simp] theorem State.updRecTile_vat0 (s : State) (t : TileRef) (f : RecTile → RecTile) : (s.updRecTile t f).vat0 = s.vat0 := rfl
@[simp] theorem State.updRecTile_vat1 (s : State) (t : TileRef) (f : RecTile → RecTile) : (s.updRecTile t f).vat1 = s.vat1 := rfl
@[simp] theorem State.updRecTile_bankQ (s : State) (t : TileRef) (f : RecTile → RecTile) : (s.updRecTile t f).bankQ = s.bankQ := rfl
@[simp] theorem State.updRecTile_copies (s : State) (t : TileRef) (f : RecTile → RecTile) : (s.updRecTile t f).copies = s.copies := rfl
@[simp] theorem State.updRecTile_idCount (s : State) (t : TileRef) (f : RecTile → RecTile) : (s.updRecTile t f).idCount = s.idCount := rfl
@[simp] theorem State.updRecTile_nets (s : State) (t : TileRef) (f : RecTile → RecTile) : (s.updRecTile t f).nets = s.nets := rfl
@[simp] theorem State.updRecTile_colls (s : State) (t : TileRef) (f : RecTile → RecTile) : (s.updRecTile t f).colls = s.colls := rfl
@[simp] theorem State.updRecTile_rays (s : State) (t : TileRef) (f : RecTile → RecTile) : (s.updRecTile t f).rays = s.rays := rfl
@[simp] theorem State.updRecTile_treelets (s : State) (t : TileRef) (f : RecTile → RecTile) : (s.updRecTile t f).treelets = s.treelets := rfl
@[simp] theorem State.updRecTile_fq (s : State) (t : TileRef) (f : RecTile → RecTile) : (s.updRecTile t f).fq = s.fq := rfl
@[simp] theorem State.updRecTile_ev (s : State) (t : TileRef) (f : RecTile → RecTile) : (s.updRecTile t f).ev = s.ev := rfl
@[simp] theorem State.updRecTile_svc (s : State) (t : TileRef) (f : RecTile → RecTile) : (s.updRecTile t f).svc = s.svc := rfl
@[simp] theorem State.updRecTile_dev (s : State) (t : TileRef) (f : RecTile → RecTile) : (s.updRecTile t f).dev = s.dev := rfl
@[simp] theorem State.updRecTile_link (s : State) (t : TileRef) (f : RecTile → RecTile) : (s.updRecTile t f).link = s.link := rfl
@[simp] theorem State.updRecTile_decrements (s : State) (t : TileRef) (f : RecTile → RecTile) : (s.updRecTile t f).decrements = s.decrements := rfl
@[simp] theorem State.updRecTile_irqs (s : State) (t : TileRef) (f : RecTile → RecTile) : (s.updRecTile t f).irqs = s.irqs := rfl
@[simp] theorem State.updRecTile_loading (s : State) (t : TileRef) (f : RecTile → RecTile) : (s.updRecTile t f).loading = s.loading := rfl
@[simp] theorem State.updRecTile_recalCount (s : State) (t : TileRef) (f : RecTile → RecTile) : (s.updRecTile t f).recalCount = s.recalCount := rfl
@[simp] theorem State.updRecTile_waking (s : State) (t : TileRef) (f : RecTile → RecTile) : (s.updRecTile t f).waking = s.waking := rfl
@[simp] theorem State.updRecTile_cur (s : State) (t : TileRef) (f : RecTile → RecTile) : (s.updRecTile t f).cur = s.cur := rfl
@[simp] theorem State.updRecTile_inputs (s : State) (t : TileRef) (f : RecTile → RecTile) : (s.updRecTile t f).inputs = s.inputs := rfl
@[simp] theorem State.updRecTile_free (s : State) (t : TileRef) (f : RecTile → RecTile) : (s.updRecTile t f).free = s.free := rfl

/-! ### wakeWhere -/

@[simp] theorem State.wakeWhere_time (s : State) (p : Fragment → Bool) : (s.wakeWhere p).time = s.time := rfl
@[simp] theorem State.wakeWhere_own (s : State) (p : Fragment → Bool) : (s.wakeWhere p).own = s.own := rfl
@[simp] theorem State.wakeWhere_cfg (s : State) (p : Fragment → Bool) : (s.wakeWhere p).cfg = s.cfg := rfl
@[simp] theorem State.wakeWhere_gu (s : State) (p : Fragment → Bool) : (s.wakeWhere p).gu = s.gu := rfl
@[simp] theorem State.wakeWhere_frames (s : State) (p : Fragment → Bool) : (s.wakeWhere p).frames = s.frames := rfl
@[simp] theorem State.wakeWhere_frameCount (s : State) (p : Fragment → Bool) : (s.wakeWhere p).frameCount = s.frameCount := rfl
@[simp] theorem State.wakeWhere_rings (s : State) (p : Fragment → Bool) : (s.wakeWhere p).rings = s.rings := rfl
@[simp] theorem State.wakeWhere_reserved (s : State) (p : Fragment → Bool) : (s.wakeWhere p).reserved = s.reserved := rfl
@[simp] theorem State.wakeWhere_launches (s : State) (p : Fragment → Bool) : (s.wakeWhere p).launches = s.launches := rfl
@[simp] theorem State.wakeWhere_history (s : State) (p : Fragment → Bool) : (s.wakeWhere p).history = s.history := rfl
@[simp] theorem State.wakeWhere_gidCount (s : State) (p : Fragment → Bool) : (s.wakeWhere p).gidCount = s.gidCount := rfl
@[simp] theorem State.wakeWhere_handles (s : State) (p : Fragment → Bool) : (s.wakeWhere p).handles = s.handles := rfl
@[simp] theorem State.wakeWhere_handleCount (s : State) (p : Fragment → Bool) : (s.wakeWhere p).handleCount = s.handleCount := rfl
@[simp] theorem State.wakeWhere_cores (s : State) (p : Fragment → Bool) : (s.wakeWhere p).cores = s.cores := rfl
@[simp] theorem State.wakeWhere_mem (s : State) (p : Fragment → Bool) : (s.wakeWhere p).mem = s.mem := rfl
@[simp] theorem State.wakeWhere_memErr (s : State) (p : Fragment → Bool) : (s.wakeWhere p).memErr = s.memErr := rfl
@[simp] theorem State.wakeWhere_caches (s : State) (p : Fragment → Bool) : (s.wakeWhere p).caches = s.caches := rfl
@[simp] theorem State.wakeWhere_xl (s : State) (p : Fragment → Bool) : (s.wakeWhere p).xl = s.xl := rfl
@[simp] theorem State.wakeWhere_vat0 (s : State) (p : Fragment → Bool) : (s.wakeWhere p).vat0 = s.vat0 := rfl
@[simp] theorem State.wakeWhere_vat1 (s : State) (p : Fragment → Bool) : (s.wakeWhere p).vat1 = s.vat1 := rfl
@[simp] theorem State.wakeWhere_bankQ (s : State) (p : Fragment → Bool) : (s.wakeWhere p).bankQ = s.bankQ := rfl
@[simp] theorem State.wakeWhere_copies (s : State) (p : Fragment → Bool) : (s.wakeWhere p).copies = s.copies := rfl
@[simp] theorem State.wakeWhere_idCount (s : State) (p : Fragment → Bool) : (s.wakeWhere p).idCount = s.idCount := rfl
@[simp] theorem State.wakeWhere_nets (s : State) (p : Fragment → Bool) : (s.wakeWhere p).nets = s.nets := rfl
@[simp] theorem State.wakeWhere_recTiles (s : State) (p : Fragment → Bool) : (s.wakeWhere p).recTiles = s.recTiles := rfl
@[simp] theorem State.wakeWhere_colls (s : State) (p : Fragment → Bool) : (s.wakeWhere p).colls = s.colls := rfl
@[simp] theorem State.wakeWhere_rays (s : State) (p : Fragment → Bool) : (s.wakeWhere p).rays = s.rays := rfl
@[simp] theorem State.wakeWhere_treelets (s : State) (p : Fragment → Bool) : (s.wakeWhere p).treelets = s.treelets := rfl
@[simp] theorem State.wakeWhere_fq (s : State) (p : Fragment → Bool) : (s.wakeWhere p).fq = s.fq := rfl
@[simp] theorem State.wakeWhere_ev (s : State) (p : Fragment → Bool) : (s.wakeWhere p).ev = s.ev := rfl
@[simp] theorem State.wakeWhere_svc (s : State) (p : Fragment → Bool) : (s.wakeWhere p).svc = s.svc := rfl
@[simp] theorem State.wakeWhere_dev (s : State) (p : Fragment → Bool) : (s.wakeWhere p).dev = s.dev := rfl
@[simp] theorem State.wakeWhere_link (s : State) (p : Fragment → Bool) : (s.wakeWhere p).link = s.link := rfl
@[simp] theorem State.wakeWhere_decrements (s : State) (p : Fragment → Bool) : (s.wakeWhere p).decrements = s.decrements := rfl
@[simp] theorem State.wakeWhere_irqs (s : State) (p : Fragment → Bool) : (s.wakeWhere p).irqs = s.irqs := rfl
@[simp] theorem State.wakeWhere_loading (s : State) (p : Fragment → Bool) : (s.wakeWhere p).loading = s.loading := rfl
@[simp] theorem State.wakeWhere_recalCount (s : State) (p : Fragment → Bool) : (s.wakeWhere p).recalCount = s.recalCount := rfl
@[simp] theorem State.wakeWhere_waking (s : State) (p : Fragment → Bool) : (s.wakeWhere p).waking = s.waking := rfl
@[simp] theorem State.wakeWhere_cur (s : State) (p : Fragment → Bool) : (s.wakeWhere p).cur = s.cur := rfl
@[simp] theorem State.wakeWhere_inputs (s : State) (p : Fragment → Bool) : (s.wakeWhere p).inputs = s.inputs := rfl
@[simp] theorem State.wakeWhere_free (s : State) (p : Fragment → Bool) : (s.wakeWhere p).free = s.free := rfl

/-! ### Finding again what was put back -/

/-- The group that was put back is found. -/
theorem State.group?_setGroup_same (s : State) (g g0 : Group) (h : s.group? g.gid = some g0) : (s.setGroup g).group? g.gid = some g := by
  simp only [State.group?, State.setGroup] at *
  generalize s.groups = l at *
  induction l with
  | nil => simp at h
  | cons x l ih =>
    simp only [List.map_cons, List.find?_cons] at *
    by_cases hx : x.gid = g.gid
    · simp [hx]
    · rw [if_neg hx]
      simp only [beq_eq_false_iff_ne.mpr hx] at h ⊢
      exact ih h

/-- Every other group is found as it was. -/
theorem State.group?_setGroup_other (s : State) (g : Group) (gid : Nat) (hn : gid ≠ g.gid) : (s.setGroup g).group? gid = s.group? gid := by
  simp only [State.group?, State.setGroup]
  generalize s.groups = l
  induction l with
  | nil => rfl
  | cons x l ih =>
    simp only [List.map_cons, List.find?_cons]
    by_cases hx : x.gid = g.gid
    · have h1 : (g.gid == gid) = false := beq_eq_false_iff_ne.mpr (Ne.symm hn)
      simp only [hx, if_true, h1]
      exact ih
    · simp only [hx, if_false]
      rw [ih]

/-- The gang that was put back is found. -/
theorem Group.gang?_setGang_same (g : Group) (h h0 : Gang) (hh : g.gang? h.id = some h0) : (g.setGang h).gang? h.id = some h := by
  simp only [Group.gang?, Group.setGang] at *
  generalize g.gangs = l at *
  induction l with
  | nil => simp at hh
  | cons x l ih =>
    simp only [List.map_cons, List.find?_cons] at *
    by_cases hx : x.id = h.id
    · simp [hx]
    · rw [if_neg hx]
      simp only [beq_eq_false_iff_ne.mpr hx] at hh ⊢
      exact ih hh

/-- Every other gang is found as it was. -/
theorem Group.gang?_setGang_other (g : Group) (h : Gang) (id : Nat) (hn : id ≠ h.id) : (g.setGang h).gang? id = g.gang? id := by
  simp only [Group.gang?, Group.setGang]
  generalize g.gangs = l
  induction l with
  | nil => rfl
  | cons x l ih =>
    simp only [List.map_cons, List.find?_cons]
    by_cases hx : x.id = h.id
    · have h1 : (h.id == id) = false := beq_eq_false_iff_ne.mpr (Ne.symm hn)
      simp only [hx, if_true, h1]
      exact ih
    · simp only [hx, if_false]
      rw [ih]

/-- The fragment that was put back is found. -/
theorem Gang.frag?_setFrag_same (h : Gang) (f f0 : Fragment) (hf : h.frag? f.entry = some f0) : (h.setFrag f).frag? f.entry = some f := by
  simp only [Gang.frag?, Gang.setFrag] at *
  generalize h.frags = l at *
  induction l with
  | nil => simp at hf
  | cons x l ih =>
    simp only [List.map_cons, List.find?_cons] at *
    by_cases hx : x.entry = f.entry
    · simp [hx]
    · rw [if_neg hx]
      simp only [beq_eq_false_iff_ne.mpr hx] at hf ⊢
      exact ih hf

/-- Every other fragment is found as it was. -/
theorem Gang.frag?_setFrag_other (h : Gang) (f : Fragment) (e : Nat) (hn : e ≠ f.entry) : (h.setFrag f).frag? e = h.frag? e := by
  simp only [Gang.frag?, Gang.setFrag]
  generalize h.frags = l
  induction l with
  | nil => rfl
  | cons x l ih =>
    simp only [List.map_cons, List.find?_cons]
    by_cases hx : x.entry = f.entry
    · have h1 : (f.entry == e) = false := beq_eq_false_iff_ne.mpr (Ne.symm hn)
      simp only [hx, if_true, h1]
      exact ih
    · simp only [hx, if_false]
      rw [ih]

/-- What the issuing context is: the group, gang and fragment that `cur` names. -/
theorem State.ctx?_eq {s : State} {c : Ctx} (h : s.ctx? = some c) :
    ∃ r, s.cur = some r ∧ s.group? r.gid = some c.g ∧ c.g.gang? r.gang = some c.h ∧ c.h.frag? r.entry = some c.f ∧
      c.g.gid = r.gid ∧ c.h.id = r.gang ∧ c.f.entry = r.entry := by
  simp only [State.ctx?, Option.bind_eq_bind, Option.bind_eq_some_iff, Option.pure_def, Option.some.injEq] at h
  obtain ⟨r, hr, g, hg, k, hk, f, hf, rfl⟩ := h
  have h1 := List.find?_some hg
  have h2 := List.find?_some hk
  have h3 := List.find?_some hf
  simp only [beq_iff_eq] at h1 h2 h3
  exact ⟨r, hr, hg, hk, hf, h1, h2, h3⟩

/-- After a changed gang and fragment are put back, the issuing context is the changed one. -/
theorem State.ctx?_put {s : State} {c : Ctx} (hc : s.ctx? = some c) (g : Group) (h : Gang) (f : Fragment)
    (hg : g.gid = c.g.gid) (hgs : g.gangs = c.g.gangs) (hh : h.id = c.h.id) (hf : f.entry = c.f.entry) (hfs : h.frags = c.h.frags) :
    (s.put g h f).ctx? = some ⟨g.setGang (h.setFrag f), h.setFrag f, f⟩ := by
  obtain ⟨r, hr, h1, h2, h3, e1, e2, e3⟩ := State.ctx?_eq hc
  have a1 : (s.put g h f).group? r.gid = some (g.setGang (h.setFrag f)) := by
    have := State.group?_setGroup_same s (g.setGang (h.setFrag f)) c.g (by
      show s.group? g.gid = _
      rw [hg, e1, h1])
    have e : (g.setGang (h.setFrag f)).gid = r.gid := by
      show g.gid = _
      rw [hg, e1]
    rwa [e] at this
  have a2 : (g.setGang (h.setFrag f)).gang? r.gang = some (h.setFrag f) := by
    have := Group.gang?_setGang_same g (h.setFrag f) c.h (by
      show g.gangs.find? _ = _
      rw [hgs]
      show c.g.gang? h.id = _
      rw [hh, e2, h2])
    have e : (h.setFrag f).id = r.gang := by
      show h.id = _
      rw [hh, e2]
    rwa [e] at this
  have a3 : (h.setFrag f).frag? r.entry = some f := by
    have := Gang.frag?_setFrag_same h f c.f (by
      show h.frags.find? _ = _
      rw [hfs]
      show c.h.frag? f.entry = _
      rw [hf, e3, h3])
    rwa [hf, e3] at this
  have a0 : (s.put g h f).cur = some r := hr
  simp only [State.ctx?, a0, a1, a2, a3, Option.bind_eq_bind, Option.bind_some, Option.pure_def]

end Sys2Proof.Machine
end

