-- ==== Sys2Proof/Laws/Sync.lean ====
section
/-! SUPPORT. What sending a synchronisation word to its bank does, and what a grant of registers leaves, once for every word that uses them. -/

namespace Sys2Proof.Machine

/-- A word that is sent puts one request in the bank's queue; memory stays. -/
@[simp] theorem State.sendSync_mem (s : State) (c : Ctx) (f : Fragment) (va pa : Nat) (w : SyncOp) : (s.sendSync c f va pa w).mem = s.mem := rfl

@[simp] theorem State.sendSync_idCount (s : State) (c : Ctx) (f : Fragment) (va pa : Nat) (w : SyncOp) :
    (s.sendSync c f va pa w).idCount = s.idCount + 1 := rfl

@[simp] theorem State.sendSync_cores (s : State) (c : Ctx) (f : Fragment) (va pa : Nat) (w : SyncOp) : (s.sendSync c f va pa w).cores = s.cores := rfl

@[simp] theorem State.sendSync_time (s : State) (c : Ctx) (f : Fragment) (va pa : Nat) (w : SyncOp) : (s.sendSync c f va pa w).time = s.time := rfl

theorem State.sendSync_queue (s : State) (c : Ctx) (f : Fragment) (va pa : Nat) (w : SyncOp) : ∃ r, (s.sendSync c f va pa w).bankQ = s.bankQ ++ [r] ∧
    r.gid = c.g.gid ∧ r.gang = c.h.id ∧ r.op = s.idCount ∧ r.va = va ∧ r.pa = pa ∧ r.what = .sync c.f.entry w :=
  ⟨_, rfl, rfl, rfl, rfl, rfl, rfl, rfl⟩

/-- A synchronisation word outside a window that its gang may issue sends its request where its address is reached. -/
theorem syncWord_sends (s : State) (c : Ctx) (a : SReg) (srcs : List SReg) (w : Ctx → SyncOp) (pa attr : Nat) (hc : s.ctx? = some c)
    (hw : c.h.window = none) (hs : c.h.serialBlocked = false) (ha : c.h.accessPending = false)
    (hk : s.checkGlobal c.g.who .sync (c.h.readS a.val).toNat 16 = .ok (pa, attr)) :
    syncWord s a srcs w = .next ((s.noteWalk c.g.who (c.h.readS a.val).toNat).sendSync { c with g := c.g.orErr (c.h.sourceErr (a :: srcs)) }
      (if (w c).returns then c.f.hold (.bank s.idCount) else c.f.advance 1) (c.h.readS a.val).toNat pa (w c)) := by
  simp [syncWord, irrevocable, deferred, withCur, hc, hw, hs, ha, hk]

@[simp] theorem Gang.raise_vcount (h : Gang) (n : Nat) : (h.raise n).vcount = h.vcount + n := rfl
@[simp] theorem Gang.raise_s (h : Gang) (n : Nat) : (h.raise n).s = h.s := rfl
@[simp] theorem Gang.raise_p (h : Gang) (n : Nat) : (h.raise n).p = h.p := rfl
@[simp] theorem Gang.raise_frags (h : Gang) (n : Nat) : (h.raise n).frags = h.frags := rfl
@[simp] theorem Gang.raise_window (h : Gang) (n : Nat) : (h.raise n).window = h.window := rfl

end Sys2Proof.Machine
end

