-- ==== Sys2Proof/Tests/Slice0.lean ====
section
/-! SUPPORT. Tests: ill-formed terms refused, words written out from the encodings, one step of an instruction on a small state with a result
worked out from the manual, and a witness for the hypotheses of each statement. -/

namespace Sys2Proof.Tests

open Sys2Proof Sys2Proof.Machine

set_option maxRecDepth 100000
set_option Elab.async false

/-! ## Small states -/

/-- The first fragment of the placed gang. -/
def frag0 : Fragment := ⟨0, .runnable, 0xFF, 0xFFFFFFFF, 0x4000, 0x294A, 0, .none, false, 0, none, 0, none, none⟩

/-- A running group on core 0 whose one gang of 32 lanes issues a word. -/
def base : State := { State.reset.withFetchWord 32 0x80000000 with cur := some ⟨0, 0, 0⟩ }

/-- The same with another group, gang or fragment. -/
def withG (g : Group) : State := { base with groups := [g] }
def withH (h : Gang) : State := withG { placedGroup with gangs := [h] }
def withF (f : Fragment) : State := withH { placedGang with frags := [f] }

/-- The issuing fragment of these states. -/
def ctxH (h : Gang) (f : Fragment) : Ctx := ⟨{ placedGroup with gangs := [h] }, h, f⟩
def ctx0 : Ctx := ⟨placedGroup, placedGang, frag0⟩

theorem base_ctx : base.ctx? = some ctx0 := by decide

/-- A gang whose s registers 2 and up hold the words given. -/
def withS (xs : List Word) : State := withH { placedGang with s := xs.zipIdx.map fun p => (p.2 + 2, p.1) }

/-- A gang whose v registers 2 and up hold the words given in lane 0, and only lane 0 present. -/
def withV (xs : List Word) : State :=
  withH { placedGang with v := xs.zipIdx.map (fun p => (64 * (p.2 + 2), p.1)), lmask := 1, present := 1,
                          frags := [{ frag0 with qset := 1, fmask := 1 }] }

/-- What a next state's issuing fragment holds. -/
def after {A : Type} (o : Out) (f : Ctx → A) : Option A := match o with | .next t => t.ctx?.map f | _ => none

/-- An s register after a word. -/
def sAfter (o : Out) (r : Nat) : Option Word := after o fun c => c.h.readS r

/-- A v register of lane 0 once the results of fixed latency have landed. -/
def vAfter (o : Out) (r : Nat) : Option Word := after o fun c => (c.h.settle 100).readV r 0

/-- The trap a next state's gang holds: CAUSE and DETAIL. -/
def trapAfter (o : Out) : Option (Nat × Nat) := after o fun c => (c.h.trapcause.cause.toNat, c.h.trapcause.detail.toNat)

/-- A lane instruction's fields with no guard, class 3, no set or wait counter. -/
def ln (ty : TyCode) (d a b c : Operand) (mod : BitVec 4 := 0) (x24 : BitVec 24 := 0) : Lane :=
  ⟨d, a, b, c, 0, false, ty, mod, 3, 1, 0, 0, x24⟩

/-! ## Ill-formed terms -/

def bad (i : Instr) : Bool := !i.wellFormed

/-- Each check of the plain words and of the device's steps refuses a term. -/
theorem test_plain_checks_refuse : [Instr.swr .gangid 1, .brv 0 0 true 0, .exit 0 true, .illegalInstruction 0, .illegalInstruction 12,
    .recarveDone 192, .slotPayloadReceive 0 6, .recalibration 192 400 550 667 800, .copyAccept 24 0, .copyRun 0 16, .parkReread 0 32 0,
    .waiterResend 0 0 128, .windowCommit 0 32, .rasterise 8 0 0 0, .blend 0 0 0 16, .tileRetire 8 0 0, .arrayGate (.l1Way 192 0),
    .arrayWake (.scratch 0 256), .registerWrite 0 0x800000 0, .flitReceive [], .deviceReset ⟨[], []⟩].all bad = true := by decide

/-- Each check of a lane instruction refuses a term, with the lowest detail that R116 gives. -/
theorem test_lane_checks_refuse : [
    Legal.illegal .vabs (ln .i32 (.v 1) (.v 2) (.v 3) (.v 0)) .none, Legal.illegal .vabs (ln .i32 (.v 1) (.v 2) (.v 0) (.v 0) 2) .none,
    Legal.illegal .vabs (ln .i32 (.v 1) (.v 2) (.v 0) (.v 0) 0 1) .none, Legal.illegal .vvote (ln .b64 (.p 1) (.p 2) (.v 0) (.v 0) 3) .none,
    Legal.illegal .vadd (ln .f32 (.v 1) (.v 2) (.v 3) (.v 0)) .none, Legal.illegal .vadd (ln .i32 (.s 1) (.v 2) (.v 3) (.v 0)) .none,
    Legal.illegal .vadd (ln .i8 (.v 1) (.const 35) (.v 3) (.v 0)) .none,
    Legal.illegal .vadd (ln .i32 (.v 40) (.v 2) (.v 3) (.v 0)) ⟨none, some 40, none⟩,
    Legal.illegal .mzero (ln .f32 (.acc 4) (.v 0) (.v 0) (.v 0)) ⟨none, none, some 4⟩,
    Legal.illegal .vadd { ln .i32 (.v 1) (.v 2) (.v 3) (.v 0) with pn := true } .none,
    Legal.illegal .vadd { ln .i64 (.v 1) (.v 2) (.v 3) (.v 0) with cls := 1 } .none,
    Legal.illegal .vadd { ln .i32 (.v 1) (.v 2) (.v 3) (.v 0) with set := 1 } .none,
    Legal.illegal .vadd (ln .i32 (.v 1) (.v 2) (.v 3) (.v 0)) .none] =
  [some 2, some 2, some 2, some 2, some 3, some 4, some 4, some 5, some 6, some 7, some 8, some 9, none] := by decide

/-! ## Words written out from the encodings (R93, R96, R111 to R114) -/

/-- The layouts of R93 and R96. The words of a lane instruction stand highest first (R89). -/
def sa (op sd a b fn : Nat) : Nat := op * 2 ^ 24 + sd * 2 ^ 18 + a * 2 ^ 12 + b * 2 ^ 6 + fn
def si (op sd a imm : Nat) : Nat := 2 ^ 30 + op * 2 ^ 24 + sd * 2 ^ 18 + a * 2 ^ 12 + imm
def sc (op ct imm : Nat) : Nat := 2 ^ 31 + op * 2 ^ 25 + ct * 2 ^ 21 + imm
def lane (op d a b c pg pn ty mod cls st set wo x24 : Nat) : Nat :=
  let n := 3 * 2 ^ 94 + op * 2 ^ 86 + d * 2 ^ 77 + a * 2 ^ 68 + b * 2 ^ 59 + c * 2 ^ 50 + pg * 2 ^ 46 + pn * 2 ^ 45 + ty * 2 ^ 40 +
    mod * 2 ^ 36 + cls * 2 ^ 34 + st * 2 ^ 30 + set * 2 ^ 27 + wo * 2 ^ 24 + x24
  n / 2 ^ 64 + n / 2 ^ 32 % 2 ^ 32 * 2 ^ 32 + n % 2 ^ 32 * 2 ^ 64

def reads (xs : List (Nat × Instr)) : Bool := xs.all fun p => decodeTableWord 32 p.1 == some p.2

theorem test_decode_sa : reads [(sa 1 3 5 9 0, .sadd 3 5 9), (sa 2 3 5 9 0, .ssub 3 5 9), (sa 3 3 5 9 0, .smul 3 5 9), (sa 4 3 5 9 0, .smulh 3 5 9 false),
    (sa 4 3 5 9 1, .smulh 3 5 9 true), (sa 5 3 5 9 0, .sand 3 5 9), (sa 6 3 5 9 0, .sor 3 5 9), (sa 7 3 5 9 0, .sxor 3 5 9), (sa 8 3 5 9 0, .sshl 3 5 9),
    (sa 9 3 5 9 0, .sshr 3 5 9), (sa 10 3 5 9 0, .ssra 3 5 9), (sa 11 3 5 9 0, .smin 3 5 9), (sa 12 3 5 9 0, .smax 3 5 9), (sa 13 3 5 9 0, .sminn 3 5 9),
    (sa 14 3 5 9 0, .smaxn 3 5 9), (sa 15 (8 * 3 + 2) 5 9 0, .scmp .le 2 5 9), (sa 16 3 5 9 2, .ssel 3 5 9 2), (sa 17 3 5 0 0, .smov 3 5),
    (sa 18 3 5 0 0, .spopc 3 5), (sa 19 3 5 0 0, .sclz 3 5), (sa 20 0 5 0 0, .fmtset 5), (sa 21 3 0 0 0, .fmtget 3), (sa 22 0 5 0 0, .brx 5),
    (sa 23 0 5 9 3, .park 5 9 true true), (sa 24 0 5 9 34, .launch 5 9 true 2)] = true := by decide +kernel

theorem test_decode_sa_sync : reads [(sa 25 0 0 0 0, .batonTake), (sa 26 0 0 9 0, .batonPass 9), (sa 26 0 0 0 1, .batonPassAny), (sa 27 0 5 9 0, .lease 5 9),
    (sa 28 0 5 0 0, .unlease 5), (sa 32 0 5 0 0, .finit 5), (sa 33 0 5 9 0, .ffill 5 9), (sa 34 3 5 0 0, .ftake 3 5), (sa 35 3 5 0 3, .fpeek 3 5 3),
    (sa 36 0 5 9 0, .qinit 5 9), (sa 37 0 5 0 0, .qarr 5), (sa 38 0 5 9 0, .qbyt 5 9), (sa 39 0 5 9 0, .qwait 5 9)] = true := by decide +kernel

theorem test_decode_si : reads [(si 1 3 5 0xFFF, .saddImm 3 5 0xFFF), (si 2 3 5 7, .ssubImm 3 5 7), (si 3 3 5 7, .smulImm 3 5 7), (si 5 3 5 7, .sandImm 3 5 7),
    (si 6 3 5 7, .sorImm 3 5 7), (si 7 3 5 7, .sxorImm 3 5 7), (si 8 3 5 63, .sshlImm 3 5 63), (si 9 3 5 63, .sshrImm 3 5 63), (si 10 3 5 63, .ssraImm 3 5 63),
    (si 11 3 5 7, .sminImm 3 5 7), (si 12 3 5 7, .smaxImm 3 5 7), (si 13 3 5 7, .sminnImm 3 5 7), (si 14 3 5 7, .smaxnImm 3 5 7),
    (si 15 (8 * 7 + 1) 5 7, .scmpImm .nbit 1 5 7), (si 16 3 0 7, .sli 3 7), (si 17 3 5 7, .slih 3 5 7), (si 19 3 5 (64 * 11 + 4), .sbfe 3 5 11 4),
    (si 20 3 5 (64 * 11 + 4), .sbfi 3 5 11 4), (si 21 3 5 8, .sld 3 5 8), (si 22 3 5 8, .sst 3 5 8), (si 23 3 5 8, .slds 3 5 8), (si 24 3 5 8, .ssts 3 5 8),
    (si 25 3 0 0x12, .srd 3 (.clscyc 1)), (si 26 0 5 0x0E, .swr .errsum 5), (si 27 0 0 16, .give 16), (si 28 0 0 24, .claim 24)] = true ∧
  decodeTableWord 64 (si 18 3 5 0 + 0xDEADBEEF * 2 ^ 32) = some (.sliw 3 5 0xDEADBEEF) := by decide +kernel

theorem test_decode_sc : reads [(sc 0 0 0, .nop), (sc 1 0 0x1FFFFF, .bra 0x1FFFFF), (sc 2 (8 + 3) 5, .brc true 3 5), (sc 3 9 (2 * 2 ^ 17 + 2 ^ 16 + 7), .brv 9 2 true 7),
    (sc 4 9 0, .rtok 9), (sc 5 0 (33 * 2 ^ 15 + 9), .loop 33 9), (sc 6 0 5, .call 5), (sc 7 0 0, .ret), (sc 8 0 (3 * 2 ^ 17 + 2 ^ 16), .exit 3 true),
    (sc 9 5 63, .wait 5 63), (sc 10 0 0, .yield), (sc 11 0 15, .waitb 15), (sc 12 15 5, .yieldB 15 5), (sc 13 0 0, .seal), (sc 14 0 255, .hint 255),
    (sc 15 0 0xFFFF, .trap 0xFFFF), (sc 16 0 0xFFFF, .bkpt 0xFFFF)] = true := by decide +kernel

/-- A word of the lane map with d, a, b, c and type as given, its guard, stall and wait fields set, decodes as such. -/
def shape (d a b c : Nat × Operand) (ty : Nat × TyCode) (x : Nat) (ops : List (Nat × (Lane → Instr))) : Bool :=
  ops.all fun p =>
    let g := if 0xA0 ≤ p.1 ∧ p.1 ≤ 0xA5 then 0 else 1
    decodeTableWord 96 (lane p.1 d.1 a.1 b.1 c.1 (9 * g) g ty.1 0 3 11 0 3 x) ==
      some (p.2 ⟨d.2, a.2, b.2, c.2, if g = 0 then 0 else 9, g == 1, ty.2, 0, 3, 11, 0, 3, BitVec.ofNat 24 x⟩)

def zz : Nat × Operand := (0, .v 0)
def v1 : Nat × Operand := (319, .v 319)
def v2 : Nat × Operand := (2, .v 2)
def k3 : Nat × Operand := (323, .const 3)
def s4 : Nat × Operand := (447, .s 63)
def p1 : Nat × Operand := (449, .p 1)
def p2 : Nat × Operand := (463, .p 15)
def a7 : Nat × Operand := (471, .acc 7)

theorem test_decode_lane_int :
    shape v1 v2 k3 zz (1, .i16) 0 [(1, .vadd), (2, .vsub), (3, .vmul), (4, .vmulh), (9, .vmin), (10, .vmax), (11, .vabsd), (13, .vand), (14, .vor),
      (15, .vxor), (17, .vshl), (18, .vshr), (19, .vsra), (20, .vrot), (31, .vpack), (32, .vunpk)] = true ∧
    shape v1 v2 k3 s4 (1, .i16) 0 [(5, .vmad), (6, .vmadw), (12, .vsad), (21, .vbfe), (22, .vbfi)] = true ∧
    shape v1 k3 zz zz (1, .i16) 0 [(7, .vabs), (8, .vneg), (16, .vnot), (23, .vpopc), (24, .vclz), (25, .vctz), (26, .vbrev), (27, .vbswp), (30, .vmov),
      (97, .vqswz), (100, .vmatch), (103, .vscan), (104, .vred)] = true ∧
    shape p1 v2 k3 zz (1, .i16) 0 [(28, .vcmp)] = true ∧ shape v1 v2 k3 p2 (1, .i16) 0 [(29, .vsel), (96, .vxln)] = true ∧
    shape v1 p2 zz zz (19, .b64) 0 [(101, .vballot)] = true ∧ shape p1 p2 zz zz (19, .b64) 0 [(102, .vvote)] = true ∧
    shape v1 v2 s4 zz (1, .i16) 0 [(105, .vbcast)] = true := by decide +kernel

theorem test_decode_lane_float :
    shape v1 v2 k3 zz (8, .f16) 0 [(64, .vfadd), (65, .vfsub), (66, .vfmul), (68, .vfmin), (69, .vfmax), (76, .vfdiv)] = true ∧
    shape v1 v2 k3 s4 (8, .f16) 0 [(67, .vfma)] = true ∧
    shape v1 v2 zz zz (8, .f16) 0 [(71, .vfclass), (72, .vfrnd), (73, .vfrcp), (74, .vfrsq), (75, .vfsqrt), (77, .vfexp2), (78, .vflog2), (79, .vfsin),
      (80, .vfcos), (88, .vcvt), (98, .vqdx), (99, .vqdy)] = true ∧
    shape p1 v2 k3 zz (8, .f16) 0 [(70, .vfcmp)] = true ∧ shape v1 v2 v2 k3 (8, .f16) 0 [(81, .vdot)] = true ∧
    shape v1 v2 zz zz (12, .e4m3) 8 [(89, .vcvtx)] = true ∧ shape v1 v2 zz zz (14, .mxf8) 8 [(90, .vscale)] = true := by decide +kernel

theorem test_decode_lane_memory :
    shape v1 v2 zz zz (10, .f32) 0 [(0x80, .vld), (0x82, .vlds)] = true ∧ shape zz v2 k3 zz (10, .f32) 0xFFFFF [(0x81, .vst), (0x83, .vsts)] = true ∧
    shape zz v2 zz zz (19, .b64) 0 [(0x84, .vpref)] = true ∧ shape v1 v2 k3 zz (2, .i32) 0 [(0x85, .vatom)] = true ∧
    shape v1 v2 k3 s4 (2, .i32) 0 [(0x86, .vcas)] = true ∧ shape zz v2 k3 zz (2, .i32) 0 [(0x87, .vfar)] = true ∧
    shape zz zz v2 zz (19, .b64) 0x1F [(0x88, .emit)] = true := by decide +kernel

theorem test_decode_lane_engines :
    shape a7 v2 v2 zz (8, .f16) 0 [(0xA0, .mma)] = true ∧ shape a7 s4 s4 zz (8, .f16) 0 [(0xA1, .mmaS), (0xA2, .mmaCsr)] = true ∧
    shape a7 zz zz zz (10, .f32) 0 [(0xA3, .mzero)] = true ∧ shape a7 v2 zz zz (10, .f32) 0 [(0xA4, .mlda)] = true ∧
    shape v2 a7 zz zz (10, .f32) 0 [(0xA5, .msta)] = true ∧ shape v1 v2 zz p2 (8, .f16) 3 [(0xC0, .vrcq)] = true ∧
    shape v2 v2 zz zz (10, .f32) 0 [(0xC1, .vtrace)] = true ∧ shape v1 v2 s4 zz (8, .f16) 0 [(0xC2, .vsamp)] = true ∧
    shape v1 v2 s4 k3 (8, .f16) 0 [(0xC3, .vsampl)] = true ∧ shape v1 zz zz zz (8, .f16) 0 [(0xC4, .vcov)] = true := by decide +kernel

/-- The special operand codes and a slot type; unassigned opcodes, reserved codes and types are refused (R97, R101, R111 to R115). -/
theorem test_decode_rest :
    decodeTableWord 96 (lane 5 1 472 473 474 0 0 21 0 3 0 0 0 0) = some (.vmad ⟨.v 1, .laneId, .quadId, .glane, 0, false, .fb, 0, 3, 0, 0, 0, 0⟩) ∧
    decodeTableWord 96 (lane 7 1 475 0 0 0 0 2 0 0 0 0 0 0) = some (.vabs ⟨.v 1, .helper, .v 0, .v 0, 0, false, .i32, 0, 0, 0, 0, 0, 0⟩) ∧
    [sa 0 0 0 0 0, sa 0x1D 0 0 0 0, sa 0x28 0 0 0 0, si 0 0 0 0, si 4 0 0 0, si 0x1D 0 0 0, sc 0x11 0 0, sc 9 7 0, sc 3 0 (2 ^ 16)].all
      (fun w => (decodeTableWord 32 w).isNone) = true ∧
    [0, 0x21, 0x3F, 0x52, 0x57, 0x5B, 0x5F, 0x6A, 0x7F, 0x89, 0x9F, 0xA6, 0xBF, 0xC5, 0xFF].all
      (fun op => (decodeTableWord 96 (lane op 0 0 0 0 0 0 19 0 0 0 0 0 0)).isNone) = true ∧
    [lane 1 476 1 1 0 0 0 2 0 0 0 0 0 0, lane 1 1 511 1 0 0 0 2 0 0 0 0 0 0, lane 1 1 1 1 0 0 0 22 0 0 0 0 0 0, lane 1 1 1 1 0 0 0 31 0 0 0 0 0 0].all
      (fun w => (decodeTableWord 96 w).isNone) = true := by decide +kernel

/-! ## One step of a word: results worked out by hand from the rules named -/

/-- R151: 2^64 - 1 + 2 wraps to 1; the high half of (-1) * 2 signed is -1, unsigned 1; a shift takes the low six bits. -/
theorem test_scalar_wraps :
    sAfter (exec (.sadd 5 2 3) (withS [0xFFFFFFFFFFFFFFFF, 2])) 5 = some 1 ∧
    sAfter (exec (.smulh 5 2 3 false) (withS [0xFFFFFFFFFFFFFFFF, 2])) 5 = some 0xFFFFFFFFFFFFFFFF ∧
    sAfter (exec (.smulh 5 2 3 true) (withS [0xFFFFFFFFFFFFFFFF, 2])) 5 = some 1 ∧
    sAfter (exec (.ssra 5 2 3) (withS [0x8000000000000000, 65])) 5 = some 0xC000000000000000 ∧
    sAfter (exec (.smaxnImm 5 2 0xFFF) (withS [7])) 5 = some 0xFFFFFFFFFFFFFFFF ∧
    sAfter (exec (.sminImm 5 2 0xFFF) (withS [7])) 5 = some 0xFFFFFFFFFFFFFFFF := by decide +kernel

/-- R98, R154, R155: s0 discards a write; SLIW advances by two words; a field that runs past bit 63 is cut. -/
theorem test_scalar_fields :
    sAfter (exec (.sadd 0 2 2) (withS [7])) 0 = some 0 ∧
    sAfter (exec (.sliw 2 2 0x89ABCDEF) (withS [0x0123456700000001])) 2 = some 0x0000000189ABCDEF ∧
    after (exec (.sliw 2 2 0) (withS [1])) (fun c => c.f.pc) = some 0x4002 ∧
    sAfter (exec (.sbfe 5 2 7 60) (withS [0xF000000000000001])) 5 = some 0xF ∧
    sAfter (exec (.sbfi 3 2 7 60) (withS [0xFF, 1])) 3 = some 0xF000000000000001 ∧
    sAfter (exec (.sclz 5 2) (withS [0])) 5 = some 64 ∧ sAfter (exec (.spopc 5 2) (withS [0xF0F])) 5 = some 8 := by decide +kernel

/-- R159, R160: a branch counts words from itself; LOOP falls through when its counter reaches zero; CALL leaves the next word's address in s63. -/
theorem test_branches :
    after (exec (.bra 0x1FFFFF) base) (fun c => c.f.pc) = some 0x3FFF ∧
    after (exec (.loop 2 4) (withS [2])) (fun c => (c.f.pc, c.h.readS 2)) = some (0x4004, 1) ∧
    after (exec (.loop 2 4) (withS [1])) (fun c => (c.f.pc, c.h.readS 2)) = some (0x4001, 0) ∧
    after (exec (.call 16) base) (fun c => (c.f.pc, c.h.readS 63)) = some (0x4010, 0x10004) ∧
    after (exec (.brc true 1 4) base) (fun c => c.f.pc) = some 0x4004 := by decide +kernel

/-- R171, R172, R384, R390: TRAP by the owner route where there is no handler; BKPT leaves TRAPPC at the word. -/
theorem test_traps :
    after (exec (.trap 0x1234) base) (fun c => (c.h.trapcause, c.h.trappc, c.h.fltmask)) =
      some (⟨false, true, 5, 0x1234⟩, 0x4001, 0xFFFFFFFF) ∧
    after (exec (.bkpt 7) base) (fun c => (c.h.trapcause, c.h.trappc)) = some (⟨false, true, 0x20, 7⟩, 0x4000) ∧
    trapAfter (exec (.give 4) base) = some (1, 0x0B) ∧ trapAfter (exec (.batonPass 1) base) = some (9, 1) := by decide +kernel

/-- R156: a word stored at 0x20000 is read back; the scratchpad offset 0xFFF8 of a window of 64 KiB is its last word, 0x10000 is past it. -/
theorem test_scalar_memory :
    (match exec (.sst 2 3 0) (withS [0x1122334455667788, 0x20000]) with
      | .next t => t.mem.readN 0x20000 8 == 0x1122334455667788 && t.mem.read 0x20000 == 0x88 && t.mem.wf
      | _ => false) = true ∧
    sAfter (exec (.sld 5 2 0) (withS [0x10000])) 5 = some 0x80000000 ∧
    sAfter (exec (.slds 5 2 0) (withS [0xFFF8])) 5 = some 0 ∧ trapAfter (exec (.slds 5 2 0) (withS [0x10000])) = some (0x29, 0) ∧
    trapAfter (exec (.sld 5 2 0) (withS [0x20004])) = some (0x28, 0) := by decide +kernel

/-- R206, R209: 0x7F + 1 wraps to 0x80 and clamps to 0x7F; |-128| clamps to 127; a shift takes its amount modulo the width. -/
theorem test_lane_integer :
    vAfter (exec (.vadd (ln .i8 (.v 4) (.v 2) (.const 1) (.v 0))) (withV [0x7F])) 4 = some 0x0101010101010180 ∧
    vAfter (exec (.vadd (ln .i8 (.v 4) (.v 2) (.const 1) (.v 0) 1)) (withV [0x7F])) 4 = some 0x010101010101017F ∧
    vAfter (exec (.vabs (ln .i8 (.v 4) (.v 2) (.v 0) (.v 0) 1)) (withV [0x80])) 4 = some 0x7F ∧
    vAfter (exec (.vshl (ln .i16 (.v 4) (.v 2) (.v 3) (.v 0))) (withV [0x8001, 17])) 4 = some 2 ∧
    vAfter (exec (.vrot (ln .n32 (.v 4) (.v 2) (.const 4) (.v 0))) (withV [0x8000000180000001])) 4 = some 0x0000001800000018 ∧
    vAfter (exec (.vmulh (ln .n8 (.v 4) (.v 2) (.v 2) (.v 0))) (withV [0xFF])) 4 = some 0xFE := by decide +kernel

/-- R215, R216, R220, R224: 1 + 2 = 3; 1 / 3 rounds to nearest even; the square root of 4; -0 below +0; 2.5 to even is 2. -/
theorem test_lane_float :
    vAfter (exec (.vfadd (ln .f32 (.v 4) (.v 2) (.v 3) (.v 0))) (withV [0x3F8000003F800000, 0x4000000040000000])) 4 = some 0x4040000040400000 ∧
    vAfter (exec (.vfdiv (ln .f32 (.v 4) (.v 2) (.v 3) (.v 0))) (withV [0x3F8000003F800000, 0x4040000040400000])) 4 = some 0x3EAAAAAB3EAAAAAB ∧
    vAfter (exec (.vfsqrt (ln .f64 (.v 4) (.v 2) (.v 0) (.v 0))) (withV [0x4010000000000000])) 4 = some 0x4000000000000000 ∧
    vAfter (exec (.vfmin (ln .f16 (.v 4) (.v 2) (.v 3) (.v 0))) (withV [0x0000, 0x8000])) 4 = some 0x8000 ∧
    vAfter (exec (.vfrnd (ln .f16 (.v 4) (.v 2) (.v 0) (.v 0))) (withV [0x4100])) 4 = some 0x4000 := by decide +kernel

/-- R228 to R234, in one lane: VMATCH and VBALLOT give the lane's own bit; VRED.ADD sums its elements into an s register. -/
theorem test_cross_lane :
    vAfter (exec (.vmatch (ln .n32 (.v 4) (.v 2) (.v 0) (.v 0))) (withV [5])) 4 = some 1 ∧
    vAfter (exec (.vballot (ln .b64 (.v 4) (.p 0) (.v 0) (.v 0))) (withV [5])) 4 = some 1 ∧
    after (exec (.vred (ln .n16 (.s 9) (.v 2) (.v 0) (.v 0))) (withV [0x0001000200030004])) (fun c => (c.h.settle 100).readS 9) = some 10 := by decide +kernel

/-- R102, R104, R116: the trap with the lowest detail; VADD.i64 of class 1 reports 0x08, a float type 0x03. -/
theorem test_lane_traps :
    trapAfter (exec (.vadd { ln .i64 (.v 4) (.v 2) (.v 3) (.v 0) with cls := 1 }) (withV [])) = some (1, 8) ∧
    trapAfter (exec (.vadd (ln .f16 (.v 4) (.v 2) (.v 3) (.v 0))) (withV [])) = some (1, 3) ∧
    trapAfter (exec (.vadd (ln .fa (.v 4) (.v 2) (.v 3) (.v 0))) (withV [])) = some (1, 3) := by decide +kernel

/-- R264, R271: a lane's store reaches its own address; an atomic add goes to its bank and changes nothing yet. -/
theorem test_lane_memory :
    (match exec (.vst (ln .n32 (.v 0) (.v 2) (.v 3) (.v 0))) (withV [0x20010, 0xCAFEBABE]) with
      | .next t => t.mem.readN 0x20010 8 == 0xCAFEBABE | _ => false) = true ∧
    (match exec (.vatom (ln .n32 (.v 4) (.v 2) (.v 3) (.v 0))) (withV [0x10000, 0x10]) with
      | .next t => t.mem.readN 0x10000 4 == 0x80000000 && t.bankQ.map (fun r => (r.pa, r.what, r.dest)) == [(0x10000, .atom 0 0x10, some 4)]
      | _ => false) = true := by decide +kernel

/-- R44: an election among masters 1 and 3 is won by 1; a claim in ELECT only sets its bit. -/
theorem test_election :
    (match exec .electionWindowExpiry { State.reset with time := 200000000000, own := { State.reset.own with claims := 0xA } } with
      | .next t => decide (t.own.state = .owned) && decide (t.own.owner = 1) | _ => false) = true ∧
    (match exec (.ownctlClaim 3) State.reset with | .next t => t.own.claims == 8 && decide (t.own.state = .elect) | _ => false) = true := by decide +kernel

/-- R432, R439: at 110 degrees the device stops. -/
theorem test_trip : (match exec (.thermalTrip 880) base with | .next t => t.dev.tripped | _ => false) = true := by decide +kernel

/-! ## Witnesses: states and operands that meet the hypotheses of each statement -/

/-- A property of each quad of a fragment, from the sixteen quads. -/
theorem each_quad {P : Nat → Prop} {m : BitVec 16} (h : ∀ q : Fin 16, m.getLsbD q.val = true → P q.val) : ∀ q, m.getLsbD q = true → P q :=
  fun q hq => h ⟨q, BitVec.lt_of_getLsbD hq⟩ hq

/-- A gang whose checkpoint is itself, in an open window with `held` and `fault`. -/
def checkOf (h : Gang) : Checkpoint :=
  ⟨h.s, h.p, h.c, h.lmask, h.frags, h.tokens, h.joins, h.satf, h.v, h.vcount, h.fpend, h.handler, h.verr, h.serr, h.perr, h.traced⟩
def windowOf (held : List Held) (fault : Option HeldFault) : Window := ⟨checkOf placedGang, [], [], [], [], [], [], held, [], fault, [], false⟩
def inWindow : Gang := { placedGang with window := some (windowOf [] none) }
def held0 : Held := ⟨[⟨false, 0x20000, 7⟩], none⟩

/-- An outstanding operation of the placed gang. -/
def op0 : VOp := ⟨0, 1, 0xFF, .time, 0, .none, [4], 1, false, false, true⟩

/-- A gang with an access outstanding, and one that serial mode holds back for it. -/
def pending : Gang := { placedGang with ops := [{ op0 with wait := .bank 1 }] }
def serialGang : Gang := { pending with serial := some (.count 1) }

/-- A gang of a checking pass that reads a register or a predicate with a write pending. -/
def hazard : Gang := { placedGang with fpend := [⟨3, 0, ⟨[((2, 0), 7)], [(1, 1, 1)], [], 0⟩⟩] }
def checking : Group := { placedGroup with chk := true, gangs := [hazard] }

/-- A gang in which TARM is set and SATF is not zero. -/
def fragArmed : Fragment := { frag0 with fmtf := 0x8294A }
def armed : Gang := { placedGang with satf := 1, frags := [fragArmed] }

theorem ctx_inWindow : (withH inWindow).ctx? = some (ctxH inWindow frag0) ∧ (ctxH inWindow frag0).h.window = some (windowOf [] none) := by decide +kernel
theorem ctx_armed : (withH armed).ctx? = some (ctxH armed fragArmed) ∧ (ctxH armed fragArmed).saturated = true := by decide +kernel
theorem ctx_serial : (withH serialGang).ctx? = some (ctxH serialGang frag0) ∧ serialGang.serialBlocked = true ∧ serialGang.window = none ∧
    (withH pending).ctx? = some (ctxH pending frag0) ∧ pending.accessPending = true ∧ pending.serialBlocked = false := by decide +kernel
theorem ctx_checking : (withG checking).ctx? = some ⟨checking, hazard, frag0⟩ ∧ checking.chk = true ∧ hazard.accessPending = false ∧ hazard.window = none ∧
    hazard.pendingP 0 1 &&& hazard.enabled frag0 ≠ 0 ∧ hazard.pendingP 0 0 &&& hazard.enabled frag0 = 0 := by decide +kernel
theorem ctx_plain : base.ctx? = some ctx0 ∧ ctx0.saturated = false ∧ ctx0.h.window = none ∧ ctx0.h.serialBlocked = false ∧ ctx0.h.accessPending = false ∧ ctx0.h.handler = none ∧
    ctx0.g.savePending = none ∧ base.mem.wf = true ∧ Table.wf Core.fresh base.cores = true ∧ Table.wf 0 ctx0.h.s = true ∧ Table.wf 0 ctx0.h.v = true ∧
    Table.wf 0 ctx0.h.p = true ∧ Table.wf [] ctx0.h.tokens = true := by decide +kernel

/-- RegistersAndMemory: the last registers and lanes, and the bytes beside a number. -/
theorem witness_RegistersAndMemory : Table.wf 0 placedGang.s = true ∧ Table.wf 0 placedGang.v = true ∧ Table.wf 0 placedGang.p = true ∧
    (63 : Nat) ≠ 0 ∧ (63 : Nat) < 64 ∧ ((319, 63) : Nat × Nat) ≠ (319, 0) ∧ (15 : Nat) ≠ 1 ∧
    base.mem.wf = true ∧ (0 : Nat) < 8 ∧ (0xFFFF < 0x10000 ∨ 0x10000 + 8 ≤ 0xFFFF) ∧ (0x10008 < 0x10000 ∨ 0x10000 + 8 ≤ 0x10008) := by decide +kernel

theorem witness_RegisterWordFrame : registerWord (.sadd 1 2 3) = some (none, false) ∧ base.ctx? = some ctx0 ∧ Table.wf 0 ctx0.h.s = true ∧
    isNext (exec (.sadd 1 2 3) base) = true := by decide +kernel

/-- ScalarResults, clause by clause: only that a fragment issues; and the counts at both ends of SCLZ and the field positions at both ends of SBFI. -/
theorem witness_ScalarResults : base.ctx? = some ctx0 ∧ (0 : Nat) ≤ 64 ∧ (63 : Nat) < 64 ∧ ((0 : CBit) ≠ 3) := by decide +kernel

theorem witness_SpecialRegisters : base.ctx? = some ctx0 ∧ ctx0.h.window = none ∧ ctx0.h.serialBlocked = false ∧
    (withH serialGang).ctx? = some (ctxH serialGang frag0) ∧ serialGang.window = none ∧ serialGang.serialBlocked = true ∧
    Special.gangid ≠ .fmt ∧ Special.gangid ≠ .satf ∧
    Special.gangid ≠ .trappc ∧ Special.gangid ≠ .errsum ∧
    (withH inWindow).ctx? = some (ctxH inWindow frag0) ∧ (ctxH inWindow frag0).h.window.isSome = true ∧
    (Special.satf = .satf ∨ Special.satf = .trappc ∨ Special.satf = .errsum) := by decide +kernel

/-- A gang in handler mode, one that would split quad 0, one whose stack of quad 0 is full, and one that holds a pending token of one quad. -/
def handling : Gang := { placedGang with handler := some (0, [1]) }
def splitting : Gang := { placedGang with p := [(1, 1)] }
def tok (pend : BitVec 4) : TokEntry := ⟨9, 0x5000, pend, 0, 0x294A⟩
def stackFull : Gang := { splitting with tokens := [(0, List.replicate 16 (tok 1))] }
def fragQuad : Fragment := { frag0 with qset := 1, fmask := 0xF }
def waiting : Gang := { placedGang with frags := [fragQuad], tokens := [(0, [tok 1])] }

theorem witness_BranchResults :
    (withH handling).ctx? = some (ctxH handling frag0) ∧ (ctxH handling frag0).h.handler = some (0, [1]) ∧ frag0.entry ∉ [1] ∧
    (withH splitting).ctx? = some (ctxH splitting frag0) ∧
    (match splitting.brv frag0 ((withH splitting).freeEntry 0) 9 1 0x4010 with | .ok h => h.frags.length == 2 | .error _ => false) = true ∧
    (withH stackFull).ctx? = some (ctxH stackFull frag0) ∧ stackFull.window = none ∧
    (match stackFull.brv frag0 ((withH stackFull).freeEntry 0) 3 1 0x4010 with | .ok _ => false | .error m => m == 0xF) = true ∧
    (withH waiting).ctx? = some (ctxH waiting fragQuad) ∧ Table.wf [] waiting.tokens = true ∧ (ctxH waiting fragQuad).saturated = false ∧
    fragQuad.qset = quadSet [0] ∧ waiting.stack 0 = tok 1 :: [] ∧ (tok 1).tok = 9 ∧ (tok 1).pend ≠ 0 := by decide +kernel

/-- BRV that every quad takes, and that none takes; RTOK with nothing open. -/
theorem witness_BranchResults_whole : checking.chk = true ∧ hazard.pendingP ((withG checking).core 0).cycle 1 &&& hazard.enabled frag0 ≠ 0 ∧
    hazard.pendingP ((withG checking).core 0).cycle 0 &&& hazard.enabled frag0 = 0 ∧ frag0.qset ≠ 0 ∧
    (∀ q, frag0.qset.getLsbD q = true → quadBits (placedGang.enabled frag0) q &&& ~~~(quadBits (placedGang.readP 0) q) = 0) ∧
    (∀ q, frag0.qset.getLsbD q = true → quadBits (placedGang.enabled frag0) q &&& quadBits (placedGang.readP 1) q = 0 ∧
      quadBits (placedGang.enabled frag0) q ≠ 0) ∧
    (∀ q, frag0.qset.getLsbD q = true → hasTok (placedGang.stack q) 9 = false) ∧ (placedGang.join 9).isOpen = false ∧
    (withH armed).ctx? = some (ctxH armed fragArmed) ∧ (ctxH armed fragArmed).saturated = true ∧ armed.window = none :=
  ⟨by decide +kernel, by decide +kernel, by decide +kernel, by decide +kernel, each_quad (by decide +kernel), each_quad (by decide +kernel),
    each_quad (by decide +kernel), by decide +kernel, by decide +kernel, by decide +kernel, by decide +kernel⟩

/-- LaneExit: no lane leaves, and every lane leaves. -/
theorem witness_LaneExit : (ctxH inWindow frag0).h.window.isSome = true ∧ ctx0.h.window = none ∧ ctx0.h.serialBlocked = false ∧
    (ctxH serialGang frag0).h.window = none ∧ (ctxH serialGang frag0).h.serialBlocked = true ∧ ctx0.g.chk = false ∧
    checking.chk = true ∧ hazard.window = none ∧ hazard.serialBlocked = false ∧ hazard.pendingP ((withG checking).core 0).cycle 1 &&& hazard.enabled frag0 ≠ 0 ∧
    (let h := placedGang.setFrag (frag0.advance 1)
     placedGang.lmask &&& ~~~(h.withHelpers (placedGang.enabled frag0 &&& placedGang.readP 1)) ≠ 0 ∧
     placedGang.lmask &&& ~~~(h.withHelpers (placedGang.enabled frag0 &&& placedGang.readP 0)) = 0) := by decide +kernel

/-- A gang with one operation of w0, one with a sealed batch, one with an open batch and fifteen sealed ones; a group with a save pending. -/
def counting : Gang := { placedGang with ops := [op0] }
def sealed (n : Nat) : Gang := { placedGang with batches := (List.range n).map fun k => ⟨k, true⟩ }
def opened (n : Nat) : Gang := { placedGang with batch := n, batches := (List.range n).map (fun k => ⟨k, true⟩) ++ [⟨n, false⟩] }
def saving : Group := { placedGroup with savePending := some (0, .preempt) }
def livKernel : Kernel := { placedKernel with livbase := 0x20000 }
def savingLive : State :=
  let s := withG { saving with kernel := livKernel }
  { s with mem := s.mem.writeL 0x20000 (Bits.toBytes 8 1) }
def ctxLive : Ctx := ⟨{ saving with kernel := livKernel }, placedGang, frag0⟩

theorem witness_WaitResults : ctx0.saturated = false ∧ ctx0.h.wcount frag0.qset 0 ≤ 0 ∧
    (withH counting).ctx? = some (ctxH counting frag0) ∧ 0 < counting.wcount frag0.qset 0 ∧
    ctx0.g.savePending = none ∧ (withG saving).ctx? = some ⟨saving, placedGang, frag0⟩ ∧ saving.savePending.isSome = true ∧
    (withG saving).hintPoint saving 0 = none ∧ savingLive.ctx? = some ctxLive ∧ (savingLive.hintPoint ctxLive.g 0).isSome = true ∧
    (withG { saving with gangs := [inWindow] }).ctx? = some ⟨{ saving with gangs := [inWindow] }, inWindow, frag0⟩ := by decide +kernel

theorem witness_WaitResults_batches : (withH (sealed 1)).ctx? = some (ctxH (sealed 1) frag0) ∧ (sealed 1).unfinished.length = 1 ∧ (ctxH (sealed 1) frag0).saturated = false ∧
    (withH (sealed 1)).oldestFailed 0 (sealed 1) = none ∧ (∀ b ∈ (sealed 15).batches, b.number ≠ 15) ∧
    (withH (opened 14)).ctx? = some (ctxH (opened 14) frag0) ∧ (∃ b ∈ (opened 14).batches, b.number = (opened 14).batch) ∧ (opened 14).unfinished.length < 15 ∧
    (opened 14).window = none ∧
    (withH (opened 15)).ctx? = some (ctxH (opened 15) frag0) ∧ (∃ b ∈ (opened 15).batches, b.number = (opened 15).batch) ∧ 15 ≤ (opened 15).unfinished.length ∧
    (withH (opened 15)).oldestFailed 0 (opened 15) = none := by decide +kernel

theorem witness_TrapPoints : ctx0.h.window = none ∧ (withH inWindow).ctx? = some (ctxH inWindow frag0) ∧ inWindow.window.isSome = true ∧
    (withH armed).ctx? = some (ctxH armed fragArmed) ∧ fragArmed.fmtf.getLsbD 19 = true ∧ armed.satf ≠ 0 ∧ armed.handler = none ∧ armed.window = none ∧
    armed.accessPending = false ∧ fragArmed.tested = false ∧ ctx0.h.serialBlocked = false ∧ (ctxH serialGang frag0).h.serialBlocked = true ∧
    (ctxH serialGang frag0).h.window = none := by decide +kernel

/-- Groups with a handler, and of a record-pass node; traps of both routes. -/
def withHandler : Group := { placedGroup with kernel := { placedKernel with hndlr := 0x10100 } }
def nodeGroup : Group := { placedGroup with node := some 0 }
def tr0 : TileRef := ⟨0, 0, 0⟩
def recTile0 : RecTile := ⟨tr0, [], [], [], 0, [], [], [0, 0, 0, 0, 0, 0, 0, 0], [], false⟩
def softTrap : Trap := ⟨0x05, 7, 1, false, 0, 7⟩
def ownTrap : Trap := ⟨0x20, 7, 1, true, 0, 7⟩

theorem witness_ExceptionEntry :
    (withG withHandler).ctx? = some ⟨withHandler, placedGang, frag0⟩ ∧ softTrap.owner = false ∧ placedGang.handler = none ∧ withHandler.kernel.hndlr ≠ 0 ∧
    (∀ r ∈ base.recTiles, r.tref ≠ ctx0.g.tref) ∧ ctx0.g.savePending = none ∧ ownTrap.owner = true ∧ handling.handler.isSome = true ∧ placedKernel.hndlr = 0 ∧
    (let s := { withG nodeGroup with recTiles := [recTile0] }
     s.ctx? = some ⟨nodeGroup, placedGang, frag0⟩ ∧ ∃ r ∈ s.recTiles, r.tref = nodeGroup.tref) := by decide +kernel

/-- A state whose core 0 is as given; a claim in its queue; a group with spare bytes. -/
def withCore (k : Core) (g : Group) : State := { withG g with cores := [(0, k)] }
def core0 : Core := { Core.fresh with scr := 16, phase0 := (3, 0), phase1 := (3, 0) }
def fragClaim : Fragment := { frag0 with state := .blocked, wait := .claim 8 }
def claiming : Gang := { placedGang with vcount := 8, claim := some 8, frags := [fragClaim] }
def claimGroup (spare : Nat) : Group := { placedGroup with gangs := [claiming], spare := spare }
def small : Group := { placedGroup with gangs := [{ placedGang with vcount := 8 }], spare := 2048 }
def queued : Core := { core0 with claims := [(0, 0, 8)], deadlock := [(0, 4096, 0)] }

/-- A core whose queued claim is another group's, which can and which cannot be granted. -/
def granting : State := { withCore { core0 with claims := [(1, 0, 8)] } small with groups := [small, { claimGroup 2048 with gid := 1 }] }
def stuckCore : Core := { core0 with claims := [(5, 0, 8)] }

/-- GIVE of all but eight registers, with one of them outstanding, and of one too many; CLAIM after a grant, from the spare pool, from the free
pool, into the queue, and refused one register past 320. -/
theorem witness_RegisterTrading :
    (∃ o ∈ ({ placedGang with ops := [{ op0 with dests := [8] }] } : Gang).ops, ∃ r ∈ o.dests, placedGang.vcount - 312 ≤ r ∧ r < 320) ∧
    ctx0.h.serialBlocked = false ∧ small.gangs.all (fun h => h.window.isNone && !h.serialBlocked) = true ∧
    ((granting.grantFirst 0).bind fun t => t.ctx?).map (fun c => (c.h, c.g.core)) = some ({ placedGang with vcount := 8 }, 0) ∧
    (withG small).grantFirst 0 = none ∧ (withCore stuckCore small).grantFirst 0 = none ∧ (withCore stuckCore { small with spare := 0 }).grantFirst 0 = none ∧
    0 < 4 * placedGang.presentQuads * 8 * 8 ∧
    (312 % 8 = 0 ∧ 8 ≤ 312 ∧ 312 + 8 ≤ ctx0.h.vcount) ∧ ctx0.h.lastLane = 0 ∧ (∀ o ∈ ctx0.h.ops, ∀ r ∈ o.dests, r < ctx0.h.vcount - 312 ∨ 320 ≤ r) ∧
    ctx0.h.vcount < 320 + 8 ∧
    (withG small).ctx? = some ⟨small, { placedGang with vcount := 8 }, frag0⟩ ∧ 4 * placedGang.presentQuads * 8 * 8 ≤ small.spare ∧ 8 + 312 ≤ 320 ∧
    ((withG small).core 0).claims = [] ∧ 4 * placedGang.presentQuads * 312 * 8 ≤ small.spare + (withG small).freePool 0 ∧
    ((withCore stuckCore small).core 0).claims ≠ [] ∧ 320 < ctx0.h.vcount + 8 := by decide +kernel

theorem witness_RegisterTrading_queue :
    (withCore queued (claimGroup 2048)).firstGrant 0 = some (0, 0, 8) ∧ (claimGroup 2048).gang? 0 = some claiming ∧
    (withCore queued (claimGroup 2048)).group? 0 = some (claimGroup 2048) ∧
    (let s := { withCore { queued with draining := false } (claimGroup 0) with
       groups := [claimGroup 0, { placedGroup with gid := 1, spare := 10000000 }] }
     ((s.residents 0).find? fun g => (s.core 0).deadlock.any (fun d => d.1 == g.gid && 4096 ≤ d.2.1) && s.claimStuck g) = some (claimGroup 0) ∧
     s.group? 0 = some (claimGroup 0)) ∧
    (claimGroup 0).gangs.filter (fun h => h.claim.isSome) = [claiming] ∧ claiming.claim = some 8 ∧
    claiming.frags.find? (fun f => match f.wait with | .claim _ => true | _ => false) = some fragClaim := by decide +kernel

/-- A deadlocked group, of a gang whose CLAIM waits and one that has none. -/
theorem witness_RegisterTrading_deadlock : ((claimGroup 0).gangs.map fun h => h.id).Nodup ∧ (claiming.frags.map fun f => f.entry).Nodup ∧
    Table.wf Core.fresh (withCore queued (claimGroup 0)).cores = true ∧ (∀ r ∈ (withCore queued (claimGroup 0)).recTiles, r.tref ≠ (claimGroup 0).tref) ∧
    placedGang.claim = none ∧ Table.wf 0 claiming.v = true := by decide +kernel

/-- What a check of an access answers. -/
def okAt (r : Except (Nat × Nat) (Nat × Nat)) (pa : Nat) : Bool := match r with | .ok x => x.1 == pa | .error _ => false
def errs (r : Except (Nat × Nat) (Nat × Nat)) (c d : Nat) : Bool := match r with | .ok _ => false | .error x => x == (c, d)

/-- ScalarMemoryResults: the lowest mapped word, the last of the scratchpad window, the first past it, a misaligned one, both apertures and an unmapped page. -/
theorem witness_ScalarMemoryResults :
    inAperture 0x10000 = false ∧ okAt (base.check placedGroup.who .load 0x10000 8) 0x10000 = true ∧ base.ownPending 0 0 0x10000 8 = false ∧
    okAt (base.check placedGroup.who .store 0 8) 0 = true ∧ isIO 0 = false ∧
    inControlAperture 0xFF010000000000 = true ∧ 0xFF010000000000 % 8 = 0 ∧ inCopyAperture 0xFF000000000078 = true ∧ 0xFF000000000078 % 8 = 0 ∧
    inAperture 0xFF010000000004 = true ∧ (0xFFF8 % 8 = 0 ∧ 0xFFF8 + 8 ≤ placedKernel.scrg * 4096) ∧
    (0x10000 % 8 = 0 ∧ placedKernel.scrg * 4096 < 0x10000 + 8) ∧ (0xFFFC % 8 ≠ 0) ∧
    errs (base.check placedGroup.who .load 0x20000000 8) 0x22 0 = true ∧ errs (base.check placedGroup.who .store 0x20000000 8) 0x22 0 = true ∧
    (windowOf [] none).held.length < 32 ∧ inWindow.serialBlocked = false ∧
    (withH inWindow).storeWaits (ctxH inWindow frag0) 0 0 8 = none ∧ okAt ((withH inWindow).check placedGroup.who .store 0 8) 0 = true ∧
    errs ((withH inWindow).check placedGroup.who .load 0x20000000 8) 0x22 0 = true ∧
    base.caches.old = [] ∧ okAt (base.check placedGroup.who .load 0x10000 8) 0x10000 = true := by decide +kernel

theorem witness_MemoryFrame : base.ctx? = some ctx0 ∧ base.mem.wf = true ∧ isNext (exec (.sld 5 2 0) (withS [0x10000])) = true ∧
    isNext (exec (.sst 3 2 0) (withS [0x10000])) = true ∧ isNext (exec (.slds 5 2 0) (withS [0])) = true ∧ isNext (exec (.ssts 5 2 0) (withS [0])) = true ∧
    isNext (exec (.copy 3 2 15) (withS [0xFF000000000000])) = true ∧ (0xFFFF < 0x10000 ∨ 0x10000 + 8 ≤ 0xFFFF) := by decide +kernel

/-- A copy that waits on channel 15 of engine 0. -/
def copy0 : Copy := ⟨0, 0, 15, .waiting, 0, 0, 0, 0, ⟨0, 0, 0⟩, 0, 0, false, none, 0, 0, 0, 0, [], 0, false, none, false⟩

/-- A gang whose fifteen sealed batches and open one are unfinished, the first of them with copies that have failed, or one that has not; and one that has an open
window as well. -/
def failedAt (h : Gang) (status : Nat) (others : List Copy) : State :=
  { withH h with copies := { copy0 with id := 3, state := .failed status 0x20000 2 } :: { copy0 with id := 2, state := .failed 4 0 4 } :: others }

theorem witness_CopyFaultTraps :
    ([0x0F, 0x10].all fun k =>
      ((failedAt (opened 15) k []).oldestFailed 0 (opened 15)).map (fun x => (x.id, x.state)) == some (2, .failed 4 0 4)) = true ∧
    ({ withH (opened 15) with copies := [{ copy0 with state := .failed 0x10 0x20000 2 }] } : State).oldestFailed 0 (opened 15) =
      some { copy0 with state := .failed 0x10 0x20000 2 } ∧
    (failedAt (opened 15) 5 [copy0]).oldestFailed 0 (opened 15) = none ∧ (withH (opened 15)).oldestFailed 0 (opened 15) = none ∧
    (failedAt (opened 15) 5 []).ctx? = some (ctxH (opened 15) frag0) ∧ (ctxH (opened 15) frag0).saturated = false ∧
    (14 : Fin 16).val < (opened 15).unfinished.length ∧ 15 ≤ (opened 15).unfinished.length ∧ (∃ b ∈ (opened 15).batches, b.number = (opened 15).batch) ∧
    (opened 15).serialBlocked = false ∧ (opened 15).window = none ∧ placedGang.unfinished = [] ∧
    (let h := { opened 15 with window := some (windowOf [] none) }
     ((failedAt h 5 []).oldestFailed 0 h).isSome = true ∧ (failedAt h 5 []).ctx? = some (ctxH h frag0)) := by decide +kernel
def copying (n : Nat) : State := { withS [0xFF000000000000] with copies := List.replicate n copy0 }

theorem witness_CopyWordResults : ((withS [0xFF000000000000]).ctx?.map fun c => c.h.readS 2) = some 0xFF000000000000 ∧
    (copying 3).channelLoad 0 15 = 3 ∧ (copying 3).channelQueue 0 15 = false ∧ (copying 3).loads 1 (Machine.unitArg 0) = false ∧
    4 ≤ (copying 4).channelLoad 0 15 ∧ isNext (exec (.copy 3 2 15) (copying 3)) = true := by decide +kernel

/-- Fragments parked on a word, and held for a resend. -/
def fragParked : Fragment := { frag0 with state := .parked, wait := .mem 0x10000 4 }
def fragResend : Fragment := { frag0 with state := .parked, wait := .resend 5 0x20000 (.take 4) }

theorem witness_ParkResults : okAt (base.checkGlobal placedGroup.who .load 0x10000 4) 0x10000 = true ∧
    decide (base.readPhys 0x10000 4 = 0x80000000 % 2 ^ 32) = true ∧ decide (base.readPhys 0x10000 4 = 0 % 2 ^ 32) = false ∧
    (let s := withF fragParked
     s.group? 0 = some { placedGroup with gangs := [{ placedGang with frags := [fragParked] }] } ∧
     ({ placedGang with frags := [fragParked] } : Gang).frag? 0 = some fragParked ∧ fragParked.wait = .mem 0x10000 4 ∧
     (0x10000 < 0x10003 + [(0 : Byte)].length ∧ 0x10003 < 0x10000 + 4)) ∧
    ({ placedGang with frags := [fragResend] } : Gang).frag? 0 = some fragResend ∧ fragResend.wait = .resend 5 0x20000 (.take 4) ∧
    (withF fragResend).group? 0 = some { placedGroup with gangs := [{ placedGang with frags := [fragResend] }] } := by decide +kernel

/-- A kernel descriptor of one quad at 0x20000 whose ENTRY is 0x10000, with eight registers (R70). -/
def launchable : State :=
  let s := withS [0x20000, 0x0300000000000100]
  { s with mem := s.mem.writeL 0x20000 (Bits.toBytes 64 (1 + 0x10000 * 2 ^ 256)) }
def entry0 : LaunchEntry := ⟨0, 0, ⟨0, 0, 0⟩, 0, placedKernel, 1, 0, 0, 16, 0, false, none⟩

theorem witness_LaunchResults : ctx0.saturated = false ∧ (0x20001 % 64 ≠ 0) ∧ (2 ^ 56 ≤ 2 ^ 56) ∧ 0x20000 % 64 = 0 ∧ 0x20000 < 2 ^ 56 ∧
    okAt (launchable.checkGlobal placedGroup.who .load 0x20000 64) 0x20000 = true ∧ launchable.ownPending 0 0 0x20000 64 = false ∧
    kernelOk ((launchable.noteWalk placedGroup.who 0x20000).readPhys 0x20000 64) 16 false = true ∧
    kernelOk ((base.noteWalk placedGroup.who 0x20000).readPhys 0x20000 64) 16 false = false ∧ (launchable.launchesOf 0).length < 4096 ∧
    isNext (exec (.launch 2 3 false 1) launchable) = true := by decide +kernel

theorem witness_LaunchResults_conflict : launchable.NoConflict 0x20000 64 false := by
  intro g hg h hh w hw
  rw [show launchable.groups = [{ placedGroup with gangs := [{ placedGang with s := [(2, 0x20000), (3, 0x0300000000000100)] }] }] from by decide +kernel] at hg
  obtain rfl := List.mem_singleton.mp hg
  obtain rfl := List.mem_singleton.mp hh
  have hn : ({ placedGang with s := [(2, 0x20000), (3, 0x0300000000000100)] } : Gang).window = none := by decide +kernel
  exact absurd (hn.symm.trans hw) (by simp)

theorem witness_LaunchResults_full : 4096 ≤ (({ launchable with launches := List.replicate 4096 entry0 } : State).launchesOf 0).length := by
  show 4096 ≤ (List.filter _ (List.replicate 4096 entry0)).length
  exact Nat.le_of_eq (by rw [List.filter_replicate, if_pos (by decide), List.length_replicate])

/-- An object at 0x20000 with the bits given; a future is full with bit 64. -/
def object (n : Nat) : State :=
  let s := withS [0x20000, 1]
  { s with mem := s.mem.writeL 0x20000 (Bits.toBytes 16 n) }

/-- A gang with one fragment parked at an object. -/
def atObject (k : Waiter) : Gang := { placedGang with frags := [{ frag0 with state := .parked, wait := .obj 0x20000 k }] }

theorem witness_FutureQuireResults_waiters : (atObject (.take 4)).window = none ∧ (atObject (.take 4)).frags = [{ frag0 with state := .parked, wait := .obj 0x20000 (.take 4) }] ∧
    (withH (atObject (.take 4))).groups = [{ placedGroup with gangs := [atObject (.take 4)] }] ∧
    (Quire.ofNat (1 * 2 ^ 112)).phase ≠ (Quire.ofNat 0).phase ∧ (Quire.ofNat (1 * 2 ^ 112)).passed 0 = true := by decide +kernel

/-- FutureQuireResults: an empty and a full future; a quire with its last arrival due, one complete, the largest byte count, a phase just passed. -/
theorem witness_FutureQuireResults :
    okAt ((object 0).checkGlobal placedGroup.who .sync 0x20000 16) 0x20000 = true ∧ (object 0).memErrBits 0x20000 16 = 0 ∧
    ((object 0).readPhys 0x20000 16).testBit 64 = false ∧ ((object (2 ^ 64)).readPhys 0x20000 16).testBit 64 = true ∧
    (let q := Quire.ofNat ((object (2 ^ 32)).readPhys 0x20000 16)
     q.arr < q.exp ∧ -(2 ^ 47) ≤ q.bytes + (2 ^ 47 - 1) ∧ q.bytes + (2 ^ 47 - 1) < 2 ^ 47 ∧ 2 ^ 47 ≤ q.bytes + 2 ^ 47) ∧
    (let q := Quire.ofNat ((object (2 ^ 32 + 1)).readPhys 0x20000 16)
     q.exp ≤ q.arr) ∧
    (let q := Quire.ofNat ((object (1 * 2 ^ 112)).readPhys 0x20000 16)
     q.passed 0 = true ∧ q.passed 1 = false) ∧
    (let q : Quire := ⟨0xFFFF, 2 ^ 47 - 1, 2 ^ 32 - 1, 2 ^ 32 - 1⟩
     q.phase < 65536 ∧ q.exp < 2 ^ 32 ∧ q.arr < 2 ^ 32 ∧ -(2 ^ 47) ≤ q.bytes ∧ q.bytes < 2 ^ 47) := by decide +kernel

/-- A word at its bank: its fragment waits for the answer, or in a gang whose CLAIM waits it is parked, and it has gone on. -/
def syncReq (w : SyncOp) : BankReq := ⟨0, 0, 7, 0, 0x20000, 0x20000, .n64, .sync 0 w, 0x294A, none, 0⟩
def asking (f : Fragment) (claim : Option Nat) : Gang := { placedGang with frags := [f], claim := claim, ops := [{ op0 with id := 7, wait := .bank 1 }] }
def atBank (w : SyncOp) (h : Gang) (n : Nat) : State :=
  let s := withH h
  { s with mem := s.mem.writeL 0x20000 (Bits.toBytes 16 n), bankQ := [syncReq w] }

theorem witness_FutureQuireResults_bank :
    ([SyncOp.finit, .ffill 1, .take 4, .peek 4 1, .qinit 1, .qarr, .qbyt 1, .qwait 0].all fun w =>
      let s := atBank w (asking { frag0 with wait := .bank 7 } none) (2 ^ 32)
      s.nextRequest == some (syncReq w) && !s.isGated (bankOf 0x20000) && s.mem.wf && regionOf 0x20000 != .control &&
        (s.group? 0).bind (fun g => g.gang? 0) == some (asking { frag0 with wait := .bank 7 } none) && s.memErrBits 0x20000 16 == 0) = true ∧
    placedGang.window = none ∧ (asking { frag0 with wait := .bank 7 } none).frag? 0 = some { frag0 with wait := .bank 7 } ∧
    ({ atBank .finit placedGang 0 with memErr := [(0x20000 / 128, 1)] } : State).memErrBits 0x20000 16 ≠ 0 ∧
    (let f := { frag0 with wait := .bank 7, state := .parked }
     (asking f (some 8)).claim.isSome = true ∧ (asking f (some 8)).frag? 0 = some f ∧ f.state = .parked) := by decide +kernel

/-- Core 0 with the baton as given, and a group of two gangs. -/
def batonCore (b : Option (Nat × Nat)) : Core := { core0 with baton := b }
def gang1 : Gang := Gang.start 1 32 1 0 1 0xFFFFFFFF 0 0 8 (BitVec.ofNat 56 placedAt)
def two : Group := { placedGroup with gangs := [{ placedGang with s := [(2, 1), (3, 2)] }, gang1, { gang1 with id := 2, lmask := 0 }] }
def lease0 : Lease := ⟨0x400, [0x400], 0⟩

theorem witness_BatonLeaseResults :
    (withCore (batonCore none) two).ctx?.isSome = true ∧ Table.wf Core.fresh (withCore (batonCore none) two).cores = true ∧
    ((withCore (batonCore none) two).core 0).baton = none ∧ ((withCore (batonCore (some (0, 0))) two).core 0).baton = some (0, 0) ∧
    ((0, 1) : Nat × Nat) ≠ (0, 0) ∧ (0, 0) ∉ (batonCore (some (0, 1))).batonQ ∧ (0 : Nat) % 32 = placedGang.id ∧
    two.gang? 1 = some gang1 ∧ gang1.lmask ≠ 0 ∧ (two.gang? 2).map (fun h => h.lmask) = some 0 ∧ (two.gang? 3).isNone = true ∧
    (let y := 1 * 2 ^ 40 + 1
     y / 2 ^ 40 % 2 ^ 24 ≠ 0 ∧ y % 2 ^ 32 ≠ 0 ∧ y / 2 ^ 32 % 2 ^ 8 = 0) ∧ (0 / 2 ^ 40 % 2 ^ 24 = 0) ∧
    (∃ l ∈ [lease0], l.ends ≤ base.time / 1000) ∧ isNext (exec (.unlease 2) base) = true := by decide +kernel

theorem witness_ElementLaws : 8 ∈ [8, 16, 32, 64] ∧ 2 ^ 64 - 1 < 2 ^ 64 ∧ 7 < 64 / 8 ∧ Types.isInt .i8 = true ∧ Types.isInt .n64 = true ∧ (63 : Nat) < 64 ∧
    64 - Bits.clz 64 0 ≤ 0 ∧ Bits.clz 64 1 < 64 ∧ 0 < Bits.ctz 64 2 ∧ Bits.ctz 64 1 < 64 := by decide +kernel

/-- A lane instruction on the placed gang is ready where it is legal, as no pass checks stalls. -/
theorem ready (op : LOp) (f : Lane) (far : Remote)
    (h : Legal.illegal op f ⟨some frag0.fmtf.toNat, some placedGang.vcount, some placedGroup.tiles.length⟩ = none) : LaneReady op f far base ctx0 :=
  ⟨base_ctx, h, fun k => absurd k (by decide)⟩

/-- LaneIntegerResults, LaneFloatResults, CrossLaneResults: one instruction of each shape is ready on the placed gang. -/
theorem witness_LaneIntegerResults : LaneReady .vadd (ln .i8 (.v 1) (.v 2) (.v 3) (.v 0)) ownLane base ctx0 ∧ LaneReady .vmadw (ln .i8 (.v 1) (.v 2) (.v 3) (.v 4)) ownLane base ctx0 ∧
    LaneReady .vcmp (ln .i8 (.p 1) (.v 2) (.v 3) (.v 0)) ownLane base ctx0 ∧ LaneReady .vmov (ln .i8 (.v 1) (.v 2) (.v 0) (.v 0) 1 0x707) ownLane base ctx0 ∧
    ctx0.h.window = none := by
  refine ⟨ready _ _ _ ?_, ready _ _ _ ?_, ready _ _ _ ?_, ready _ _ _ ?_, ?_⟩ <;> decide +kernel

theorem witness_LaneFloatResults : LaneReady .vfma (ln .f32 (.v 1) (.v 2) (.v 3) (.v 4)) ownLane base ctx0 ∧ LaneReady .vfcmp (ln .f64 (.p 1) (.v 2) (.v 3) (.v 0)) ownLane base ctx0 ∧
    LaneReady .vdot (ln .f16 (.v 1) (.v 2) (.v 3) (.v 4)) ownLane base ctx0 ∧ LaneReady .vcvtx (ln .mxf8 (.v 1) (.v 8) (.v 0) (.v 0) 0 8) ownLane base ctx0 ∧
    LaneReady .vscale (ln .mxf4 (.v 1) (.v 312) (.v 0) (.v 0) 0 8) ownLane base ctx0 := by
  refine ⟨ready _ _ _ ?_, ready _ _ _ ?_, ready _ _ _ ?_, ready _ _ _ ?_, ready _ _ _ ?_⟩ <;> decide +kernel

theorem witness_CrossLaneResults : LaneReady .vxln (ln .i8 (.v 1) (.v 2) (.v 3) (.p 1)) xlnFar base ctx0 ∧
    LaneReady .vqswz (ln .i8 (.v 1) (.v 2) (.v 0) (.v 0)) (swzFar (ln .i8 (.v 1) (.v 2) (.v 0) (.v 0))) base ctx0 ∧
    LaneReady .vqdx (ln .f16 (.v 1) (.v 2) (.v 0) (.v 0)) (diffFar (ln .f16 (.v 1) (.v 2) (.v 0) (.v 0)) false) base ctx0 ∧
    LaneReady .vvote (ln .b64 (.p 1) (.p 2) (.v 0) (.v 0) 2) ownLane base ctx0 ∧ LaneReady .vbcast (ln .i8 (.v 1) (.v 2) (.s 63) (.v 0)) bcastFar base ctx0 := by
  refine ⟨ready _ _ _ ?_, ready _ _ _ ?_, ready _ _ _ ?_, ready _ _ _ ?_, ready _ _ _ ?_⟩ <;> decide +kernel

def write0 : FWrite := ⟨4, 0, ⟨[((319, 31), 7)], [(1, 1, 1)], [(63, 7)], 1⟩⟩

theorem witness_LaneResultsLand : (∀ x ∈ ({ placedGang with fpend := [write0] } : Gang).fpend, 4 ≤ x.due) ∧ write0.due < 5 ∧ (∀ x ∈ write0.writes.v, x.1.2 < 64) ∧
    (write0.writes.v.map fun x => x.1).Nodup ∧ placedGang.lmask.getLsbD 31 = true ∧ placedGang.lmask.getLsbD 32 = false ∧ (0 : Nat) < 1 ∧
    (write0.writes.p.map fun x => x.1).Nodup ∧ (write0.writes.s.map fun x => x.1).Nodup ∧ (∀ x ∈ write0.writes.p, x.1 ≠ 0) ∧
    (∀ x ∈ write0.writes.s, x.1 ≠ 0) ∧ Table.wf 0 placedGang.s = true ∧ Table.wf 0 placedGang.p = true := by decide +kernel

theorem witness_LaneTraps : (Instr.vadd, LOp.vadd) ∈ laneOps ∧
    Legal.illegal .vadd { ln .i64 (.v 4) (.v 2) (.v 3) (.v 0) with cls := 1 } ⟨some 0x294A, some 320, some 8⟩ = some 8 ∧
    (withG checking).ctx? = some ⟨checking, hazard, frag0⟩ ∧ checking.chk = true ∧ hazard.accessPending = false ∧ hazard.window = none ∧
    (let f := ln .i32 (.v 4) (.v 2) (.v 3) (.v 0)
     let i := (⟨checking, hazard, frag0⟩ : Ctx).issue .vadd f
     Legal.illegal .vadd f ⟨some 0x294A, some 320, some 8⟩ = none ∧ (LOp.vadd == .vrcq) = false ∧
     (i.stalledIn ((withG checking).core 0).cycle (i.stalled ((withG checking).core 0).cycle (sources .vadd f i.t i.fmt) (farOf .vadd f i)) []).isSome
       = true) ∧
    (base.net 0).en = false ∧ Legal.vBelow (some 320) (.v 318) 3 = false := by
  refine ⟨List.Mem.head _, ?_⟩; decide +kernel

/-- A lane memory form that is ready on the placed gang, which has every address 0 in its lanes. -/
theorem witness_LaneMemoryResults :
    LaneReady .vld (ln .i8 (.v 1) (.v 2) (.v 0) (.v 0) 2) ownLane base ctx0 ∧ LaneReady .vst (ln .i8 (.v 0) (.v 2) (.v 4) (.v 0) 2) ownLane base ctx0 ∧
    LaneReady .vlds (ln .i8 (.v 1) (.v 2) (.v 0) (.v 0)) ownLane base ctx0 ∧ LaneReady .vsts (ln .i8 (.v 0) (.v 2) (.v 4) (.v 0)) ownLane base ctx0 ∧
    LaneReady .vpref (ln .b64 (.v 0) (.v 2) (.v 0) (.v 0)) ownLane base ctx0 ∧
    (let i := laneIssue .vld (ln .i8 (.v 1) (.v 2) (.v 0) (.v 0) 2) ownLane ctx0
     i.accessSize = 16 ∧ (i.lanes.all fun l => okAt (base.checkGlobal placedGroup.who .load (i.addr l) 16) 0 && !base.ownPending 0 0 0 16) = true) ∧
    (let i := laneIssue .vst (ln .i8 (.v 0) (.v 2) (.v 4) (.v 0) 2) ownLane ctx0
     (i.workers.all fun l => okAt (base.checkGlobal placedGroup.who .store (i.addr l) 16) 0) = true) ∧
    (let i := laneIssue .vlds (ln .i8 (.v 1) (.v 2) (.v 0) (.v 0)) ownLane ctx0
     (i.lanes.all fun l => i.addr l % 8 == 0 && i.addr l + 8 ≤ placedKernel.scrg * 4096) = true) := by
  refine ⟨ready _ _ _ ?_, ready _ _ _ ?_, ready _ _ _ ?_, ready _ _ _ ?_, ready _ _ _ ?_, ?_⟩ <;> decide +kernel

/-- An access of a page that nothing maps: the faults of its lanes give a trap. -/
theorem witness_LaneMemoryResults_fault : (laneFault .load [(3, 2 ^ 55, 0x21, 1), (4, 2 ^ 55, 0x21, 1)]).isSome = true ∧ [(3, 2 ^ 55, 0x21, 1)] ≠ [] ∧
    (let f := ln .i8 (.v 1) (.const 16) (.v 0) (.v 0)
     let i := laneIssue .vld { f with a := .s 2 } ownLane (ctxH { placedGang with s := [(2, 0x20000000)] } frag0)
     (laneFault .load ((i.checkLanes i.lanes fun va => base.checkGlobal placedGroup.who .load va i.accessSize).2.filter fun x => !i.isHelper x.1)).isSome) = true := by
  decide +kernel

/-- MemoryFrame: a lane store. -/
theorem witness_MemoryFrame_lanes : (Instr.vst, LOp.vst) ∈ laneOps ++ matrixOps ∧ base.mem.wf = true ∧ base.ctx? = some ctx0 ∧
    isNext (exec (.vst (ln .i8 (.v 0) (.v 2) (.v 4) (.v 0))) base) = true ∧ (16 < 2 ^ 52) := by
  refine ⟨?_, by decide +kernel⟩
  simp [laneOps]

/-- A gang in whose window stands what is given; the issue of a lane word there, every lane of which has address 0. -/
def within (w : Window) : Gang := { placedGang with window := some w }
theorem readyIn (op : LOp) (f : Lane) (w : Window)
    (h : Legal.illegal op f ⟨some frag0.fmtf.toNat, some placedGang.vcount, some placedGroup.tiles.length⟩ = none)
    (hc : (withH (within w)).ctx? = some (ctxH (within w) frag0)) : LaneReady op f ownLane (withH (within w)) (ctxH (within w) frag0) :=
  ⟨hc, h, fun k => absurd k (by simp [ctxH, placedGroup])⟩
def issueIn (op : LOp) (f : Lane) (w : Window) : Issue := laneIssue op f ownLane (ctxH (within w) frag0)
def open0 : Window := windowOf [] none
def vldF : Lane := ln .i8 (.v 1) (.v 2) (.v 0) (.v 0)
def vstF : Lane := ln .i8 (.v 0) (.v 2) (.v 4) (.v 0)

/-- Windows that hold a store to the bytes at 0, of memory and of the scratchpad, thirty-two stores, forty-eight registers, and 256 marked words. -/
def holding : Window := windowOf [⟨[⟨false, 0, 7⟩, ⟨true, 0, 7⟩], none⟩] none
def queueFull : Window := windowOf (List.replicate 32 held0) none
def shadowFull : Window := { open0 with shadow := (List.range 48).map fun k => k + 100 }
def markedFull : Window := { open0 with smarks := (List.range 256).map fun k => k + 1000 }

theorem witness_WindowAccesses_scalar :
    (withH inWindow).ctx? = some (ctxH inWindow frag0) ∧ inWindow.serialBlocked = false ∧ Table.wf 0 inWindow.s = true ∧
    okAt ((withH inWindow).check placedGroup.who .load 0 8) 0 = true ∧ isIO 0 = false ∧ open0.heldBytes = [] ∧
    ((withH inWindow).noteWalk placedGroup.who 0).ownPending 0 0 0 8 = false ∧
    ((withH inWindow).noteWalk placedGroup.who 0).noRoom (ctxH inWindow frag0) (attrLines 0 0 8) = none ∧
    (∃ b ∈ holding.heldBytes, b.scratch = false ∧ 0 ≤ b.addr ∧ b.addr < 0 + 8) ∧ (∃ b ∈ holding.heldBytes, b.scratch = true ∧ 0 ≤ b.addr ∧ b.addr < 0 + 8) ∧
    (0 % 8 = 0 ∧ 0 + 8 ≤ placedKernel.scrg * 4096) ∧ ¬ (4 % 8 = 0 ∧ 4 + 8 ≤ placedKernel.scrg * 4096) ∧
    (wordsOf 0 8 ++ open0.smarks ++ open0.sclaims).eraseDups.length ≤ 256 ∧ 256 < (wordsOf 0 8 ++ markedFull.smarks ++ markedFull.sclaims).eraseDups.length ∧
    32 ≤ queueFull.held.length ∧ okAt ((withH (within queueFull)).check placedGroup.who .store 0 8) 0 = true ∧
    ((withH (within queueFull)).noteWalk placedGroup.who 0).storeWaits (ctxH (within queueFull) frag0) 0 0 8 = none := by decide +kernel

theorem witness_WindowAccesses_lanes :
    LaneReady .vld vldF ownLane (withH (within open0)) (ctxH (within open0) frag0) ∧ LaneReady .vlds vldF ownLane (withH (within open0)) (ctxH (within open0) frag0) ∧
    LaneReady .vst vstF ownLane (withH (within open0)) (ctxH (within open0) frag0) ∧ LaneReady .vsts vstF ownLane (withH (within open0)) (ctxH (within open0) frag0) ∧
    (let i := issueIn .vld vldF open0
     let s := i.noteWalks (withH (within open0)) i.lanes
     i.lanes ≠ [] ∧ (i.lanes.all fun l => okAt ((withH (within open0)).checkGlobal placedGroup.who .load (i.addr l) 8) 0) = true ∧
     i.loadWaits s (i.checkLanes i.lanes fun va => (withH (within open0)).checkGlobal placedGroup.who .load va 8).1 8 = none ∧
     (open0.shadow ++ i.loadDests).eraseDups.length ≤ 48 ∧ 48 < (shadowFull.shadow ++ i.loadDests).eraseDups.length) ∧
    (let i := issueIn .vst vstF queueFull
     let s := withH (within queueFull)
     (i.workers.all fun l => okAt (s.checkGlobal placedGroup.who .store (i.addr l) 8) 0) = true ∧
     i.storeWaits (i.noteWalks s i.workers) (i.checkLanes i.workers fun va => s.checkGlobal placedGroup.who .store va 8).1 8 = none ∧
     32 ≤ queueFull.held.length) ∧ open0.held.length < 32 ∧
    (let i := issueIn .vsts vstF markedFull
     (i.workers.all fun l => i.addr l % 8 == 0 && decide (i.addr l + 8 ≤ placedKernel.scrg * 4096)) = true ∧
     256 < ((i.workers.flatMap fun l => wordsOf (0 + i.addr l) 8) ++ markedFull.smarks ++ markedFull.sclaims).eraseDups.length) := by
  refine ⟨readyIn _ _ _ ?_ ?_, readyIn _ _ _ ?_ ?_, readyIn _ _ _ ?_ ?_, readyIn _ _ _ ?_ ?_, ?_⟩ <;> decide +kernel

/-- A load of lanes that faults: every lane's address maps to nothing, or lies past the scratchpad window. -/
theorem witness_WindowAccesses_faults :
    (let h := { within open0 with s := [(2, 0x20000000)] }
     let f := { vldF with a := .s 2 }
     let i := laneIssue .vld f ownLane (ctxH h frag0)
     i.workers ≠ [] ∧ (i.workers.all fun l => errs ((withH h).checkGlobal placedGroup.who .load (i.addr l) 8) 0x22 0) = true ∧
     (i.workers.all fun l => decide (placedKernel.scrg * 4096 < i.addr l + 8)) = true) := by decide +kernel

/-- A bank request of the placed gang, due at once; an ordered entry and arrivals that wait, are discarded and are held. -/
def req (what : BankOp) : BankReq := ⟨0, 0, 0, 0, 0x20000, 0x20000, .n32, what, 0x294A, some 4, 0⟩
def banking (what : BankOp) : State :=
  let s := withH { placedGang with ops := [{ op0 with wait := .bank 1 }] }
  { s with bankQ := [req what] }
def entryOf (next : Nat) (held : List (Nat × BankReq)) : OrdEntry := ⟨homeSlice 0x20000, 0x20000, 200, next, held⟩
def vatOf (e : OrdEntry) : Vat := { Vat.fresh with ordered := [e] }

/-- A request to the first line of vat 0, whose bank is gated. -/
def gatedReq : BankReq := { req (.atom 0 7) with pa := vatBase 0 }
def gatedBank : State :=
  let s := banking (.atom 0 7)
  { s with bankQ := [gatedReq], vat0 := { s.vat0 with gatedBanks := [0] } }

theorem witness_AtomicResults_gated : gatedBank.nextRequest = some gatedReq ∧ gatedBank.isGated (bankOf gatedReq.pa) = true ∧
    regionOf gatedReq.pa ≠ .control ∧ regionOf gatedReq.pa ≠ .pcie := by decide +kernel

theorem witness_AtomicResults : LaneReady .vatom (ln .i32 (.v 4) (.v 2) (.v 3) (.v 0)) ownLane base ctx0 ∧ (Instr.vatom, LOp.vatom) ∈ [(Instr.vatom, LOp.vatom), (.vcas, .vcas), (.vfar, .vfar)] ∧
    (let i := laneIssue .vatom (ln .i32 (.v 4) (.v 2) (.v 3) (.v 0)) ownLane ctx0
     (i.workers.all fun l => okAt (base.checkGlobal placedGroup.who .atomic (i.addr l) 4) 0) = true) ∧
    (banking (.atom 0 7)).nextRequest = some (req (.atom 0 7)) ∧ (banking (.atom 0 7)).mem.wf = true ∧ regionOf 0x20000 ≠ .control ∧
    (banking (.atom 0 7)).isGated (bankOf 0x20000) = false ∧ (withH inWindow).ctx? = some (ctxH inWindow frag0) ∧ inWindow.window.isSome = true ∧
    (withH pending).ctx? = some (ctxH pending frag0) ∧ pending.accessPending = true ∧ pending.window = none ∧
    ((banking (.atom 0 7)).group? 0).isSome = true ∧ (banking (.atom 0 7)).memErrBits 0x20000 4 = 0 ∧ Types.isInt .n32 = true ∧
    (match (req (.atom 0 7)).what with | .sync _ _ => false | _ => true) = true ∧
    (banking (.cas 0 1)).nextRequest = some (req (.cas 0 1)) := by
  refine ⟨ready _ _ _ ?_, List.Mem.head _, ?_⟩ <;> decide +kernel

theorem witness_AtomicResults_ordered :
    (let r := req (.ordered 0 1 64 200)
     (vatOf (entryOf 0 [])).arrive r = .waits (vatOf (entryOf 0 []))) ∧
    (let r := req (.ordered 0 1 63 200)
     ({ banking (.atom 0 0) with bankQ := [r], vat0 := vatOf (entryOf 0 []) } : State).nextOrdered 0 = some r ∧
     ({ banking (.atom 0 0) with bankQ := [r], vat0 := vatOf (entryOf 0 []) } : State).isGated (bankOf r.pa) = false ∧
     ((vatOf (entryOf 0 [])).ordered.filter fun e => e.slice == homeSlice r.pa).find? (fun e => e.target == r.pa) = some (entryOf 0 []) ∧
     (match (vatOf (entryOf 0 [])).arrive r with | .holds _ => true | _ => false) = true) ∧
    (let r := req (.ordered 0 1 3 200)
     (match (vatOf (entryOf 4 [])).arrive r with | .discards _ => true | _ => false) = true) ∧
    (∀ x ∈ (entryOf 4 []).held, x.1 ≠ 4) ∧ (entryOf 200 []).next = (entryOf 200 []).count := by decide +kernel

/-- A frame in flight of one pass of one tile. -/
def rec0 : PassRec := ⟨0, false, 0, 1, 1, 0, 0, 1, 16, 1000, 0, 0, 0, 0, 0, 0, 0, 0⟩
def tile0 : Tile := ⟨.released, 0, 0, 0, none, false, 0, 0, 0, false, false⟩
def passOf (r : PassRec) (t : Tile) (nodes : List Nat) (ks : List (Option Kernel)) : Pass :=
  ⟨r, some placedKernel, nodes, ks, false, 0, false, false, [t], [], none, false, 0, 0, 0, 0, 0, 0, 1, false⟩
def frameOf (p : Pass) : Frame := ⟨0, 0, 0, 1, 0, 0, [p], []⟩
def flying (p : Pass) : State := { base with frames := [frameOf p], frameCount := 1, groups := [], gidCount := 0, cores := [(0, core0)] }

/-- A record-pass tile of two nodes: node 0 sends its first output to node 1, whose queue holds eight records of 16 bytes. -/
def outTo1 : Nat := 2 ^ 135 + 2 ^ 128
def nodes2 (n0 n1 : Nat) : List Nat := [1, n0, n1]
def startedTile : Tile := { tile0 with state := .started }
def recPass (n0 n1 : Nat) (ks : List (Option Kernel)) : Pass := passOf { rec0 with kind := 1 } startedTile (nodes2 n0 n1) ks
def recording (n0 n1 : Nat) (r : RecTile) (g : Group) : State :=
  { base with frames := [frameOf (recPass n0 n1 [some placedKernel, none])], frameCount := 1, groups := [g], recTiles := [r] }
def okTo (r : Except Nat (Nat × Nat)) (k : Nat) : Bool := match r with | .ok x => x.2 == k | .error _ => false
def errTo (r : Except Nat (Nat × Nat)) (d : Nat) : Bool := match r with | .ok _ => false | .error x => x == d

theorem witness_EmitResults :
    (let f := ln .b64 (.v 0) (.v 0) (.v 4) (.v 0)
     let s := recording outTo1 (8 * 2 ^ 48) recTile0 nodeGroup
     s.ctx? = some ⟨nodeGroup, placedGang, frag0⟩ ∧ Legal.illegal .emit f ⟨some 0x294A, some 320, some 8⟩ = none ∧ nodeGroup.chk = false ∧
     okTo (s.emitTarget nodeGroup 0 0) 1 = true ∧ errTo (s.emitTarget nodeGroup 1 0) 2 = true ∧ errTo (s.emitTarget nodeGroup 0 1) 3 = true ∧
     errTo (base.emitTarget placedGroup 0 0) 1 = true ∧
     (laneIssue .emit f ownLane ⟨nodeGroup, placedGang, frag0⟩).workers ≠ [] ∧ placedGang.window = none ∧ placedGang.accessPending = false ∧
     pending.accessPending = true ∧ pending.window = none ∧ inWindow.window.isSome = true ∧ Table.wf [] recTile0.queues = true) := by decide +kernel

/-- A sample whose descriptor maps to nothing, in lanes that work and in helper lanes alone; a texel that maps to nothing; a quad's record. -/
def unmapped (helper : BitVec 64) : Gang := { placedGang with s := [(2, 0x20000000)], helper := helper }
def sampF : Lane := ln .f16 (.v 1) (.v 2) (.s 2) (.v 0)

theorem witness_QueryResults_faults :
    (let i := laneIssue .vsamp sampF ownLane (ctxH (unmapped 0) frag0)
     errs ((withH (unmapped 0)).checkGlobal placedGroup.who .load 0x20000000 16) 0x22 0 = true ∧ i.workers ≠ [] ∧
     (laneIssue .vsamp sampF ownLane (ctxH (unmapped 0xFFFFFFFF) frag0)).workers = []) ∧
    (match (TexDesc.mk 0x20000000).sample base placedGroup.who 0 false .f16
        ((TexDesc.mk 0x20000000).texels false false ((laneIssue .vsamp sampF ownLane ctx0).texLevel ⟨0x20000000⟩ 0) 0 0) with
      | .error e => decide (e.1 = 0x22) | .ok _ => false) = true ∧
    (laneFault .load [(0, 0x20000000, 0x22, 0)]).isSome = true ∧
    (let g : Group := { nodeGroup with kernel := { placedKernel with pix := true } }
     g.kernel.pix = true ∧ g.node.isSome = true ∧
     Table.get [] ({ placedGang with records := [(0, List.replicate 64 1)] } : Gang).records (3 / 4) ≠ []) := by decide +kernel

/-- VRCQ with .T trains in the lanes that p0 names. -/
theorem witness_QueryResults_trains :
    (let f := ln .f16 (.v 1) (.v 2) (.v 3) (.p 1) 1
     LaneReady .vrcq f ownLane base ctx0 ∧ f.mod.getLsbD 0 = true ∧
     ((laneIssue .vrcq f ownLane ctx0).workers.filter fun l => (placedGang.readP 0).getLsbD l)[31]? = some 31) := by
  refine ⟨ready _ _ _ ?_, ?_⟩ <;> decide +kernel

/-- A net enabled with an all-zero descriptor. -/
def net0 (en : Bool) : Net := { Net.fresh with en := en }
def withNets (en : Bool) : State := { base with nets := [net0 en, net0 en, net0 en, net0 en] }

theorem witness_QueryResults :
    LaneReady .vrcq (ln .f16 (.v 1) (.v 2) (.v 0) (.p 1)) ownLane base ctx0 ∧ base.nets.length = 4 ∧ (base.net 0).en = false ∧
    (withNets true).ctx? = some ctx0 ∧ ((withNets true).net 3).en = true ∧ Legal.vBelow (some 320) (.v 2) (3 + Bits.ceilDiv 0 4) = true ∧ ctx0.g.chk = false ∧
    LaneReady .vtrace (ln .f32 (.v 1) (.v 314) (.v 0) (.v 0)) ownLane base ctx0 ∧
    LaneReady .vsamp (ln .f16 (.v 1) (.v 2) (.s 2) (.v 0)) ownLane base ctx0 ∧ (Instr.vsampl, LOp.vsampl) ∈ [(Instr.vsamp, LOp.vsamp), (.vsampl, .vsampl)] ∧
    LaneReady .vsampl (ln .f32 (.v 1) (.v 3) (.s 2) (.const 0)) ownLane base ctx0 ∧ okAt (base.checkGlobal placedGroup.who .load 0 16) 0 = true ∧
    (TexDesc.mk (base.readPhys 0 16)).valid = true ∧ (TexDesc.mk (2 ^ 128 - 1)).valid = false ∧
    ((laneIssue .vsamp (ln .f16 (.v 1) (.v 2) (.s 2) (.v 0)) ownLane ctx0).lanes.all fun l =>
      match (TexDesc.mk 0).sample base placedGroup.who 0 false .f16
        ((TexDesc.mk 0).texels false false ((laneIssue .vsamp (ln .f16 (.v 1) (.v 2) (.s 2) (.v 0)) ownLane ctx0).texLevel ⟨0⟩ l) 0 0) with
      | .ok _ => true | .error _ => false) = true ∧ LaneReady .vcov (ln .f16 (.v 1) (.v 0) (.v 0) (.v 0)) ownLane base ctx0 := by
  refine ⟨ready _ _ _ ?_, ?_, ?_, ?_, ?_, ?_, ?_, ready _ _ _ ?_, ready _ _ _ ?_, .tail _ (.head _), ready _ _ _ ?_, ?_, ?_, ?_, ?_, ready _ _ _ ?_⟩ <;> decide +kernel

/-- MZERO in a gang with the baton, and without it; a word that names an accumulator the group has not. -/
def mz : Lane := ln .f32 (.acc 7) (.v 0) (.v 0) (.v 0)
def mm : Lane := ln .f16 (.acc 0) (.v 2) (.v 4) (.v 0)
def macro0 : MacroOp := ⟨0, 0, 0, .mzero, mz, .f32, 0x294A, 0, 0, [], [], [], [], none, false, 0, 0, 0, []⟩
def withBaton (n : Nat) : State := withCore { batonCore (some (0, 0)) with macros := List.replicate n macro0 } placedGroup

theorem witness_MatrixIssueResults :
    (Instr.mzero, LOp.mzero) ∈ matrixOps ∧ (withBaton 0).ctx? = some ctx0 ∧ Table.wf Core.fresh (withBaton 0).cores = true ∧
    (let i := ctx0.issue .mzero mz
     i.matIllegal = none ∧ i.matError = none ∧ (match i.postQuire (withBaton 0) with | .ok p => p.isNone | .error _ => false) = true ∧
     ((withBaton 0).core 0).baton = some (0, 0) ∧ (base.core 0).baton = none ∧
     ((withBaton 7).core 0).macroRoom (i.macroOp 0 none).staged = true ∧ ((withBaton 8).core 0).macroRoom (i.macroOp 0 none).staged = false) ∧
    (ctx0.issue .mzero { mz with mod := 1 }).matIllegal = some 2 ∧ checking.chk = true ∧ pending.accessPending = true ∧ pending.window = none ∧
    (let i := (⟨checking, hazard, frag0⟩ : Ctx).issue .mma mm
     i.matIllegal = none ∧ (({ i with active := hazard.lmask } : Issue).stalled 0 i.matSources (ownLane i)).isSome = true) := by
  refine ⟨?_, by decide +kernel⟩
  simp [matrixOps]

/-- A running macro-operation, and bus retraining that is due and that is over. -/
def engine (m : MacroOp) : State := withCore { core0 with macros := [m] } placedGroup
def running0 : MacroOp := { macro0 with running := true }

/-- The steps of a core's sequencer and bus, and of a bank, a window and serial mode, that MatrixIssueResults and LaneResultsLand say happen. -/
theorem witness_EngineSteps : Table.wf Core.fresh (engine macro0).cores = true ∧ (engine macro0).nextMacro 0 = some macro0 ∧
    ((engine running0).core 0).running? = some running0 ∧ (withCore { core0 with retrainDue := 0 } placedGroup).retrains 0 = true ∧
    ((withCore { core0 with retraining := some 0 } placedGroup).core 0).retraining = some 0 := by decide +kernel

theorem witness_MatrixEngineSteps :
    (engine macro0).nextMacro 0 = some macro0 ∧ Table.wf Core.fresh (engine macro0).cores = true ∧ Table.wf 0 ((engine running0).core 0).acc = true ∧
    ((engine running0).core 0).macros.find? (fun m => m.running) = some running0 ∧ (engine running0).group? running0.gid = some placedGroup ∧
    placedGroup.gang? running0.gang = some placedGang ∧ placedGang.window = none ∧ (running0.lop = .mlda → rowOrigin mz + matRows mz ≤ 128) ∧
    ((engine running0).core 0).retraining = none ∧ (∃ m ∈ ((engine running0).core 0).macros, m.running = true) ∧ 4 ≤ 4 ∧
    (let s := withCore { core0 with retrainDue := 0 } placedGroup
     (s.core 0).retraining = none ∧ (s.core 0).retrainDue ≤ s.time ∧ (∀ m ∈ (s.core 0).macros, m.running = false) ∧ s.waitsForBus 0 = false) ∧
    ({ engine running0 with time := 105000000000 } : State).time = (core0.retrainDue + 5000000000) ∧
    ((withCore { core0 with retraining := some 0 } placedGroup).core 0).retraining = some 0 := by decide +kernel

/-- Gangs whose operation may land, and whose window may close: with a held byte, and with a held fault. -/
def committing : Gang := { placedGang with window := some (windowOf [held0] none) }
def fault0 : HeldFault := ⟨0, 0x4000, 0⟩
def failing : Gang := { placedGang with window := some (windowOf [] (some fault0)) }

theorem witness_LandingAndWindows :
    (withH counting).group? 0 = some { placedGroup with gangs := [counting] } ∧ counting.ops.find? (fun o => o.id == 0) = some op0 ∧ op0.wait = .time ∧
    ({ placedGroup with gangs := [counting] } : Group).place = .resident ∧
    committing.window = some (windowOf [held0] none) ∧ committing.earlierDone (windowOf [held0] none) = true ∧ (windowOf [held0] none).fault = none ∧
    failing.window = some (windowOf [] (some fault0)) ∧ failing.earlierDone (windowOf [] (some fault0)) = true ∧
    (windowOf [] (some fault0)).fault = some fault0 ∧ (∀ f ∈ (windowOf [] (some fault0)).check.frags, f.state ≠ .fuseWait) ∧
    base.mem.wf = true ∧ base.launches = [] ∧ ({ placedGang with serial := some (.count 0) } : Gang).serial = some (.count 0) := by decide +kernel

/-- Ownership states; device 1 owns, or gives to 3. -/
def owning (st : OwnState) : Owner := { State.reset.own with state := st, owner := 1, target := 3 }
def owned : State := { State.reset with own := owning .owned }
/-- A device in root-complex mode (R3). -/
def rooted : State := { State.reset with cfg := { State.reset.cfg with rootComplex := true } }

theorem witness_OwnershipTransitions : State.reset.own.state = .elect ∧ (owning .unowned).state = .unowned ∧ (owning .owned).owner = 1 ∧ ((3 : Master) ≠ 1) ∧
    (owning .giving).state = .giving ∧ (owning .giving).target = 3 ∧ (owning .owned).target ≠ 1 ∧ ({ ConfigRecord.default with force := true } : ConfigRecord).force = true ∧
    ConfigRecord.default.force = false ∧ ({ State.reset.own with claims := 0xA } : Owner).claims.getLsbD 1 = true ∧
    (∀ k : Master, k < 1 → ({ State.reset.own with claims := 0xA } : Owner).claims.getLsbD k.val = false) ∧ State.reset.own.claims = 0 ∧
    State.reset.own.windowEnd ≤ 200000000000 ∧ (owning .giving).giveEnd ≤ 0 ∧ State.reset.cfg.rootComplex = false ∧
    rooted.cfg.rootComplex = true := by decide +kernel

theorem sends (m : Master) : State.reset.Sends m := fun _ => by decide +kernel
theorem commands : owned.Commands 1 := ⟨by decide +kernel, fun _ => by decide +kernel⟩

theorem witness_OnlyOwnerWrites : rooted.own.isOwner 1 = false ∧ owned.own.isOwner 1 = true ∧ owned.own.isOwner 0 = false ∧ (0x010000 : Nat) ≠ 0x010008 := by decide +kernel

theorem witness_RegisterWriteResults : owned.own.isOwner 1 = true ∧ Bits.maskOf (owned.frames.map fun f => f.slot) < 256 ∧ owned.frames.length < 256 ∧ owned.gu.queue.length < 16 ∧
    Bits.field 12 0 4096 ≤ 4096 ∧ Bits.field 28 16 (4096 * 2 ^ 16) ≤ 4096 ∧ Bits.field 25 16 (1000 * 2 ^ 16) ≤ 1000 ∧ owned.svc.code < 2 ^ 56 ∧
    owned.handles = [] ∧ Bits.field 4 1 (9 * 2) ≤ 9 ∧ [Handle.mk 1 0 ⟨0, 0, 0⟩ 0 false] ≠ [] ∧ owned.ev.waiting = [] ∧ owned.ev.en = false ∧ Bits.field 4 1 (10 * 2) ≤ 10 ∧
    ((3 * 16 + 2 : Nat) % 16 = 2 ∧ (3 * 16 + 2 : Nat) / 16 = 3) ∧ (0xFFFF < 0x10000) := by decide +kernel

/-- A submission queued for a header that cannot be reached, and for one that can. -/
def submission (va : Nat) : Submission := ⟨0, va, base.mem, [], base.xl, [], [], 0, (0, 0)⟩
def submitted (va : Nat) : State := { base with own := owning .owned, gu := { State.reset.gu with queue := [submission va] } }

theorem witness_SubmissionResults : owned.own.isOwner 1 = true ∧
    (let bad := fun (v : Nat) => Bits.field 63 56 v ≠ 0 ∨ Bits.field 5 0 v ≠ 0 ∨ owned.dev.unitbad.getLsbD 0 = true
     bad (2 ^ 56) ∧ bad 1 ∧ ¬ bad 64) ∧ 4 ≤ (List.replicate 4 (submission 64)).length ∧ owned.gu.queue.length < 4 ∧
    (submitted 0x20000).gu.queue = [submission 0x20000] ∧ (submitted 0x20000).loads 0 0 = false ∧ (submitted 0x20000).loads 0 64 = false ∧
    (submitted 0x20000000).graphRead 0x20000000 64 = none ∧ (submitted 0x20000).graphRead 0x20000 64 = some 0 ∧
    (submitted 0x20000).pagesWritable 0 64 ≠ none ∧ (submitted 0x20000).pagesWritable 0x20000000 64 = none := by decide +kernel

/-- A frame of one pass whose deadline is 2 ^ (8 * j) ns, as its graph stands in the tile of an exported transient. -/
def graphRing : Ring := ⟨9, 0, 0, 1, 1, 0, 1, 1, 0, true, 0x40000, [0], [], [⟨0, false, 0, 1, true, false⟩]⟩
def headBits : Nat := 1 + 1 * 2 ^ 16 + 0x40080 * 2 ^ 128 + 0x20400 * 2 ^ 384
def graphMem (j : Nat) : Memory :=
  [(0x100000, 1), (0x100001, 0x10), (0x100002, 0x10), (0x101000, 1), (0x101001, 0x20), (0x101002, 0x10), (0x102000, 0x1B)] ++
  [(0x000, 1), (0x002, 1), (0x010, 0x80), (0x012, 4), (0x031, 4), (0x032, 2), (0x081, 1), (0x083, 0x30), (0x085, 0x30), (0x087, 0x10), (0x088, 0xE8),
    (0x089, 3), (0x08C + j, 1), (0x099, 2), (0x09A, 4), (0x200, 1), (0x222, 1)].map fun x => (2 ^ 40 + x.1, x.2)
def graphSub (j : Nat) : Submission := ⟨0, 0x40000, graphMem j, [], base.xl, [graphRing], [], 0, (0x20400, 72)⟩
def submitting (j : Nat) : State :=
  { base with own := owning .owned, groups := [], cores := [], rings := [graphRing], gu := { State.reset.gu with queue := [graphSub j] } }
def described (j : Nat) : Described := ((graphSub j).view (submitting j)).describe ⟨headBits⟩
def planOf (j : Nat) : Except Nat (List Reservation × List (Nat × Nat)) :=
  (submitting j).allocateAll { (described j).frame with serial := 0 } 0 1 1 0 [] []

/-- Decisions: a header that breaks a rule, a deadline that leaves too little time, and one that can be promised. -/
theorem witness_SubmissionResults_decision :
    ((graphSub 3).view (submitting 3)).graphRead 0x40000 64 = some headBits ∧
    ((graphSub 3).view (submitting 3)).pagesWritable 0x20400 72 = some [(2, 0x20000)] ∧ (⟨headBits⟩ : GraphHeader).accBytes = 72 ∧
    (GraphHeader.mk (headBits + 1)).failed.head? = some (0, 0, 1) ∧ (submitting 3).frames.length < 8 ∧ (⟨headBits⟩ : GraphHeader).failed.head? = none ∧
    ([0, 3].all fun j => let d := described j
      (d.refusal.or (d.check3.or ((d.check4 (submitting j)).or ((d.check5 (submitting j)).or (d.check6 (submitting j)))))).isNone) = true ∧
    (match planOf 0 with | .error i => i == 0 | .ok _ => false) = true ∧ (match planOf 3 with | .ok x => x.2 == [(0, 1)] | .error _ => false) = true := by
  decide +kernel

/-- A saved group with a handle, a killed tile's handle, a failed copy's. -/
def savedGroup : Group := { placedGroup with place := .saved 0 false, handle := some 1 }
def tileHandle : Handle := ⟨2, 1, tr0, 0, false⟩
def copyHandle : Handle := ⟨3, 2, tr0, 0, false⟩
def handles0 : State :=
  { base with own := owning .owned, groups := [savedGroup], handles := [⟨1, 0, tr0, 0, false⟩, tileHandle, copyHandle], handleCount := 3,
              copies := [{ copy0 with state := .failed 5 0 4 }], frames := [frameOf (recPass 0 0 [])], frameCount := 1 }
def ring0 : Ring := ⟨9, 0, 0, 1, 1, 0, 1, 1, 0, true, 0x10000, [], [], [⟨0, false, 0, 1, true, false⟩]⟩

theorem witness_ResumeResults : owned.own.isOwner 1 = true ∧ owned.rings = [] ∧
    (ring0.exported = true ∧ ring0.winva.toNat / 65536 = Bits.field 55 16 0x10000 ∧ ∃ sl ∈ ring0.held, sl.extra = true) ∧
    (∀ x ∈ owned.handles, x.gh ≠ 1) ∧ handles0.own.isOwner 1 = true ∧
    handles0.handles.find? (fun x => x.gh == 1) = some ⟨1, 0, tr0, 0, false⟩ ∧ handles0.groups.find? (fun g => g.handle == some 1) = some savedGroup ∧
    savedGroup.place = .saved 0 false ∧ ¬ (∃ h ∈ savedGroup.gangs, h.trapped = true ∧ h.trapcause.cause = 0x2C) ∧ savedGroup.kernel.hndlr = 0 ∧
    withHandler.kernel.hndlr ≠ 0 ∧ (let h := { placedGang with trapped := true, trapcause := ⟨false, true, 0x2C, 0⟩ }
      h.trapped = true ∧ h.trapcause.cause = 0x2C) ∧
    handles0.handles.find? (fun x => x.gh == 2) = some tileHandle ∧ tileHandle.unit = 1 ∧ (handles0.passAt 0 0).isSome = true ∧
    (handles0.passAt 0 0).bind (fun p => p.tiles[0]?) = some startedTile ∧
    handles0.handles.find? (fun x => x.gh == 3) = some copyHandle ∧ copyHandle.unit = 2 ∧ (handles0.copies.find? fun c => c.id == copyHandle.copy).isSome = true := by
  decide +kernel

def spec0 : Spec := ⟨tr0, 0, none, placedKernel, 16, 0, false, 0, 32, 0, []⟩
def plainPass : Pass := passOf rec0 tile0 [] []
def startedPass : Pass := passOf rec0 startedTile [] []

theorem witness_PlacementRules : Table.wf Core.fresh (flying plainPass).cores = true ∧ (0 : Nat) < 32 ∧ placedKernel.entry.toNat % 4 = 0 ∧
    (flying plainPass).chooseCore 0 (spec0.need 32) = some 0 ∧ (flying plainPass).canTake 0 (spec0.need 32) = true ∧
    (flying plainPass).freeWindow 0 16 = some 0 ∧ placedKernel.wmin ≤ placedKernel.wmax ∧ placedKernel.wmax ≤ 3 ∧ placedKernel.gqm1 < 256 ∧
    ((flying plainPass).placeGroup 0 32 spec0).groups.length = 1 := by decide +kernel

/-- A pass of kind 5 on net 0, a launch entry of one group and of two, a record for node 0. -/
def netPass : Pass := { passOf { rec0 with kind := 5 } tile0 [] [] with kernel := none }
def launching (n : Nat) : State :=
  { flying (passOf rec0 { startedTile with placed := 1 } [] []) with launches := [{ entry0 with kernel := placedKernel, groups := n }] }
def filled : RecTile := { recTile0 with queues := [(0, [⟨[7], 0, 0⟩])] }
def rec7 : NodeRec := ⟨[7], 0, 0⟩
def rows1 : Nat := 16 * 2 ^ 16 + 8 * 2 ^ 48
def noding : State := { recording rows1 0 filled placedGroup with groups := [], cores := [(0, core0)] }

theorem witness_PlacementResults : (flying plainPass).nextStart 0 = some tr0 ∧ (flying netPass).nextStart 0 = some tr0 ∧ (flying netPass).nets.length = 4 ∧
    (flying startedPass).nextPlace 0 = some (.ofTile tr0 0) ∧ (flying startedPass).tileSpec tr0 0 = some { spec0 with accs := 0 } ∧
    (flying startedPass).chooseCore 0 (spec0.need ((flying startedPass).gangWidth 0 placedKernel)) = some 0 := by decide +kernel

theorem witness_PlacementResults_launch : (launching 1).nextPlace 0 = some (.ofEntry { entry0 with kernel := placedKernel, groups := 1 }) ∧
    (launching 2).nextPlace 0 = some (.ofEntry { entry0 with kernel := placedKernel, groups := 2 }) := by decide +kernel

theorem witness_PlacementResults_node : noding.recTile? tr0 = some filled ∧ (noding.passAt 0 0).isSome = true ∧
    noding.groupRecords filled (recPass rows1 0 [some placedKernel, none]) 0 = some [rec7] ∧
    (∃ sp, noding.nodeSpec tr0 0 0 [[7] ++ List.replicate 15 0] 0 = some sp ∧ noding.chooseCore 0 (sp.need (noding.gangWidth 0 sp.kernel)) = some 0) ∧
    filled.emits = [] ∧ Table.wf [] filled.queues = true := by
  refine ⟨by decide +kernel, by decide +kernel, by decide +kernel, ⟨_, rfl, ?_⟩, by decide +kernel⟩
  decide +kernel

theorem witness_PlacementResults_recarve :
    (let s : State := { flying plainPass with cores := [] }
     s.recarveFor 0 [] ((s.waitingWork 0).map fun x => x.2.2) = some (0, 16) ∧ Table.wf Core.fresh s.cores = true) ∧
    ((withCore { core0 with recarve := some (0, 3) } placedGroup).core 0).recarve = some (0, 3) := by decide +kernel

theorem witness_CycleEnd : (0 : Nat) < 192 ∧ Table.wf Core.fresh base.cores = true ∧ base.groups.Pairwise (fun a b => a.gid ≠ b.gid) ∧
    (∃ c ∈ ({ core0 with stages := [(0, 3)], cycle := 4 } : Core).stages, c.1 < 4 ∧ 4 ≤ c.1 + 4) ∧
    (let s := flying (passOf rec0 { startedTile with meter := 1001 } [] [])
     (s.passAt 0 0).isSome = true ∧ (s.tileAt tr0).map (fun x => (x.state, x.overrun)) = some (.started, false) ∧ rec0.budget < s.tileMeter tr0) := by
  decide +kernel

/-- A gang blocked at a COPY on channel 15; a template at 0x20000 that a copy of the running gang names; a copy that runs. -/
def fragChannel : Fragment := { frag0 with state := .blocked, wait := .channel 0 15 7 }
def blockedCopy : State := withF fragChannel
def copyS (c : Copy) : State := { base with copies := [c] }

theorem witness_CopyResults_accept : blockedCopy.channelLoad 0 15 < 4 ∧ blockedCopy.loads 1 (Machine.unitArg 0) = false ∧
    (blockedCopy.firstBlocked 0 15).map (fun x => (x.1.h.id, x.2)) = some (0, 7) := by decide +kernel

/-- The template that a copy's run reads, if it reads one. -/
def templateOf (s : State) (c : Copy) : Option Nat := match (Run.mk s 0 0 []).template c with | .ok x => some x.2.bits | .error _ => none

theorem witness_CopyResults_run : (copyS copy0).nextCopy 0 15 = some copy0 ∧
    (copyS { copy0 with tplZero := true }).nextCopy 0 15 = some { copy0 with tplZero := true } ∧
    (match (Run.mk (copyS { copy0 with tplZero := true }) 0 0 []).template { copy0 with tplZero := true } with | .error e => e.1 == 1 | .ok _ => false) = true ∧
    templateOf (copyS copy0) copy0 = some (0x80000000 * 0) ∧
    (let c := { copy0 with state := .running 5 }
     c ∈ (copyS c).copies ∧ c.state = .running 5 ∧
     (copyS c).copies = [c] ∧ ((copyS c).gangOf? 0 0).isSome = true) := by decide +kernel

/-- A template at 0x30000 that copies one i32 from 0x10000 to 0x20000, and a copy of it whose origin lies at and beyond its edge of one element. -/
def tpl (dty ext0 : Nat) : Nat := 0x10000 * 2 ^ 456 + 0x20000 * 2 ^ 400 + ext0 * 2 ^ 84 + dty * 2 ^ 27 + 2 * 2 ^ 22 + 2 ^ 13
def copyOf (word : Word) : Copy := { copy0 with tplBase := 0x30000, word := word }
def copyRuns (dty : Nat) (word : Word) : State :=
  let s := copyS (copyOf word)
  { s with mem := s.mem.writeL 0x30000 (Bits.toBytes 64 (tpl dty 1)) }

theorem witness_CopyMovesElement :
    (copyRuns 2 0).nextCopy 0 15 = some (copyOf 0) ∧ templateOf (copyRuns 2 0) (copyOf 0) = some (tpl 2 1) ∧
    (copyOf 0).badStatus ⟨tpl 2 1⟩ ((copyRuns 2 0).copyWindow (copyOf 0)).2.2 = none ∧ Template.count ⟨tpl 2 1⟩ = 1 ∧
    Types.isX (Template.dty ⟨tpl 2 1⟩) = false ∧ Template.dsp ⟨tpl 2 1⟩ ≠ 1 ∧ Template.ssp ⟨tpl 2 1⟩ = 0 ∧ (copyRuns 2 0).mem.wf = true ∧
    okAt ((copyRuns 2 0).checkGlobal ((copyRuns 2 0).copyWho (copyOf 0)) .copyWrite (Template.destAddr ⟨tpl 2 1⟩ (copyOf 0).doff [0, 0, 0, 0, 0]) 4) 0x20000 = true ∧
    regionOf 0x20000 ≠ .control ∧
    Template.edge ⟨tpl 2 1⟩ ({ copyOf 0x40 with c0 := 1 }.coords [0, 0, 0, 0, 0]) = true ∧ Template.edge ⟨tpl 2 1⟩ ((copyOf 0).coords [0, 0, 0, 0, 0]) = false ∧
    Template.scm ⟨tpl 2 1⟩ = 0 ∧ Template.dty ⟨tpl 2 1⟩ = Template.sty ⟨tpl 2 1⟩ ∧ Template.dty ⟨tpl 10 1⟩ ≠ Template.sty ⟨tpl 10 1⟩ ∧
    okAt ((copyRuns 2 0).checkGlobal ((copyRuns 2 0).copyWho (copyOf 0)) .copyRead (Template.sourceAddr ⟨tpl 2 1⟩ ((copyOf 0).coords [0, 0, 0, 0, 0])) 4) 0x10000 = true ∧
    (0 : Nat) < Template.count ⟨tpl 2 1⟩ := by decide +kernel

/-- CopyResults: a template that runs, one that faults, one that breaks a rule; a tile of a copy pass. -/
def copyPass : Pass := { passOf { rec0 with kind := 2, kaddr := 0x30000 } tile0 [tpl 2 0] [] with kernel := none }

theorem witness_CopyResults_template :
    (match (Run.mk (copyRuns 2 0) 0 0 []).go (copyOf 0) ⟨tpl 2 1⟩ with | .ok r => r.s.mem.readN 0x20000 4 == 0x80000000 | .error _ => false) = true ∧
    (match (Run.mk base 0 0 []).go (copyOf 0) ⟨tpl 2 1 + 0x20000000 * 2 ^ 400⟩ with | .ok _ => false | .error e => e.2.1 == 0x10) = true ∧
    (copyOf 0).badStatus ⟨tpl 2 1 + 1⟩ 65536 = some 1 ∧ (copyOf 0).badStatus ⟨tpl 31 1⟩ 65536 = some 2 ∧
    (let s := flying copyPass
     s.nextCopyTile 0 = some tr0 ∧ s.channelLoad (s.leastLoaded 0).1 (s.leastLoaded 0).2 < 4 ∧ s.loads 1 (Machine.unitArg (s.leastLoaded 0).1) = false) := by
  decide +kernel

/-- An invalidation of every page, and a request that it awaits. -/
def inv0 : Invalidation := ⟨0, 2 ^ 40, 1⟩
def invalidating (q : List BankReq) : State := { withH pending with xl := { base.xl with inv := some inv0 }, bankQ := q }

theorem witness_TranslationControl : owned.own.isOwner 1 = true ∧ (invalidating []).xl.inv.isSome = true ∧ owned.xl.inv = none ∧
    (invalidating [req (.atom 0 7)]).awaits inv0 = true ∧ (invalidating []).bankQ = [] ∧
    (∀ e ∈ (invalidating []).vat0.ordered ++ (invalidating []).vat1.ordered, e.held = []) ∧
    (∀ g ∈ (invalidating []).groups, g.macros = []) ∧ (invalidating []).gu.queue = [] ∧ (∀ k ∈ (invalidating []).cores, k.2.macros = []) ∧
    (∀ g ∈ (invalidating []).groups, ∀ h ∈ g.gangs, h.window = none) ∧ (4 : Nat).testBit 2 = true ∧
    owned.frames = [] ∧ (owned.vat 0).leases = [] ∧ [lease0] ≠ [] ∧ [frameOf plainPass] ≠ [] ∧ min 4096 (1 % 8192) = 1 ∧
    (let s : State := { owned with vat0 := { Vat.fresh with dp := 2 } }
     (s.uncovers 0 1 = false) ∧ 1 < (s.vat 0).dp) ∧
    owned.mem.wf = true ∧ Bits.field 63 52 (2 ^ 52) ≠ 0 ∧ (1 % 16 ≠ 0) ∧ (0x20000 < 2 ^ 52 ∧ 0x20000 % 16 = 0) ∧
    (let e := entryOf 0 [(3, req (.ordered 0 1 3 200))]
     e.target / 16 = 0x20000 / 16 ∧ ((base.group? 0).bind fun g => g.gang? 0).isSome = true) := by decide +kernel

/-- An owner that enables nets: descriptor bits that are valid, and memory of zeros, which is not. -/
def ownedBase : State := { base with own := owning .owned, groups := [], cores := [] }
def netBits : Nat := 0x3F800000 * 2 ^ 352 + 0x3F800000 * 2 ^ 256 + 2 ^ 212 + 2 * 2 ^ 208 + 10 * 2 ^ 196 + 0x10000000 * 2 ^ 128 +
  (vatBase 0 + 0x1000000) * 2 ^ 64 + vatBase 0
def ownedNet : State :=
  let s := { ownedBase with vat0 := { Vat.fresh with dp := 4096 } }
  { s with mem := s.mem.writeL 0x20000 (Bits.toBytes 64 netBits) }
/-- A training pass whose tile has started. -/
def trainPass (n : Nat) : Pass := { passOf { rec0 with kind := 4 } startedTile [] [] with kernel := none, stepsLeft := n }

theorem witness_NetControl : ownedBase.own.isOwner 1 = true ∧ ownedBase.cfg.rootComplex = false ∧ (ownedBase.nets[3]?).isSome = true ∧ ownedBase.frames = [] ∧ (flying plainPass).frames ≠ [] ∧
    (match ownedBase.readNetDesc 0x20000 with | some d => !ownedBase.netValid 0 d | none => true) = true ∧
    (match ownedNet.readNetDesc 0x20000 with | some d => ownedNet.netValid 0 d | none => false) = true ∧ (ownedNet.nets[0]?).isSome = true ∧
    (let s := flying (trainPass 1)
     s.loads 2 0 = false ∧ s.trainingTile 0 = some tr0 ∧ (s.passAt 0 0).isSome = true ∧ (s.tileAt tr0).isSome = true ∧ (s.net 0).fill = 0) ∧
    ((flying (trainPass 2)).trainingTile 0 = some tr0) := by decide +kernel

/-- A triangle (0, 0), (4, 0), (0, 4) at depth 0, wound so that its area is positive; a rasteriser that has it, and a blender with a record. -/
def tri0 : Nat := 0x40800000 * 2 ^ 96 + 0x40800000 * 2 ^ 224
def triRec : NodeRec := ⟨Bits.toBytes 64 tri0, 0, 0⟩
def rasterising : State := recording (outTo1 + 1) (2 * 2 ^ 10 + 8 * 2 ^ 48 + 3) { recTile0 with queues := [(0, [triRec])] } placedGroup
def blendNode (addr : Nat) : Nat := 3 + addr * 2 ^ 456
def blending (addr : Nat) : State :=
  recording 0 (blendNode addr) { recTile0 with queues := [(1, [⟨List.replicate 32 0, 0, 0⟩])] } placedGroup

theorem witness_RasteriserAndBlender :
    (rasterising.recTile? tr0).map (fun r => (r.queue 0, r.emits, r.stats.length)) = some ([triRec], [], 8) ∧
    (rasterising.passAt 0 0).map (fun p => (nodeOut (p.node 0) 0, nodeType (p.node 0))) = some (some 1, 1) ∧ (1 : Nat) ≠ 0 ∧
    0 < area (Triangle.point ⟨tri0⟩ 0) (Triangle.point ⟨tri0⟩ 1) (Triangle.point ⟨tri0⟩ 2) ∧
    Triangle.covers ⟨tri0⟩ 0 0 = true ∧ Triangle.covers ⟨tri0⟩ 3 3 = false ∧ (Triangle.quad ⟨tri0⟩ 0 0 0).isSome = true ∧
    Triangle.owner ⟨tri0⟩ { rec0 with kind := 1 } = 0 ∧ Triangle.refused ⟨tri0⟩ = false ∧ Triangle.refused ⟨tri0 + 2 ^ 416⟩ = true := by decide +kernel

theorem witness_RasteriserAndBlender_blend :
    ((blending 0x20000).recTile? tr0).map (fun r => (r.queue 1, r.emits, Table.get [] r.loaded 1)) = some ([⟨List.replicate 32 0, 0, 0⟩], [], []) ∧
    ((blending 0x20000).passAt 0 0).map (fun p => nodeType (p.node 1)) = some 3 ∧
    (match (blending 0x20000).loadPixels ((blending 0x20000).unitWho tr0) (blendNode 0x20000) (({ rec0 with kind := 1 } : PassRec).pixels 0) with
      | .ok _ => true | .error _ => false) = true ∧
    (match (blending 0x20000000).loadPixels ((blending 0x20000000).unitWho tr0) (blendNode 0x20000000) (({ rec0 with kind := 1 } : PassRec).pixels 0) with
      | .ok _ => false | .error _ => true) = true ∧
    nodeZmode 0 = 0 ∧ nodeBlend 0 = 0 ∧ depthPasses (nodeZmode (3 * 2 ^ 42)) 0 0 = depthPasses 3 0 0 ∧
    (depthPasses 1 0 1 = true ∨ depthPasses 2 0 1 = true ∨ depthPasses 3 0 1 = true) ∧
    (depthPasses 1 1 0 = false ∨ depthPasses 2 1 0 = false ∨ depthPasses 3 1 0 = false) := by decide +kernel

/-- A ray of the placed gang in unit 0: at its root, waiting for treelet 64, and waiting past 20 µs; a ray record of a traversal node. -/
def ray0 (treelet : Nat) : Ray := ⟨0, 0, 0, treelet, [], false, false, some (0, 0, 0, 31, 4), none⟩
def tracing (treelet : Nat) : State :=
  let s := withH { placedGang with ops := [{ op0 with wait := .rays 1 }] }
  { s with rays := [ray0 treelet], time := 20000000 }
def rayNode : State := recording (outTo1 + 2) (8 * 2 ^ 48) { recTile0 with queues := [(0, [⟨List.replicate 48 0, 0, 0⟩])] } placedGroup

theorem witness_TraversalResults : (tracing 0).loads 3 (Machine.unitArg 0) = false ∧ (tracing 0).nextRay 0 = none ∧ (tracing 0).readyRay 0 = some (ray0 0) ∧
    ({ tracing 0 with rays := [{ ray0 0 with path := [128] }] } : State).readyRay 0 = some { ray0 0 with path := [128] } ∧
    (ray0 0).lane = some (0, 0, 0, 31, 4) ∧ ((tracing 0).gangOf? 0 0).isSome = true ∧ placedGang.lmask.getLsbD 31 = true ∧
    (tracing 64).nextTreelet 0 = some 64 ∧ 64 ∉ (tracing 64).held 0 ∧ (ray0 64).entered + 20000 ≤ (tracing 64).time / 1000 ∧
    rayNode.nextRay 0 = some (tr0, 0) ∧ (rayNode.recTile? tr0).map (fun r => (r.queue 0).length) = some 1 := by decide +kernel

/-- Cores of stack 0 that take nothing but for core 0, whose registers one group holds. -/
def fullCores (k : Core) : Table Core := (0, k) :: (List.range 95).map fun i => (i + 1, { core0 with draining := true })
def hog : Group := { placedGroup with spare := 4194304 }
def two2 : State :=
  { base with frames := [frameOf (passOf rec0 { startedTile with placed := 1 } [] []), { frameOf plainPass with slot := 1, serial := 1, prio := 2 }],
              frameCount := 2, groups := [hog], cores := fullCores core0, fq := { State.reset.fq with svn0 := 2 } }
def dormant : Group := { hog with gangs := [{ placedGang with frags := [{ frag0 with state := .parked, wait := .mem 0x10000 4 }] }] }
def readyGroup : Group := { placedGroup with gid := 1, place := .saved 0 true }
def evicting : State := { two2 with groups := [dormant, readyGroup], cores := fullCores { core0 with evictCount := 4096 } }

theorem witness_SaveSteps_preempt : (two2.waitingWork 0).findSome? (fun w => two2.chooseVictims 0 w) = some [hog] ∧ two2.ofRecTile hog = false := by decide +kernel

theorem witness_SaveSteps_evict : 4096 ≤ (evicting.core 0).evictCount ∧ evicting.evictable 0 = true ∧ (∀ g ∈ evicting.residents 0, g.savePending = none) ∧
    evicting.evictsFor 0 = some readyGroup ∧ evicting.freeSaveSlot 0 ≠ none := by decide +kernel

/-- A save that has waited 20 µs; a result and a ray that reach a save; a saved group that can be restored. -/
def late : State := { withG { placedGroup with savePending := some (0, .evict) } with time := 20000000 }
def landing : State := withG { placedGroup with place := .saved 0 true, gangs := [counting] }
def raying : State := { withG { placedGroup with place := .saved 0 true, gangs := [{ placedGang with ops := [{ op0 with wait := .rays 1 }] }] } with rays := [ray0 0] }
def restoring : State := withCore core0 { placedGroup with place := .saved 0 true }

theorem witness_SaveSteps :
    (late.group? 0).map (fun g => (g.savePending, g.place)) = some (some (0, .evict), .resident) ∧ 0 + 20000000 ≤ late.time ∧ placedGang.stopped = false ∧
    landing.landsInSave.isSome = true ∧
    raying.landsInSave = none ∧ raying.rays.find? (fun y => raying.raySaved y && y.path == [] && raying.rayMoves y && !raying.loads 3 (Machine.unitArg y.unit)) = some (ray0 0) ∧
    ((raying.gangOf? 0 0).map fun x => x.1.place) = some (.saved 0 true) ∧
    (restoring.nextRestore 0).map (fun x => x.2) = some 0 ∧ ([placedGang].map fun h => h.id).Nodup := by decide +kernel

/-- A group that is stopped for a save, plain and with a gang that took the owner route, with and without a free slot. -/
def stopped : Gang := { placedGang with stop := some .full }
def capturing (n : BitVec 12) (trapped : Bool) : State :=
  { withG { placedGroup with savePending := some (0, .evict), gangs := [{ stopped with trapped := trapped }] } with fq := { State.reset.fq with svn0 := n } }

theorem witness_SaveCaptures :
    (((capturing 0 false).group? 0).map fun g => (capturing 0 false).captureReady g) = some true ∧ Table.wf Core.fresh (capturing 0 false).cores = true ∧
    (capturing 0 false).freeSaveSlot 0 = none ∧ (capturing 0 false).fq.svfull = false ∧ (capturing 1 false).freeSaveSlot 0 = some 0 ∧
    (∀ h ∈ [placedGang], h.trapped = false ∧ h.ctlErr = false) ∧
    (let s : State := { capturing 1 false with groups := [{ placedGroup with savePending := some (0, .evict), gangs := [{ stopped with ctlErr := true }] }] }
     ((s.group? 0).map fun g => s.captureReady g) = some true) ∧
    (((capturing 1 true).group? 0).map fun g => (capturing 1 true).captureReady g) = some true ∧ ((capturing 1 true).core 0).macros = [] := by decide +kernel

/-- A tile all of whose groups are done, in a pass of one tile and of two; a finished record-pass tile, and one that was killed. -/
def doneTile : Tile := { tile0 with state := .started, placed := 1 }
def twoTiles : Pass := { passOf { rec0 with gx := 2 } doneTile [] [] with tiles := [doneTile, tile0] }
def doneRec (r : RecTile) : State :=
  { base with frames := [frameOf (recPass 0 0 [none, none])], frameCount := 1, groups := [], cores := [], recTiles := [r] }
def okState (r : Except (Nat × Nat × Nat) State) : Bool := match r with | .ok _ => true | .error _ => false

theorem witness_RetirementResults :
    (flying (passOf rec0 doneTile [] [])).retirable tr0 = true ∧ ((flying (passOf rec0 doneTile [] [])).frameAt 0).isSome = true ∧
    (flying (passOf rec0 doneTile [] [])).recTile? tr0 = none ∧ 0 + 1 = rec0.tiles ∧ (flying twoTiles).retirable tr0 = true ∧ 0 + 1 ≠ twoTiles.rcd.tiles ∧
    (doneRec recTile0).retirable tr0 = true ∧ (doneRec recTile0).recTile? tr0 = some recTile0 ∧ ((doneRec recTile0).passAt 0 0).isSome = true ∧
    (let s : State := { base with decrements := [⟨0, 0, tr0, 0⟩, ⟨5, 0, tr0, 0⟩] }
     s.loads 0 0 = false ∧ ∃ d ∈ s.decrements, d.stack = 0 ∧ d.due ≤ s.time) ∧
    ({ tile0 with state := .waiting, counter := 1 } : Tile).counter ≤ 1 ∧ 1 < ({ tile0 with counter := 2 } : Tile).counter := by decide +kernel

theorem witness_RetirementResults_record :
    (match (doneRec recTile0).finishRecTile recTile0 (recPass 0 0 [none, none]) with | .ok _ => true | .error _ => false) = true ∧
    (let r := { recTile0 with blended := [(1, [⟨List.replicate 32 0, 0, 0⟩])], loaded := [(1, [⟨0, 0⟩])] }
     (match (doneRec r).finishRecTile r (recPass 0 (blendNode 0x20000000) [none, none]) with | .ok _ => false | .error _ => true) = true) := by decide +kernel

/-- A record that waits, with its ring enabled and empty in GDDR 7, and where its address maps to nothing. -/
def faulting (addr : BitVec 40) : State :=
  { base with own := owning .owned, fq := { State.reset.fq with base := addr, en := true, waiting := [List.replicate 64 1] } }
def completing (addr : BitVec 40) : State := { base with ev := { State.reset.ev with base := addr, en := true, waiting := [List.replicate 32 1] } }

theorem witness_RecordRings :
    (faulting 0x20).fq.waiting = List.replicate 64 1 :: [] ∧ (List.replicate 64 (1 : Byte)).length = 64 ∧ (faulting 0x20).fq.en = true ∧
    ((faulting 0x20).fq.tail - (faulting 0x20).fq.head).toNat ≠ 2 ^ ((faulting 0x20).fq.logn + 6) ∧ (faulting 0x20).mem.wf = true ∧
    (faulting 0x20).own.now = some 1 ∧ State.reset.own.now = none ∧ (faulting 0x20).recordLost 0x20000 64 = false ∧
    (faulting 0x2000000).recordLost 0x2000000000 64 = true ∧
    (completing 0x20).ev.waiting = List.replicate 32 1 :: [] ∧ (List.replicate 32 (1 : Byte)).length = 32 ∧ (completing 0x20).ev.en = true ∧
    ((completing 0x20).ev.tail - (completing 0x20).ev.head).toNat ≠ 2 ^ ((completing 0x20).ev.logn + 6) ∧ (completing 0x20).recordLost 0x20000 32 = false ∧
    (completing 0x2000000).recordLost 0x2000000000 32 = true ∧ (completing 0x20).ev.u = 0 ∧
    ((owning .owned).state = .owned ∨ (owning .owned).state = .giving) ∧
    (let ev := { State.reset.ev with u := 1 }
     ev.cntm1 + 1 ≤ ev.u ∧ ¬ (State.reset.ev.cntm1 + 1 ≤ State.reset.ev.u ∨ 1 ≤ State.reset.ev.u)) := by decide +kernel

/-- A collective tile over one i32 at an address: of one box, and of two boxes, unpaired, with a contribution of the peer's waiting; what pass the contribution
tells of is a free value (log 12). -/
def gatherRec (buf : Nat) (cross : Bool) : PassRec := { rec0 with kind := 3, kparam := 2 ^ 160 + (if cross then 2 ^ 162 else 0) + 2 ^ 128 + buf * 2 ^ 64 + 2 * 2 ^ 8 }
def gatherPass (buf : Nat) (cross : Bool) : Pass := { passOf (gatherRec buf cross) startedTile [] [] with kernel := none }
def offer : List Byte := [1]
def gathering (buf : Nat) (cross : Bool) (colls : List Collective) : State :=
  let s := flying (gatherPass buf cross)
  { s with link := { s.link with offers := [offer] }, colls := colls }
def okRead (r : Except (Nat × Nat × Nat) (State × List Nat × BitVec 9)) : Bool := match r with | .ok _ => true | .error _ => false
def readable (buf : Nat) : Bool := okRead ((gathering buf false []).readElements ⟨none, some (0, 0)⟩ (gatherRec buf false) (gatherRec buf false).cbuf 1)
def writable (buf : Nat) : Bool := okState ((gathering buf false []).writeElements ⟨none, some (0, 0)⟩ (gatherRec buf false) (gatherRec buf false).cbuf [some 7])

theorem witness_CollectiveAndLinkResults : (gathering 0x20000 false []).collectiveNext 0 = some (tr0, .start) ∧
    ((gathering 0x20000 false []).tileAt tr0).map (fun x => x.state) = some .started ∧ ((gathering 0x20000 false []).passAt 0 0).isSome = true ∧
    (gatherRec 0x20000 false).crossBox = false ∧ readable 0x20000 = true ∧ readable 0x20000000 = false ∧
    (gathering 0x20000 false [⟨tr0, [7], []⟩]).collectiveNext 0 = some (tr0, .run) ∧ writable 0x20000 = true ∧ writable 0x20000000 = false ∧
    (∀ k ∈ affStacks (gatherRec 0x20000 false).cspan, k ∈ ([] : List Nat) ++ [0]) ∧ (gatherRec 0x20000 true).crossBox = true ∧
    ((gathering 0x20000 true []).passAt 0 0).map (fun p => p.paired) = some false ∧ (gathering 0x20000 true []).link.offers = [offer] ∧
    (0, 0) ∈ (gathering 0x20000 true []).crossPasses ∧ startedTile.state ≠ .retired ∧ startedTile.retiredAsKilled = false ∧
    (gatherRec 0 false).cop = 0 := by decide +kernel

/-- Whatever pass the peer's contribution tells of, the waiting tile meets it. -/
theorem witness_CollectiveAndLinkResults_pair : (gathering 0x20000 true [⟨tr0, [7], []⟩]).collectiveNext 0 = some (tr0, .pair) := by
  have hp : (gathering 0x20000 true [⟨tr0, [7], []⟩]).passAt 0 0 = some (gatherPass 0x20000 true) := by decide +kernel
  have hx : (gathering 0x20000 true [⟨tr0, [7], []⟩]).crossPasses = [(0, 0)] := by decide +kernel
  have ho : (gathering 0x20000 true [⟨tr0, [7], []⟩]).link.offers = [offer] := by decide +kernel
  have hc : (gathering 0x20000 true [⟨tr0, [7], []⟩]).colls = [⟨tr0, [7], []⟩] := by decide +kernel
  have hs : (gathering 0x20000 true [⟨tr0, [7], []⟩]).tileStack tr0 = 0 := by decide +kernel
  have hk : (gatherPass 0x20000 true).rcd.crossBox = true ∧ (gatherPass 0x20000 true).paired = false := by decide +kernel
  generalize gathering 0x20000 true [⟨tr0, [7], []⟩] = s at *
  have h : (s.pairPass 0 0).isSome = true := by
    unfold State.pairPass
    by_cases hk : (Config.offered offer == (gatherPass 0x20000 true).rcd.pairKey) = true <;> simp [hp, hx, ho, hk]
  unfold State.collectiveNext
  rw [hc]
  simp only [tr0] at *
  simp [hs, hp, hk, h]

theorem witness_CollectiveAndLinkResults_link :
    (let d := { ConfigRecord.default with link := true }
     d.link = true ∧ true ≠ d.rank ∧ false = d.rank) ∧ ConfigRecord.default.link = false ∧ ({ State.reset.dev with linkUp := true } : Device).linkUp = true ∧
    State.reset.dev.linkUp = false ∧ (List.replicate 256 (0 : Byte)).length = 256 ∧ flitSeq (List.replicate 256 0) = State.reset.link.nextSeq ∧
    ({ State.reset.link with downSince := some 0 } : Link).downSince = some 0 ∧ 0 + 100000000000 ≤ 100000000000 := by decide +kernel

theorem witness_PowerResults : Table.wf Core.fresh State.reset.cores = true ∧ State.reset.mem.wf = true ∧
    State.reset.isGated (.vatBank 0 0 0) = false ∧ State.reset.gateable (.vatBank 0 0 0) = true ∧ ({ base with groups := [] } : State).gateable (.scratch 0 255) = true ∧
    State.reset.gateable (.l1Way 191 0) = true ∧
    (let s : State := { State.reset with cores := [(0, { Core.fresh with gated := [255] })] }
     s.isGated (.scratch 0 255) = true ∧ (∀ x ∈ s.waking, x.1 ≠ .scratch 0 255)) ∧
    (∃ x ∈ ({ State.reset with waking := [(.scratch 0 255, 0)] } : State).waking, x.1 = .scratch 0 255 ∧ x.2 ≤ 0) ∧
    (191 < 192 ∧ 400 ≤ 420 ∧ 420 ≤ 420 ∧ 550 ≤ 577 ∧ 577 ≤ 577 ∧ 667 ≤ 700 ∧ 700 ≤ 700 ∧ 800 ≤ 840 ∧ 840 ≤ 840) ∧
    ({ State.reset.dev with tripped := true } : Device).tripped = true := by decide +kernel

theorem witness_ServiceResults : owned.own.isOwner 1 = true ∧ ({ owned.svc with busy := true } : Service).busy = true ∧ owned.svc.busy = false ∧ 2 ^ 20 ≤ 2 ^ 20 ∧
    (3 < 4 ∨ 128 ≤ 0) ∧ (11 % 64 < 12) ∧ owned.promises = false ∧ ({ flying { plainPass with promised := true } with own := owned.own } : State).promises = true ∧
    owned.dev.spares (0 / 96) ≠ 0 ∧ ({ owned.dev with spares0 := 0 } : Device).spares (0 / 96) = 0 ∧
    (let r : ServiceRun := ⟨2, 0, 0, 0, true⟩
     ({ owned with svc := { owned.svc with run := some r } } : State).drainedCore 0 = true) ∧
    (let r : ServiceRun := ⟨1, 0, 0, 0, false⟩
     ({ owned with svc := { owned.svc with run := some r } } : State).unitQuiet r = true) := by decide +kernel

theorem witness_WordsLeaveControlSpace : isWord (.sst 2 3 0) = true ∧ isWord (.launch 2 3 true 0) = true ∧ isNext (exec (.sst 2 3 0) base) = true := by decide +kernel

/-- StepsKeepCanonical: a state whose step is a next state. -/
theorem witness_StepsKeepCanonical : State.reset.mem.wf = true ∧ Table.wf Core.fresh State.reset.cores = true ∧
    (State.reset.withFetchWord 32 0x80000000).mem.wf = true ∧ Table.wf Core.fresh (State.reset.withFetchWord 32 0x80000000).cores = true ∧
    isNext (step (State.reset.withFetchWord 32 0x80000000)) = true := by decide +kernel

/-- A granted word that is to wait at issue is held there: TRAP inside a window. -/
def waitingAt : State :=
  let s := State.reset.withFetchWord 32 (sc 15 0 7)
  { s with cores := s.cores.map (fun k => (k.1, { k.2 with turn := some ⟨[⟨0, 0, 0, 0x4000⟩], []⟩ })), groups := s.groups.map fun g => { g with gangs := g.gangs.map fun h => { h with window := some (windowOf [] none), ops := [{ op0 with wait := .bank 1 }] } } }

theorem witness_StepRunsDecoded_held : ((waitingAt.core 0).turn).isSome = true ∧
    (match waitingAt.choose 0 with
      | some r => (match exec (.trap 7) (waitingAt.issueStart r) with
        | .next t => (t.fragOf? r).any (fun f => f.wait.unissued && f.pc == r.f.pc)
        | _ => false)
      | none => false) = true := by decide +kernel

theorem witness_DecodeEncode : isWord (.vfma (ln .f32 (.v 4) (.v 5) (.const 2) (.v 4))) = true ∧ (Instr.vfma (ln .f32 (.v 4) (.v 5) (.const 2) (.v 4))).wellFormed = true ∧
    (Instr.bra 0x1FFFFF).wellFormed = true ∧ (match Decode.words 0xD0C0805A 0x1010EA05 0 with | .ok _ => true | .error _ => false) = true ∧ 0xFFFFFFFF < 2 ^ 32 := by
  decide +kernel

/-- StepRunsDecoded: a placed NOP is what the next step issues. -/
theorem witness_StepRunsDecoded :
    (let s := State.reset.withFetchWord 32 0x80000000
     s.dev.tripped = false ∧ s.inputs = [] ∧ (s.firstStep s.windowEvents).isNone = true ∧ s.graphDue = false ∧ s.liveCore = some 0 ∧
     (s.firstStep s.engineEvents).isNone = true ∧
     (s.core 0).turn = none ∧ ((s.beginTurn exec 0).choose 0).map (fun r => r.what == .instr .nop) = some true ∧
     okAt (s.checkGlobal placedGroup.who .fetch 0x10000 4) 0x10000 = true ∧ okAt (s.checkGlobal placedGroup.who .fetch 0x10008 4) 0x10008 = true ∧
     s.readPhys 0x10000 4 = 0x80000000 ∧ s.caches.old = [] ∧ s.memErrBits 0x10000 4 = 0 ∧ s.codeWord (some 0) 0x10000 = 0x80000000 ∧
     (let bad := { s with memErr := [(0x10000 / 128, 0)] }
      bad.memErrBits 0x10000 4 ≠ 0) ∧
     (match (s.beginTurn exec 0).choose 0 with | some r => (s.afterIssue r s).cur.isNone | none => false) = true) ∧
    Decode.wordCount 0x80000000 = 1 ∧ Decode.wordCount 0x52180000 = 2 ∧ Decode.wordCount 0xD0C0805A = 3 ∧
    (match Decode.wordList [0x80000000] with | .ok i => i == .nop | .error _ => false) = true ∧
    (match Decode.wordList [0x52180000, 7] with | .ok i => i == .sliw 6 0 7 | .error _ => false) = true ∧
    (match Decode.wordList [0xD0C0805A, 0x1010EA05, 0] with | .ok _ => true | .error _ => false) = true := by decide +kernel

/-! ## Witnesses of the clauses that split, fuse, hold, roll back, save and restore -/

/-- A BRV that quad 0 alone takes, and an RTOK whose other fragment has arrived, or is still missing. -/
def fragOther : Fragment := { frag0 with entry := 1, qset := 2, fmask := 0xF0, state := .fuseWait, ftok := 9 }
def fusing (expect : BitVec 16) : Gang := { placedGang with frags := [fragQuad, fragOther], joins := [(9, ⟨true, expect, 0x294A⟩)] }

theorem witness_BranchResults_split :
    (match (withH splitting).freeEntry 0 with | some e => splitting.frags.all fun f => f.entry != e | none => false) = true ∧
    (let lanes := splitting.enabled frag0
     let tk := fun (q : Nat) => quadBits lanes q &&& quadBits (splitting.readP 1) q
     let nt := fun (q : Nat) => quadBits lanes q &&& ~~~(quadBits (splitting.readP 1) q)
     (∃ q < 16, frag0.qset.getLsbD q = true ∧ (nt q == 0 || tk q != 0) = true) ∧
     (∃ q < 16, frag0.qset.getLsbD q = true ∧ (nt q == 0 || tk q != 0) = false)) ∧ (∀ q < 16, (splitting.stack q).length < 16) := by decide +kernel

theorem witness_BranchResults_fuse : (withH (fusing 3)).ctx? = some (ctxH (fusing 3) fragQuad) ∧ (ctxH (fusing 3) fragQuad).saturated = false ∧
    (∀ q, fragQuad.qset.getLsbD q = true → hasTok ((fusing 3).stack q) 9 = false) ∧ ((fusing 3).join 9).isOpen = true ∧
    ((fusing 3).frags.map fun f => f.entry).Nodup ∧
    (fusing 3).frags.filter (fun f => f.state == .fuseWait && f.ftok == 9 && f.entry != fragQuad.entry) = [fragOther] ∧
    ((fusing 3).join 9).expect &&& ~~~((fragQuad.qset ||| fragOther.qset) ||| ~~~(quadsOf (fusing 3).lmask)) = 0 ∧
    ((fusing 7).join 9).expect &&& ~~~((fragQuad.qset ||| fragOther.qset) ||| ~~~(quadsOf (fusing 7).lmask)) ≠ 0 ∧ (∀ k < 6, (fusing 3).wcount 3 k ≤ 63) :=
  ⟨by decide +kernel, by decide +kernel, each_quad (by decide +kernel), by decide +kernel, by decide +kernel, by decide +kernel, by decide +kernel,
    by decide +kernel, by decide +kernel⟩

/-- The last lane of a gang leaves a group that goes on, and one that ends; a HINT that serial mode holds back; a store that waits in a window. -/
theorem witness_LaneExit_last : (∃ x ∈ two.gangs, x.id ≠ placedGang.id ∧ x.lmask ≠ 0) ∧ (∀ x ∈ placedGroup.gangs, x.id ≠ placedGang.id → x.lmask = 0) ∧
    (withG { saving with gangs := [serialGang] }).ctx? = some ⟨{ saving with gangs := [serialGang] }, serialGang, frag0⟩ ∧
    inWindow.scratchFull (wordsOf (0 + 0) 8) = false ∧
    after (exec (.sst 3 2 0) (withH { serialGang with s := [(2, 0x10000)] })) (fun c => c.f.pc) = some 0x4000 := by decide +kernel

/-- A fragment parked on a word, and one that waits to be sent again, in a gang whose CLAIM waits, and whose address maps to nothing. -/
def claimed (f : Fragment) : Gang := { placedGang with claim := some 8, frags := [f] }

theorem witness_ParkResults_claim : (withH (claimed fragParked)).group? 0 = some { placedGroup with gangs := [claimed fragParked] } ∧
    (claimed fragParked).claim.isSome = true ∧ placedGroup.place = .resident ∧ placedGang.claim = none ∧
    okAt (base.checkGlobal placedGroup.who .sync 0x20000 16) 0x20000 = true ∧ errs (base.checkGlobal placedGroup.who .sync 0x20000000 16) 0x22 0 = true ∧
    (claimed { frag0 with state := .parked, wait := .obj 0x20000 (.take 4) }).frags = [{ frag0 with state := .parked, wait := .obj 0x20000 (.take 4) }] ∧
    frag0.served = none ∧ (Quire.ofNat (1 * 2 ^ 112)).passed 0 = true := by decide +kernel

/-- A LAUNCH whose trap goes to its group's handler. -/
theorem witness_LaunchResults_inGang : placedGang.handler = none ∧ withHandler.kernel.hndlr ≠ 0 ∧ (withG withHandler).launches = [] := by decide +kernel

/-- Requests of each kind: float, far, compared and ordered. -/
theorem witness_AtomicResults_values : Types.isF .f32 = true ∧ (0 : Nat) ∈ [0, 1, 2] ∧ (4 : Nat) ∈ [1, 2, 3, 4] ∧
    (req (.far 0 7 0)).isFar = true ∧ ({ req (.far 0 7 0) with ty := .i32 } : BankReq).result 5 = some (12, 0) ∧
    (req (.farCas 5 6 1)).what = .farCas 5 6 1 ∧ (banking (.farCas 5 6 1)).memErrBits 0x20000 4 = 0 ∧ (req (.ordered 0 7 0 1)).what = .ordered 0 7 0 1 := by
  decide +kernel

/-- Running macro-operations of each instruction that gives values: registers, windows, the loads and the stores. -/
def doing (lop : LOp) (ln : Lane) (dsc : Word) : MacroOp := { running0 with lop := lop, fields := ln, tb := ln.ty, dscA := dsc, dscB := dsc }

theorem witness_MatrixEngineSteps_values :
    ([(LOp.mma, mm), (.mmaS, mm), (.mmaCsr, mm), (.mlda, { ln .f32 (.acc 0) (.s 2) (.v 0) (.v 0) with ty := .f32 }),
      (.msta, ln .f32 (.v 8) (.acc 0) (.v 0) (.v 0))].all fun x =>
      let s := engine (doing x.1 x.2 0)
      (s.core 0).macros.find? (fun m => m.running) == some (doing x.1 x.2 0) && s.group? 0 == some placedGroup && Table.wf 0 (s.core 0).acc &&
      Table.wf 0 (s.core 0).scratch && (s.core 0).retraining.isNone && (s.core 0).accErr == [] && (s.core 0).scratchErr == [] &&
      (doing x.1 x.2 0).step == 0 && (doing x.1 x.2 0).poisoned == [] && (doing x.1 x.2 0).errA == [] && (doing x.1 x.2 0).errB == []) = true ∧
    0 < matRows mm ∧ 0 < matCols mm ∧ rowOrigin mm + matRows mm ≤ 128 ∧ Types.isX .f32 = false ∧ 0 % placedGang.width < 64 ∧
    placedGang.lmask.getLsbD (0 % placedGang.width) = true ∧ (∃ o ∈ ({ placedGang with ops := [op0] } : Gang).ops, o.id = running0.op) := by decide +kernel

/-- Rows of 256 bytes at a stride of 256 lie apart. -/
theorem witness_MatrixEngineSteps_apart : ∀ x q y p : Nat, q < 32 → p < 32 → (x, q) ≠ (y, p) →
    (Descriptor.mk (256 * 2 ^ 20)).offset 0 x (8 * q) + 8 ≤ (Descriptor.mk (256 * 2 ^ 20)).offset 0 y (8 * p) ∨
    (Descriptor.mk (256 * 2 ^ 20)).offset 0 y (8 * p) + 8 ≤ (Descriptor.mk (256 * 2 ^ 20)).offset 0 x (8 * q) := by
  have h : ∀ x q, (Descriptor.mk (256 * 2 ^ 20)).offset 0 x (8 * q) = 256 * x + 8 * q := by
    intro x q
    simp [Descriptor.offset, Descriptor.base, Descriptor.rpitch, Descriptor.tpitch, Bits.field]
    omega
  intro x q y p hq hp hne
  rw [h, h]
  by_cases hx : x = y
  · have hp : q ≠ p := fun hq => hne (by rw [hx, hq])
    omega
  · omega

/-- A hold queue with a store to memory and one to the scratchpad; a window that claims a line and marks another. -/
def queueOf : List Held := [held0, ⟨[⟨true, 8, 9⟩], none⟩, ⟨[⟨false, 0x20000, 1⟩], none⟩]
def claimingLine : Gang := { placedGang with window := some { windowOf [] none with claims := [0x20000 / 128], marks := [0x30000 / 128] } }

theorem witness_LandingAndWindows_commit :
    ({ placedGang with window := some (windowOf queueOf none) } : Gang).earlierDone (windowOf queueOf none) = true ∧ (windowOf queueOf none).fault = none ∧
    Table.wf Core.fresh base.cores = true ∧ Table.wf 0 (base.core 0).scratch = true ∧
    ((windowOf queueOf none).heldBytes.reverse.find? fun b => b.scratch == false && b.addr == 0x20000).map (fun b => b.val) = some 1 := by decide +kernel

theorem witness_LandingAndWindows_conflict :
    (withH claimingLine).group? 0 = some { placedGroup with gangs := [claimingLine] } ∧ (some (1, 0) : Option (Nat × Nat)) ≠ some (0, 0) ∧
    ((withH claimingLine).groups.map fun g => g.gid).Nodup ∧ ([claimingLine].map fun h => h.id).Nodup ∧
    (∃ l ∈ linesOf 0x20000 8, l ∈ [0x20000 / 128]) ∧ (∃ l ∈ linesOf 0x30000 8, l ∈ [0x30000 / 128]) ∧
    (∀ f ∈ (checkOf placedGang).frags, f.state ≠ .fuseWait) ∧ base.launches = [] := by decide +kernel

/-- A tile's handle that only a kill consumes, a saved group whose control state has failed, an exported slot still read; a copy that runs again. -/
theorem witness_ResumeResults_killOnly : ({ tileHandle with killOnly := true } : Handle).killOnly = true ∧ tileHandle.killOnly = false ∧
    (∃ h ∈ [({ placedGang with ctlErr := true } : Gang)], h.ctlErr = true) ∧ (⟨0, false, 0, 1, true, false⟩ : RingSlot).readers ≠ 0 ∧
    (copyS { copy0 with state := .queued }).firstQueued 0 15 = some { copy0 with state := .queued } ∧
    (copyS { copy0 with state := .queued }).channelLoad 0 15 < 4 ∧ blockedCopy.firstQueued 0 15 = none := by decide +kernel

/-- An element that is moved. -/
theorem witness_CopyMovesElement_next :
    (match (Run.mk (copyRuns 2 0) 0 0 []).element (copyOf 0) ⟨tpl 2 1⟩ [0, 0, 0, 0, 0] with
      | .ok x => (match x.1.write (copyOf 0) (Template.dsp ⟨tpl 2 1⟩ == 1) (Template.destAddr ⟨tpl 2 1⟩ (copyOf 0).doff (Template.dest ⟨tpl 2 1⟩ [0, 0, 0, 0, 0]))
          (Bits.toBytes 4 (Template.conv ⟨tpl 2 1⟩ x.2).1) with | .ok _ => true | .error _ => false)
      | .error _ => false) = true ∧ Template.coords (Template.box ⟨tpl 2 1⟩) 0 = [0, 0, 0, 0, 0] ∧ (copyOf 0).tpl = none ∧
    (({ copyOf 0 with tpl := some 0 } : Copy).tpl).isSome = true ∧ (∀ k ∈ base.cores, k.2.macros = []) := by decide +kernel

/-- A triangle of either sense, with a pixel's centre on an edge; the blending forms; the ray of a node. -/
def onEdge : Nat := Bits.ofBytes (Bits.toBytes 4 0x3F000000 ++ Bits.toBytes 4 0x3F000000 ++ Bits.toBytes 4 0 ++ Bits.toBytes 4 0x40400000 ++
  Bits.toBytes 4 0x3F000000 ++ Bits.toBytes 4 0 ++ Bits.toBytes 4 0x3F000000 ++ Bits.toBytes 4 0x40400000)

theorem witness_RasteriserAndBlender_edge :
    0 < area (Triangle.point ⟨onEdge⟩ 0) (Triangle.point ⟨onEdge⟩ 1) (Triangle.point ⟨onEdge⟩ 2) ∧
    area (Triangle.point ⟨onEdge⟩ 0) (Triangle.point ⟨onEdge⟩ 1) (centre 1 0) = 0 ∧ Triangle.covers ⟨onEdge⟩ 1 0 = true ∧
    area (Triangle.point ⟨0⟩ 0) (Triangle.point ⟨0⟩ 1) (Triangle.point ⟨0⟩ 2) = 0 ∧
    (let t : Triangle := ⟨Bits.ofBytes ((Bits.toBytes 40 onEdge).take 12 ++ ((Bits.toBytes 40 onEdge).drop 24).take 12 ++ ((Bits.toBytes 40 onEdge).drop 12).take 12)⟩
     area (t.point 0) (t.point 1) (t.point 2) < 0) ∧
    (match Num.addE 0 (.fin false 1 0) (Num.decode .f16 (elem 16 0x3800000000000000 3)).neg with | .val _ _ _ _ => true | _ => false) = true ∧
    ([0, 1, 2].all fun k => (List.range 4).any fun n => nodeBlend (n * 2 ^ 40) == k || nodeBlend (n * 2 ^ 42) == k || nodeBlend (n * 2 ^ 44) == k) = true := by
  decide +kernel

/-- A ray of node 0, whose hit goes to node 1. -/
def rayOfNode : Ray := { ray0 0 with lane := none, node := some (tr0, 0, 0) }
def resolving : State := { recording (outTo1 + 2) (8 * 2 ^ 48) recTile0 placedGroup with rays := [rayOfNode] }

theorem witness_TraversalResults_node : resolving.nextRay 0 = none ∧ resolving.readyRay 0 = some rayOfNode ∧ rayOfNode.path = [] ∧ rayOfNode.lane = none ∧
    (resolving.passAt 0 0).map (fun p => nodeOut (p.node 0) 0) = some (some 1) ∧ resolving.recTile? tr0 = some recTile0 ∧ recTile0.emits = [] ∧
    recTile0.stats.length = 8 ∧ Table.wf [] recTile0.queues = true := by decide +kernel

/-- Saves: the places written lie in memory; a group restored, its registers kept; one that fits its slot; a record-pass group whose control state failed. -/
theorem witness_SaveSteps_values : landing.plainRange (landing.slotBase 0 0 + 0x1000 + 0x2000 * 0 + 0x340) 512 = true ∧ landing.mem.wf = true ∧
    (∀ k, k < 4 → raying.plainRange (raying.slotBase 0 0 + 0x100000 + 8 * (320 * (0 * 32 + 31) + 4) + 8 * k) 8 = true) ∧ raying.mem.wf = true ∧
    placedGang.exited = false ∧ placedGang.serr = [] ∧ placedGang.perr = [] ∧ placedGang.verr = [] ∧ placedGang.width ≤ 64 ∧
    Table.wf Core.fresh restoring.cores = true ∧ Table.wf 0 (restoring.core 0).scratch = true ∧ Table.wf 0 (restoring.core 0).acc = true ∧
    (0 : Nat) < 4096 * placedKernel.scrg ∧ 0 < placedGroup.tiles.length := by decide +kernel

theorem witness_SaveCaptures_fits : stopped.FitsBlock ∧ ({ placedGroup with gangs := [stopped] } : Group).FitsSlot := by
  have h : stopped.FitsBlock := by
    refine ⟨by decide +kernel, by decide +kernel, by decide +kernel, by decide +kernel, by decide +kernel, by decide +kernel, by decide +kernel, by decide +kernel,
      fun q => ?_, by decide +kernel, by decide +kernel, by decide +kernel, ?_, ?_⟩
    · rw [show stopped.stack q = [] from rfl]; exact Nat.zero_le _
    · intro f hf x hx
      rw [show stopped.frags = [frag0] from by decide +kernel] at hf
      obtain rfl := List.mem_singleton.mp hf
      cases hx
    · intro x hx
      rw [show stopped.handler = none from by decide +kernel] at hx
      cases hx
  refine ⟨h, by decide +kernel, by decide +kernel, by decide +kernel, ?_⟩
  intro x hx
  obtain rfl := List.mem_singleton.mp hx
  exact ⟨h, fun k hk => by rw [List.mem_singleton.mp hk]⟩

/-- The record-pass group whose control state an error meets while it is stopped for a save. -/
def brokenNode : Group := { nodeGroup with savePending := some (0, .evict), gangs := [{ stopped with ctlErr := true }] }
def breaking : State := { withG brokenNode with recTiles := [recTile0] }

theorem witness_SaveCaptures_values : (capturing 1 false).mem.wf = true ∧ (capturing 1 false).plainRange ((capturing 1 false).slotBase 0 0) (2 ^ 23) = true ∧
    stopped.fpend = [] ∧ stopped.hintTables = none ∧ stopped.ctlErr = false ∧ 0 < stopped.vcount ∧
    ((capturing 1 false).group? 0).bind (fun g => (capturing 1 false).brokenRecGang g) = none ∧
    breaking.group? 0 = some brokenNode ∧ breaking.captureReady brokenNode = true ∧ (breaking.brokenRecGang brokenNode).isSome = true := by decide +kernel

/-- Contributions of a pass already known, and of one that is not; a recalibration that is due; a cycle that begins. -/
theorem witness_CollectiveAndLinkResults_known (which : Nat) : which ∈ ({ State.reset.link with known := [which] } : Link).known ∧ which ∉ State.reset.link.known :=
  ⟨List.mem_singleton.mpr rfl, by rw [show State.reset.link.known = [] from rfl]; exact List.not_mem_nil⟩

theorem witness_PowerResults_due : (State.reset.recalCount / 192 + 1) * 1000000000 ≤ ({ State.reset with time := 1000000000 } : State).time ∧
    (400 ≤ 420 ∧ 550 ≤ 577 ∧ 667 ≤ 700 ∧ 800 ≤ 840) := by decide +kernel

theorem witness_StepRunsDecoded_turn :
    (let s := State.reset.withFetchWord 32 0x80000000
     (s.core 0).turn = none ∧ Table.wf Core.fresh s.cores = true ∧ ((s.beginTurn exec 0).core 0).turn.isSome = true) := by decide +kernel

end Sys2Proof.Tests
end

section
/-! SUPPORT. The bytes of a number and the pattern of a list of bit indices, place by place (R8, R10). -/

namespace Sys2Proof.Bits

@[simp] theorem toBytes_length (n x : Nat) : (toBytes n x).length = n := by
  induction n generalizing x with
  | zero => rfl
  | succ n ih => simp [toBytes, ih]

theorem toBytes_getElem (n x k : Nat) (hk : k < (toBytes n x).length) : (toBytes n x)[k] = BitVec.ofNat 8 (x / 256 ^ k) := by
  induction n generalizing x k with
  | zero => simp [toBytes] at hk
  | succ n ih =>
    cases k with
    | zero => simp [toBytes]
    | succ k =>
      have hdiv : x >>> 8 / 256 ^ k = x / 256 ^ (k + 1) := by
        rw [Nat.pow_succ', ← Nat.div_div_eq_div_mul, Nat.shiftRight_eq_div_pow]
      simp only [toBytes, List.getElem_cons_succ, ih]
      exact congrArg _ hdiv

theorem testBit_foldl_or_two_pow (is : List Nat) (a j : Nat) :
    (is.foldl (fun m i => m ||| 2 ^ i) a).testBit j = (a.testBit j || decide (j ∈ is)) := by
  induction is generalizing a with
  | nil => simp
  | cons i is ih =>
    rw [List.foldl_cons, ih, Nat.testBit_or, Nat.testBit_two_pow]
    simp [Bool.or_assoc, eq_comm]

theorem testBit_maskOf (is : List Nat) (j : Nat) : (maskOf is).testBit j = decide (j ∈ is) := by
  simp [maskOf, testBit_foldl_or_two_pow]

end Sys2Proof.Bits
end

section
/-! SUPPORT. The registers of a gang and the numbers in memory: what a read gives after a write (R10, R79, R98, R108, R407). -/

namespace Sys2Proof.Machine

open Sys2Proof.Bits

/-! ## Numbers in memory -/

/-- The number that bytes in memory stand for is settled by the bytes (R10). -/
theorem Memory.readN_eq_of_bytes (m : Memory) (pa n x : Nat) (hb : ∀ k, k < n → m.read (pa + k) = BitVec.ofNat 8 (x / 256 ^ k)) :
    m.readN pa n = x % 2 ^ (8 * n) := by
  induction n generalizing pa x with
  | zero => simp [Memory.readN, Nat.mod_one]
  | succ n ih =>
    have hlow : (m.read pa).toNat = x % 256 := by simpa using congrArg BitVec.toNat (hb 0 (by omega))
    have hhigh : m.readN (pa + 1) n = x / 256 % 2 ^ (8 * n) := by
      refine ih (pa + 1) (x / 256) fun k hk => ?_
      rw [show pa + 1 + k = pa + (k + 1) by omega, hb (k + 1) (by omega), Nat.div_div_eq_div_mul, Nat.pow_succ']
    rw [Memory.readN, hlow, hhigh, show 2 ^ (8 * (n + 1)) = 256 * 2 ^ (8 * n) by rw [Nat.mul_succ, Nat.pow_add, Nat.mul_comm],
      Nat.mod_mul]

theorem Memory.read_writeL_toBytes (m : Memory) (pa n x k : Nat) (h : m.wf = true) (hk : k < n) :
    (m.writeL pa (toBytes n x)).read (pa + k) = BitVec.ofNat 8 (x / 256 ^ k) := by
  have hk' : k < (toBytes n x).length := by rwa [toBytes_length]
  rw [Memory.read_writeL _ m pa k h hk', toBytes_getElem]

theorem Memory.readN_writeL_toBytes (m : Memory) (pa n x : Nat) (h : m.wf = true) :
    (m.writeL pa (toBytes n x)).readN pa n = x % 2 ^ (8 * n) :=
  Memory.readN_eq_of_bytes _ pa n x fun k hk => Memory.read_writeL_toBytes m pa n x k h hk

/-! ## Words that a write makes good -/

theorem contains_filter_ne_self (l : List Nat) (k : Nat) : (l.filter fun x => x != k).contains k = false := by simp

theorem contains_filter_ne_other (l : List Nat) (k q : Nat) (hn : k ≠ q) : (l.filter fun x => x != k).contains q = l.contains q := by
  simp [hn.symm]

/-! ## s registers -/

@[simp] theorem Gang.readS_zero (h : Gang) : h.readS 0 = 0 := rfl

@[simp] theorem Gang.writeS_zero (h : Gang) (v : Word) : h.writeS 0 v = h := rfl

theorem Gang.readS_writeS_same (h : Gang) (r : Nat) (v : Word) (hs : Table.wf 0 h.s = true) (hr : r ≠ 0) : (h.writeS r v).readS r = v := by
  simp only [Gang.readS, Gang.writeS, if_neg hr, contains_filter_ne_self, Table.get_set_same 0 h.s r v 0 hs, Bool.false_eq_true, if_false]

theorem Gang.readS_writeS_other (h : Gang) (r q : Nat) (v : Word) (hs : Table.wf 0 h.s = true) (hn : r ≠ q) :
    (h.writeS r v).readS q = h.readS q := by
  by_cases hr : r = 0
  · rw [hr, Gang.writeS_zero]
  · simp only [Gang.readS, Gang.writeS, if_neg hr, contains_filter_ne_other _ r q hn, Table.get_set_other 0 h.s r q v 0 hs hn]

theorem Gang.wf_writeS (h : Gang) (r : Nat) (v : Word) (hs : Table.wf 0 h.s = true) : Table.wf 0 (h.writeS r v).s = true := by
  by_cases hr : r = 0
  · rw [hr, Gang.writeS_zero, hs]
  · simpa [Gang.writeS, hr] using Table.wf_set 0 h.s r v hs

/-! ## v registers -/

/-- The lanes of two v words with one key are one lane of one register. -/
theorem vkey_injective (r q l m : Nat) (hl : l < 64) (hm : m < 64) (h : vkey r l = vkey q m) : (r, l) = (q, m) := by
  simp only [vkey] at h
  rw [Prod.mk.injEq]
  omega

theorem Gang.readV_writeV_same (h : Gang) (r l : Nat) (v : Word) (hv : Table.wf 0 h.v = true) : (h.writeV r l v).readV r l = v := by
  simp only [Gang.readV, Gang.writeV, contains_filter_ne_self, Table.get_set_same 0 h.v (vkey r l) v 0 hv, Bool.false_eq_true, if_false]

theorem Gang.readV_writeV_other (h : Gang) (r q l m : Nat) (v : Word) (hv : Table.wf 0 h.v = true) (hl : l < 64) (hm : m < 64)
    (hn : (r, l) ≠ (q, m)) : (h.writeV r l v).readV q m = h.readV q m := by
  have hk : vkey r l ≠ vkey q m := fun e => hn (vkey_injective r q l m hl hm e)
  simp only [Gang.readV, Gang.writeV, contains_filter_ne_other _ _ _ hk, Table.get_set_other 0 h.v _ _ v 0 hv hk]

theorem Gang.wf_writeV (h : Gang) (r l : Nat) (v : Word) (hv : Table.wf 0 h.v = true) : Table.wf 0 (h.writeV r l v).v = true :=
  Table.wf_set 0 h.v (vkey r l) v hv

/-! ## Predicates -/

/-- A lane of a predicate reads its bit, or 0 where it is uncorrectable (R407). -/
theorem Gang.getLsbD_readP (h : Gang) (p j : Nat) (hp : p ≠ 0) (hj : j < 64) :
    (h.readP p).getLsbD j = ((Table.get 0 h.p p).getLsbD j && !decide (64 * p + j ∈ h.perr)) := by
  have hmem : (∃ k, (k ∈ h.perr ∧ k / 64 = p) ∧ k % 64 = j) ↔ 64 * p + j ∈ h.perr := by
    constructor
    · rintro ⟨k, ⟨hk, rfl⟩, rfl⟩
      rwa [Nat.div_add_mod]
    · exact fun hk => ⟨_, ⟨hk, by omega⟩, by omega⟩
  simp only [Gang.readP, hp, if_false, BitVec.getLsbD_and, BitVec.getLsbD_not, BitVec.getLsbD_ofNat, testBit_maskOf, List.mem_map, List.mem_filter,
    beq_iff_eq, hmem, hj, decide_true, Bool.true_and]

@[simp] theorem Gang.readP_zero (h : Gang) : h.readP 0 = BitVec.allOnes 64 := rfl

@[simp] theorem Gang.writeP_zero (h : Gang) (lanes vals : Word) : h.writeP 0 lanes vals = h := rfl

/-- A lane written is good; every other lane of a predicate stays as good as it was (R407). -/
theorem Gang.mem_perr_writeP (h : Gang) (r q j : Nat) (lanes vals : Word) (hr : r ≠ 0) (hj : j < 64) :
    64 * q + j ∈ (h.writeP r lanes vals).perr ↔ 64 * q + j ∈ h.perr ∧ (r = q → lanes.getLsbD j = false) := by
  have hdiv : (64 * q + j) / 64 = q := by omega
  have hmod : (64 * q + j) % 64 = j := by omega
  simp only [Gang.writeP, hr, if_false, List.mem_filter, hdiv, hmod, Bool.or_eq_true, bne_iff_ne, Bool.not_eq_true', ne_eq, eq_comm (a := q),
    Decidable.imp_iff_not_or]

theorem Gang.readP_writeP_same (h : Gang) (r : Nat) (lanes vals : Word) (hp : Table.wf 0 h.p = true) (hr : r ≠ 0) :
    (h.writeP r lanes vals).readP r = (h.readP r &&& ~~~lanes) ||| (vals &&& lanes) := by
  have hget : Table.get 0 (h.writeP r lanes vals).p r = (Table.get 0 h.p r &&& ~~~lanes) ||| (vals &&& lanes) := by
    simp only [Gang.writeP, if_neg hr, Table.get_set_same 0 h.p r _ 0 hp]
  refine BitVec.eq_of_getLsbD_eq fun j hj => ?_
  simp only [Gang.getLsbD_readP _ r j hr hj, hget, Gang.mem_perr_writeP h r r j lanes vals hr hj, BitVec.getLsbD_or, BitVec.getLsbD_and,
    BitVec.getLsbD_not, hj]
  cases lanes.getLsbD j <;> simp

theorem Gang.readP_writeP_other (h : Gang) (r q : Nat) (lanes vals : Word) (hp : Table.wf 0 h.p = true) (hn : r ≠ q) :
    (h.writeP r lanes vals).readP q = h.readP q := by
  by_cases hr : r = 0
  · rw [hr, Gang.writeP_zero]
  by_cases hq : q = 0
  · rw [hq, Gang.readP_zero, Gang.readP_zero]
  have hget : Table.get 0 (h.writeP r lanes vals).p q = Table.get 0 h.p q := by
    simp only [Gang.writeP, if_neg hr, Table.get_set_other 0 h.p r q _ 0 hp hn]
  refine BitVec.eq_of_getLsbD_eq fun j hj => ?_
  simp only [Gang.getLsbD_readP _ q j hq hj, hget, Gang.mem_perr_writeP h r q j lanes vals hr hj, hn, false_implies, and_true]

theorem Gang.wf_writeP (h : Gang) (r : Nat) (lanes vals : Word) (hp : Table.wf 0 h.p = true) : Table.wf 0 (h.writeP r lanes vals).p = true := by
  by_cases hr : r = 0
  · rw [hr, Gang.writeP_zero, hp]
  · simpa [Gang.writeP, hr] using Table.wf_set 0 h.p r _ hp

/-- Settles O1, register file by register file, then memory. -/
theorem registersAndMemory : Obligations.RegistersAndMemory := by
  unfold Obligations.RegistersAndMemory
  refine ⟨fun h r q v hs => ?_, fun h r q l m v lanes vals hv hp hl hm => ?_, fun m pa x n q hm => ?_⟩
  · exact ⟨h.readS_zero, h.writeS_zero v, h.readS_writeS_same r v hs, h.readS_writeS_other r q v hs, h.wf_writeS r v hs⟩
  · have hp0 : ∀ j : Nat, j < 64 → (h.readP 0).getLsbD j = true := fun j hj => by
      rw [Gang.readP_zero, BitVec.getLsbD_allOnes, decide_eq_true hj]
    exact ⟨h.readV_writeV_same r l v hv, h.readV_writeV_other r q l m v hv hl hm, hp0, h.writeP_zero lanes vals,
      h.readP_writeP_same r lanes vals hp, h.readP_writeP_other r q lanes vals hp, h.wf_writeV r l v hv, h.wf_writeP r lanes vals hp⟩
  · have hout : q < pa ∨ pa + n ≤ q → (m.writeL pa (toBytes n x)).read q = m.read q := fun hq =>
      Memory.read_writeL_other _ m pa q hm (by rwa [toBytes_length])
    exact ⟨m.readN_writeL_toBytes pa n x hm, hout, fun k => m.read_writeL_toBytes pa n x k hm, Memory.wf_writeL _ m pa hm⟩

end Sys2Proof.Machine
end

section
/-! SUPPORT. Who may write control space: every write but OWNCTL's goes through the owner's gate (R3, R41, R44). -/

namespace Sys2Proof.Machine

/-- What a write by a master that is not the owner leaves: its bit of NOWR set, or nothing where the master sends nothing (R3, R41). -/
def State.refuseWrite (s : State) (m : Master) : State :=
  if m = 1 ∧ s.cfg.rootComplex = true then s else { s with own := { s.own with nowr := s.own.nowr ||| (1#4 <<< m.val) } }

theorem ownerWrite_of_not_owner (m : Master) (s : State) (k : State → Out) (h : s.own.isOwner m = false) :
    ownerWrite m s k = .next (s.refuseWrite m) := by
  by_cases hrc : m = 1 ∧ s.cfg.rootComplex = true
  · simp [ownerWrite, asMaster, State.refuseWrite, hrc]
  · simp [ownerWrite, asMaster, State.refuseWrite, hrc, h]

/-! ## The rows of the writes, each as a master that is not the owner makes it -/

section Refusals
variable {m : Master} {s : State} (val : Word) (h : s.own.isOwner m = false)
include h

theorem execGsubmitWrite_refused : execGsubmitWrite m val s = .next (s.refuseWrite m) := ownerWrite_of_not_owner m s _ h
theorem execGxrelWrite_refused : execGxrelWrite m val s = .next (s.refuseWrite m) := ownerWrite_of_not_owner m s _ h
theorem gresume_refused (gh : BitVec 32) (a : Act) : gresume m gh a s = .next (s.refuseWrite m) := ownerWrite_of_not_owner m s _ h
theorem execTlbinvRange_refused : execTlbinvRange m val s = .next (s.refuseWrite m) := ownerWrite_of_not_owner m s _ h
theorem execTlbinvAll_refused : execTlbinvAll m val s = .next (s.refuseWrite m) := ownerWrite_of_not_owner m s _ h
theorem execOrdclrWrite_refused (st : StackId) : execOrdclrWrite m st val s = .next (s.refuseWrite m) := ownerWrite_of_not_owner m s _ h
theorem execVatdirWrite_refused (st : StackId) : execVatdirWrite m st val s = .next (s.refuseWrite m) := ownerWrite_of_not_owner m s _ h
theorem gnetWrite_refused (n : Fin 4) (en : Bool) : gnetWrite m n val en s = .next (s.refuseWrite m) := ownerWrite_of_not_owner m s _ h
theorem svcWrite_refused (k : Nat → Nat → State → State) : svcWrite m val s k = .next (s.refuseWrite m) := ownerWrite_of_not_owner m s _ h
theorem execSvccmdUpdate_refused : execSvccmdUpdate m val s = .next (s.refuseWrite m) := svcWrite_refused val h _
theorem execSvccmdSpareCore_refused : execSvccmdSpareCore m val s = .next (s.refuseWrite m) := svcWrite_refused val h _
theorem execSvccmdRemapVatBank_refused : execSvccmdRemapVatBank m val s = .next (s.refuseWrite m) := svcWrite_refused val h _
theorem execSvccmdRetrainChannel_refused : execSvccmdRetrainChannel m val s = .next (s.refuseWrite m) := svcWrite_refused val h _
theorem execSvccmdAttest_refused : execSvccmdAttest m val s = .next (s.refuseWrite m) := svcWrite_refused val h _

theorem gresumeWrite_refused (n : Nat) : gresumeWrite m n s = .next (s.refuseWrite m) := by
  unfold gresumeWrite
  dsimp only
  split
  · exact gresume_refused h _ .retry
  · exact gresume_refused h _ .deliver
  · exact gresume_refused h _ .kill
  · exact ownerWrite_of_not_owner m s _ h

theorem svccmdWrite_refused : svccmdWrite m val s = .next (s.refuseWrite m) := by
  unfold svccmdWrite
  split
  · exact execSvccmdUpdate_refused val h
  · exact execSvccmdSpareCore_refused val h
  · exact execSvccmdRemapVatBank_refused val h
  · exact execSvccmdRetrainChannel_refused val h
  · exact execSvccmdAttest_refused val h
  · exact ownerWrite_of_not_owner m s _ h

/-- Only OWNCTL's offset takes a REGISTER_WRITE from a master that is not the owner (R41). -/
theorem execRegisterWrite_refused (off : Nat) (hoff : off ≠ 0x010008) : execRegisterWrite m off val s = .next (s.refuseWrite m) := by
  have hnet : ∀ n : Fin 4, (if val.toNat.testBit 0 then execGnetEnable m n val s else execGnetDisable m n val s) = .next (s.refuseWrite m) := by
    intro n
    split
    · exact gnetWrite_refused val h n true
    · exact gnetWrite_refused val h n false
  unfold execRegisterWrite
  dsimp only
  split
  · exact absurd rfl hoff
  · exact execGsubmitWrite_refused val h
  · exact execGxrelWrite_refused val h
  · exact gresumeWrite_refused h _
  · split
    · exact execTlbinvAll_refused val h
    · exact execTlbinvRange_refused val h
  · exact execVatdirWrite_refused val h 0
  · exact execVatdirWrite_refused val h 1
  · exact execOrdclrWrite_refused val h 0
  · exact execOrdclrWrite_refused val h 1
  · exact svccmdWrite_refused val h
  · exact hnet 0
  · exact hnet 1
  · exact hnet 2
  · exact hnet 3
  · exact ownerWrite_of_not_owner m s _ h

end Refusals

theorem Owner.isOwner_iff (o : Owner) (m : Master) : o.isOwner m = true ↔ (o.state = .owned ∨ o.state = .giving) ∧ o.owner = m := by
  simp [Owner.isOwner]

theorem Owner.isOwner_unique (o : Owner) (m n : Master) (hm : o.isOwner m = true) (hn : o.isOwner n = true) : m = n := by
  obtain ⟨-, rfl⟩ := (o.isOwner_iff m).mp hm
  exact ((o.isOwner_iff n).mp hn).2

/-- Settles O34: the owner is the one that OWNER names, and every row of a write but OWNCTL's refuses any other master. -/
theorem onlyOwnerWrites : Obligations.OnlyOwnerWrites := by
  unfold Obligations.OnlyOwnerWrites
  refine ⟨Owner.isOwner_unique, Owner.isOwner_iff, fun s m val gh st n off h => ?_⟩
  exact ⟨execGsubmitWrite_refused val h, execGxrelWrite_refused val h, gresume_refused h gh .retry, gresume_refused h gh .deliver,
    gresume_refused h gh .kill, execTlbinvRange_refused val h, execTlbinvAll_refused val h, execOrdclrWrite_refused val h st,
    execVatdirWrite_refused val h st, gnetWrite_refused val h n true, gnetWrite_refused val h n false, execSvccmdUpdate_refused val h,
    execSvccmdSpareCore_refused val h, execSvccmdRemapVatBank_refused val h, execSvccmdRetrainChannel_refused val h,
    execSvccmdAttest_refused val h, execRegisterWrite_refused val h off⟩

end Sys2Proof.Machine
end

section
/-! SUPPORT. The order of keys, and the least and the sorted elements of a list by key (R59, R73). -/

namespace Sys2Proof.Machine

theorem keyLt_cons_false_iff (x y : Nat) (a b : List Nat) :
    keyLt (x :: a) (y :: b) = false ↔ y < x ∨ x = y ∧ keyLt a b = false := by
  rw [keyLt, Bool.or_eq_false_iff, decide_eq_false_iff_not, Bool.and_eq_false_iff, beq_eq_false_iff_ne]
  obtain h | rfl | h := Nat.lt_trichotomy x y
  · exact ⟨fun hx => absurd h hx.1, fun hx => by omega⟩
  · exact ⟨fun hx => .inr ⟨rfl, hx.2.resolve_left fun hne => hne rfl⟩, fun hx => ⟨Nat.lt_irrefl x, .inr (hx.resolve_left (Nat.lt_irrefl x)).2⟩⟩
  · exact ⟨fun _ => .inl h, fun _ => ⟨Nat.lt_asymm h, .inl (Nat.ne_of_gt h)⟩⟩

theorem keyLt_irrefl (a : List Nat) : keyLt a a = false := by
  induction a with
  | nil => rfl
  | cons x a ih => exact (keyLt_cons_false_iff x x a a).mpr (.inr ⟨rfl, ih⟩)

theorem keyLt_asymm (a b : List Nat) (h : keyLt a b = true) : keyLt b a = false := by
  induction a generalizing b with
  | nil => cases b <;> rfl
  | cons x a ih =>
    cases b with
    | nil => cases h
    | cons y b =>
      simp only [keyLt, Bool.or_eq_true, decide_eq_true_eq, Bool.and_eq_true, beq_iff_eq] at h
      exact (keyLt_cons_false_iff y x b a).mpr (h.imp_right fun hxy => ⟨hxy.1.symm, ih b hxy.2⟩)

/-- "Not before" is transitive. -/
theorem keyLt_false_trans (a b c : List Nat) (hab : keyLt a b = false) (hbc : keyLt b c = false) : keyLt a c = false := by
  induction a generalizing b c with
  | nil =>
    cases b with
    | nil => exact hbc
    | cons y b => cases hab
  | cons x a ih =>
    cases c with
    | nil => rfl
    | cons z c =>
      cases b with
      | nil => cases hbc
      | cons y b =>
        rw [keyLt_cons_false_iff] at hab hbc ⊢
        obtain hyx | ⟨rfl, hab⟩ := hab
        · exact .inl (by omega)
        · exact hbc.imp_right fun ⟨hxz, hbc⟩ => ⟨hxz, ih b c hab hbc⟩

section
variable {A : Type} (key : A → List Nat)

theorem leastBy_eq_none_iff (l : List A) : leastBy key l = none ↔ l = [] := by
  cases l with
  | nil => simp [leastBy]
  | cons a l =>
    simp only [leastBy, reduceCtorEq, iff_false]
    split
    · simp
    · split <;> simp

/-- What `leastBy` answers is of the list, and no element has a smaller key. -/
theorem leastBy_spec (l : List A) (m : A) (h : leastBy key l = some m) : m ∈ l ∧ ∀ x ∈ l, keyLt (key x) (key m) = false := by
  induction l generalizing m with
  | nil => cases h
  | cons a l ih =>
    rw [leastBy] at h
    cases hl : leastBy key l with
    | none =>
      obtain rfl := (leastBy_eq_none_iff key l).mp hl
      rw [hl] at h
      obtain rfl := Option.some.inj h
      exact ⟨List.mem_cons_self, fun x hx => by rw [List.mem_singleton.mp hx]; exact keyLt_irrefl _⟩
    | some b =>
      obtain ⟨hb, hmin⟩ := ih b hl
      cases hlt : keyLt (key b) (key a) with
      | true =>
        simp only [hl, hlt, if_true] at h
        obtain rfl := Option.some.inj h
        exact ⟨List.mem_cons_of_mem a hb, List.forall_mem_cons.mpr ⟨keyLt_asymm _ _ hlt, hmin⟩⟩
      | false =>
        simp only [hl, hlt, Bool.false_eq_true, if_false] at h
        obtain rfl := Option.some.inj h
        exact ⟨List.mem_cons_self, List.forall_mem_cons.mpr ⟨keyLt_irrefl _, fun x hx => keyLt_false_trans _ _ _ (hmin x hx) hlt⟩⟩

theorem mem_insertBy (a x : A) (l : List A) : x ∈ insertBy key a l ↔ x = a ∨ x ∈ l := by
  induction l with
  | nil => simp [insertBy]
  | cons b l ih =>
    rw [insertBy]
    split
    · simp
    · simp [ih, or_left_comm]

theorem mem_sortBy (x : A) (l : List A) : x ∈ sortBy key l ↔ x ∈ l := by
  have hfold : ∀ acc : List A, x ∈ l.foldl (fun acc a => insertBy key a acc) acc ↔ x ∈ acc ∨ x ∈ l := by
    induction l with
    | nil => simp
    | cons a l ih => intro acc; simp [ih, mem_insertBy, or_assoc, or_left_comm]
  simpa [sortBy] using hfold []

end

end Sys2Proof.Machine
end

section
/-! SUPPORT. Frames in flight: how a frame, a pass and a tile are found again after a change, and what the changes leave of the record
of retired tiles (R25 to R31, R57). -/

namespace Sys2Proof.Machine

/-! ## Finding again what was changed -/

theorem State.frameAt_updFrame (s : State) (slot : Nat) (f : Frame → Frame) (hf : ∀ x, (f x).slot = x.slot) :
    (s.updFrame slot f).frameAt slot = (s.frameAt slot).map f := by
  have hkey : (fun x : Frame => x.slot == slot) ∘ (fun x => if x.slot = slot then f x else x) = fun x => x.slot == slot := by
    funext x
    simp only [Function.comp_apply]
    split <;> simp [hf]
  simp only [State.frameAt, State.updFrame, List.find?_map, hkey]
  refine Option.map_congr fun x hx => if_pos ?_
  simpa using List.find?_some hx

theorem State.passAt_updPass (s : State) (slot pass : Nat) (f : Pass → Pass) :
    (s.updPass slot pass f).passAt slot pass = (s.passAt slot pass).map f := by
  rw [State.passAt, State.updPass, State.frameAt_updFrame _ _ _ (by exact fun _ => rfl)]
  rw [Option.bind_map, State.passAt, Option.map_bind]
  exact congrArg _ (funext fun x => List.getElem?_modify_eq ..)

/-- A change of a tile is a change of its pass. -/
theorem State.updTile_eq_updPass (s : State) (t : TileRef) (f : Tile → Tile) :
    s.updTile t f = s.updPass t.slot t.pass fun p => { p with tiles := p.tiles.modify t.tile f } := rfl

theorem State.passAt_updTile (s : State) (t : TileRef) (g : Tile → Tile) : (s.updTile t g).passAt t.slot t.pass =
    (s.passAt t.slot t.pass).map fun p => { p with tiles := p.tiles.modify t.tile g } := by
  rw [State.updTile_eq_updPass, State.passAt_updPass]

theorem State.tileAt_updTile (s : State) (t : TileRef) (f : Tile → Tile) : (s.updTile t f).tileAt t = (s.tileAt t).map f := by
  rw [State.tileAt, State.passAt_updTile, Option.bind_map, State.tileAt, Option.map_bind]
  exact congrArg _ (funext fun p => List.getElem?_modify_eq ..)

theorem State.tileAt_updPass (s : State) (t : TileRef) (f : Pass → Pass) (hf : ∀ p, (f p).tiles = p.tiles) :
    (s.updPass t.slot t.pass f).tileAt t = s.tileAt t := by
  rw [State.tileAt, State.passAt_updPass]
  rw [Option.bind_map, State.tileAt]
  exact congrArg _ (funext fun p => by simp only [Function.comp_apply, hf])

theorem State.passAt_eq_some_iff (s : State) (slot pass : Nat) (p : Pass) :
    s.passAt slot pass = some p ↔ ∃ f, s.frameAt slot = some f ∧ f.passes[pass]? = some p := by
  simp [State.passAt, Option.bind_eq_some_iff]

theorem State.tileAt_eq_some_iff (s : State) (t : TileRef) (x : Tile) :
    s.tileAt t = some x ↔ ∃ p, s.passAt t.slot t.pass = some p ∧ p.tiles[t.tile]? = some x := by
  simp [State.tileAt, Option.bind_eq_some_iff]

/-- Passes and tiles are found by the frames alone. -/
theorem State.frameAt_congr {s t : State} (h : t.frames = s.frames) (slot : Nat) : t.frameAt slot = s.frameAt slot := by
  rw [State.frameAt, State.frameAt, h]

theorem State.passAt_congr {s t : State} (h : t.frames = s.frames) (slot pass : Nat) : t.passAt slot pass = s.passAt slot pass := by
  rw [State.passAt, State.passAt, State.frameAt_congr h]

theorem State.tileAt_congr {s t : State} (h : t.frames = s.frames) (r : TileRef) : t.tileAt r = s.tileAt r := by
  rw [State.tileAt, State.tileAt, State.passAt_congr h]

/-! ## The record of retired tiles -/

/-- How many tiles a pass counts as retired, and which tiles have retired. -/
def Pass.retirement (p : Pass) : Nat × List Bool := (p.retired, p.tiles.map fun x => x.state == .retired)

/-- The same of every pass of a frame. -/
def Frame.retirements (f : Frame) : List (Nat × List Bool) := f.passes.map Pass.retirement

/-- The same of every frame in flight, by slot. -/
def State.retirements (s : State) : List (Nat × List (Nat × List Bool)) := s.frames.map fun f => (f.slot, f.retirements)

/-- A fold that keeps a reading at each step keeps it. -/
theorem foldl_keeps {A S B : Type} (π : S → B) (l : List A) (f : S → A → S) (s : S) (h : ∀ u a, π (f u a) = π u) :
    π (l.foldl f s) = π s := by
  induction l generalizing s with
  | nil => rfl
  | cons a l ih => rw [List.foldl_cons, ih, h]

/-- A change of one element that a reading does not see leaves the readings of the list. -/
theorem map_modify_of_keeps {A B : Type} (π : A → B) (f : A → A) (h : ∀ a, π (f a) = π a) (l : List A) (i : Nat) :
    (l.modify i f).map π = l.map π := by
  refine List.ext_getElem? fun k => ?_
  simp only [List.getElem?_map, List.getElem?_modify]
  split <;> cases l[k]? <;> simp [h]

theorem Frame.retirements_modify (f : Frame) (i : Nat) (g : Pass → Pass) (hg : ∀ p, (g p).retirement = p.retirement) :
    Frame.retirements { f with passes := f.passes.modify i g } = f.retirements :=
  map_modify_of_keeps _ _ hg _ _

theorem State.retirements_updFrame (s : State) (slot : Nat) (f : Frame → Frame) (hs : ∀ x, (f x).slot = x.slot)
    (hf : ∀ x, (f x).retirements = x.retirements) : (s.updFrame slot f).retirements = s.retirements := by
  simp only [State.retirements, State.updFrame, List.map_map]
  refine List.map_congr_left fun x _ => ?_
  simp only [Function.comp_apply]
  split <;> simp [hs, hf]

/-- The record of a pass is read from the records of the frames. -/
theorem State.retirement_passAt (s : State) (slot pass : Nat) :
    (s.passAt slot pass).map Pass.retirement = (s.retirements.find? fun x => x.1 == slot).bind fun x => x.2[pass]? := by
  rw [State.passAt, State.frameAt, State.retirements, List.find?_map, Option.map_bind, Option.bind_map]
  exact congrArg _ (funext fun f => by simp only [Function.comp_apply, Frame.retirements, List.getElem?_map])

theorem State.retirement_passAt_congr {s t : State} (h : t.retirements = s.retirements) (slot pass : Nat) :
    (t.passAt slot pass).map Pass.retirement = (s.passAt slot pass).map Pass.retirement := by
  rw [State.retirement_passAt, h, ← State.retirement_passAt]

theorem State.retired_tileAt (s : State) (t : TileRef) :
    (s.tileAt t).map (fun x => x.state == .retired) = ((s.passAt t.slot t.pass).map Pass.retirement).bind fun r => r.2[t.tile]? := by
  rw [State.tileAt, Option.map_bind, Option.bind_map]
  exact congrArg _ (funext fun p => by simp only [Function.comp_apply, Pass.retirement, List.getElem?_map])

/-! ## A promise that lapses -/

theorem Frame.lapsed_retirements (f : Frame) (g : Nat × Pass → Pass) (hg : ∀ i p, (g (i, p)).retirement = p.retirement) :
    (((List.range f.passes.length).zip f.passes).map g).map Pass.retirement = f.retirements := by
  have hsnd : Pass.retirement ∘ g = Pass.retirement ∘ Prod.snd := funext fun ip => hg ip.1 ip.2
  rw [List.map_map, hsnd, ← List.map_map, List.map_snd_zip (by simp)]
  rfl

@[simp] theorem State.lapse_retirements (s : State) (slot pass : Nat) : (s.lapse slot pass).retirements = s.retirements := by
  refine State.retirements_updFrame s slot _ (fun _ => rfl) fun f => Frame.lapsed_retirements f _ fun i p => ?_
  split
  · rfl
  · split <;> rfl

/-! ## Decrements (R27, R31) -/

theorem Tile.lower_retired (x : Tile) : (x.lower.state == .retired) = (x.state == .retired) := by
  simp only [Tile.lower]
  split
  · next h =>
    simp only [Bool.and_eq_true, decide_eq_true_eq] at h
    rw [h.2]
    rfl
  · rfl

theorem Tile.lower_counter (x : Tile) : x.lower.counter = x.counter - 1 := rfl

theorem Tile.lower_state (x : Tile) : x.lower.state = if x.counter ≤ 1 ∧ x.state = .waiting then .released else x.state := by
  simp [Tile.lower, Nat.sub_eq_zero_iff_le]

theorem Frame.lowerTiles_retirements (f : Frame) (pass : Nat) (cs : List Nat) : (f.lowerTiles pass cs).retirements = f.retirements := by
  refine f.retirements_modify pass _ fun p => Prod.ext rfl ?_
  exact foldl_keeps (List.map fun x : Tile => x.state == .retired) cs _ p.tiles fun ts c => map_modify_of_keeps _ _ Tile.lower_retired ts c

theorem Frame.applyEdge_retirements (f : Frame) (st tile edge : Nat) (e : Edge) : (f.applyEdge st tile edge e).retirements = f.retirements := by
  have hedges : ∀ l, Frame.retirements { f with passes := f.passes.modify e.cons fun p => { p with edgeCounters := l } } = f.retirements :=
    fun l => f.retirements_modify _ _ fun _ => rfl
  unfold Frame.applyEdge
  dsimp only
  split
  · split
    · rfl
    · split
      · rw [Frame.lowerTiles_retirements, hedges]
      · exact hedges _
  · exact Frame.lowerTiles_retirements _ _ _

theorem Frame.applyEdge_slot (f : Frame) (st tile edge : Nat) (e : Edge) : (f.applyEdge st tile edge e).slot = f.slot := by
  unfold Frame.applyEdge
  dsimp only
  split
  · split
    · rfl
    · split <;> rfl
  · rfl

theorem Frame.lowerAll_retirements (f : Frame) (st pass tile : Nat) : (f.lowerAll st pass tile).retirements = f.retirements := by
  refine foldl_keeps Frame.retirements _ _ f fun g ie => ?_
  split
  · exact Frame.applyEdge_retirements _ _ _ _ _
  · rfl

theorem Frame.lowerAll_slot (f : Frame) (st pass tile : Nat) : (f.lowerAll st pass tile).slot = f.slot := by
  refine foldl_keeps Frame.slot _ _ f fun g ie => ?_
  split
  · exact Frame.applyEdge_slot _ _ _ _ _
  · rfl

/-- Decrements change frames and rings alone. -/
theorem State.decrementOn_eq (s : State) (st : Nat) (t : TileRef) (n : Nat) :
    s.decrementOn st t n = { s with frames := (s.decrementOn st t n).frames, rings := (s.decrementOn st t n).rings } := by
  unfold State.decrementOn
  split <;> rfl

@[simp] theorem State.decrementOn_retirements (s : State) (st : Nat) (t : TileRef) (n : Nat) :
    (s.decrementOn st t n).retirements = s.retirements := by
  unfold State.decrementOn
  split
  · rfl
  · exact State.retirements_updFrame s _ _ (fun x => x.lowerAll_slot _ _ _) fun x => x.lowerAll_retirements _ _ _

end Sys2Proof.Machine
end

section
/-! SUPPORT. The writes of units and what they roll back leave the frames in flight as they were (R348, R358, R359, R369). -/

namespace Sys2Proof.Machine

/-- A launcher that takes a freed entry changes groups, launches and the count of operations alone (R62). -/
theorem State.wakeLauncher_eq (s : State) (st : Nat) : s.wakeLauncher st =
    { s with groups := (s.wakeLauncher st).groups, launches := (s.wakeLauncher st).launches, idCount := (s.wakeLauncher st).idCount } := by
  unfold State.wakeLauncher
  dsimp only
  split
  · rfl
  · split <;> rfl

@[simp] theorem State.wakeLauncher_frames (s : State) (st : Nat) : (s.wakeLauncher st).frames = s.frames := by rw [State.wakeLauncher_eq]

@[simp] theorem State.freeLaunches_frames (s : State) (gone : LaunchEntry → Bool) : (s.freeLaunches gone).frames = s.frames :=
  foldl_keeps State.frames _ _ _ fun u e => u.wakeLauncher_frames e.stack

@[simp] theorem State.rollback_frames (s : State) (gid gang : Nat) : (s.rollback gid gang).frames = s.frames := by
  unfold State.rollback
  split
  · rfl
  · split
    · rfl
    · split
      · rfl
      · exact State.freeLaunches_frames _ _

@[simp] theorem State.conflict_frames (s : State) (agent : Option (Nat × Nat)) (pa n : Nat) (w : Bool) :
    (s.conflict agent pa n w).frames = s.frames := by
  refine foldl_keeps State.frames _ _ s fun u g => foldl_keeps State.frames _ _ u fun v h => ?_
  split
  · rfl
  · split
    · exact State.rollback_frames _ _ _
    · rfl

@[simp] theorem State.wakeArray_frames (s : State) (a : GatedArray) : (s.wakeArray a).frames = s.frames := by
  unfold State.wakeArray
  split <;> rfl

@[simp] theorem State.touchBanks_frames (s : State) (pa n : Nat) : (s.touchBanks pa n).frames = s.frames := by
  unfold State.touchBanks
  split
  · rfl
  · exact foldl_keeps State.frames _ _ _ State.wakeArray_frames

@[simp] theorem State.touchWalk_frames (s : State) (va : Nat) : (s.touchWalk va).frames = s.frames := by
  unfold State.touchWalk
  split
  · rfl
  · exact foldl_keeps State.frames _ _ _ fun u pa => u.touchBanks_frames pa 8

@[simp] theorem State.noteWalk_frames (s : State) (w : Who) (va : Nat) : (s.noteWalk w va).frames = s.frames := by
  unfold State.noteWalk
  dsimp only
  split
  · rfl
  · split
    · exact State.touchWalk_frames s va
    · exact State.touchWalk_frames s va

@[simp] theorem State.poke_frames (s : State) (agent : Option (Nat × Nat)) (pa : Nat) (bs : List Byte) :
    (s.poke agent pa bs).frames = s.frames := s.conflict_frames agent pa bs.length true

@[simp] theorem State.recall_frames (s : State) (pa n : Nat) : (s.recall pa n).frames = s.frames := s.touchBanks_frames pa n

@[simp] theorem State.writePhys_frames (s : State) (agent : Option (Nat × Nat)) (pa : Nat) (bs : List Byte) :
    (s.writePhys agent pa bs).frames = s.frames := by
  unfold State.writePhys
  split
  · rfl
  · rw [State.poke_frames]
    split <;> simp

/-! ## What a record-pass tile writes as it retires -/

theorem State.unitWrite_frames {s u : State} {w : Who} {va : Nat} {bs : List Byte} (h : s.unitWrite w va bs = .ok u) : u.frames = s.frames := by
  unfold State.unitWrite at h
  split at h
  · cases h
  · cases h
    simp

theorem State.writePixels_frames {w : Who} {n : Nat} {ps : List ((Nat × Nat) × Pixel)} {s u : State} (h : s.writePixels w n ps = .ok u) :
    u.frames = s.frames := by
  induction ps generalizing s with
  | nil => cases h; rfl
  | cons p ps ih =>
    rw [State.writePixels] at h
    split at h
    · cases h
    · next s1 hcolour =>
      rw [← State.unitWrite_frames hcolour]
      split at h
      · exact ih h
      · split at h
        · cases h
        · next s2 hdepth => rw [← State.unitWrite_frames hdepth, ih h]

theorem State.flushBlenders_frames {p : Pass} {ns : List Nat} {s u : State} {r r' : RecTile} (h : s.flushBlenders r p ns = .ok (u, r')) :
    u.frames = s.frames := by
  induction ns generalizing s r with
  | nil => cases h; rfl
  | cons n ns ih =>
    rw [State.flushBlenders] at h
    dsimp only at h
    split at h
    · exact ih h
    · split at h
      · cases h
      · next s1 hpixels => rw [← State.writePixels_frames hpixels, ih h]

theorem State.commitStats_frames {w : Who} {addr : Nat} {l : List (Nat × Nat)} {s u : State} (h : s.commitStats w addr l = .ok u) :
    u.frames = s.frames := by
  induction l generalizing s with
  | nil => cases h; rfl
  | cons kn l ih =>
    rw [State.commitStats] at h
    split at h
    · cases h
    · rw [ih h]
      split <;> simp

theorem State.finishRecTile_frames {s u : State} {r : RecTile} {p : Pass} (h : s.finishRecTile r p = .ok u) : u.frames = s.frames := by
  unfold State.finishRecTile at h
  split at h
  · cases h
  · next s1 r1 hflush =>
    rw [← State.flushBlenders_frames hflush]
    split at h
    · cases h; rfl
    · exact State.commitStats_frames h

end Sys2Proof.Machine
end

section
/-! SUPPORT. Retirement: what each part of it changes, and the completion record (R27, R54, R56, R409 to R413). -/

namespace Sys2Proof.Machine

open Sys2Proof.Bits

/-! ## The parts of a retirement -/

/-- Sending decrements changes frames, rings, the decrements on their way and a free value alone (R410, R411). -/
theorem State.sendDecrements_eq (s : State) (f : Frame) (t : TileRef) (st : Nat) : s.sendDecrements f t st =
    { s with frames := (s.sendDecrements f t st).frames, rings := (s.sendDecrements f t st).rings,
             free := (s.sendDecrements f t st).free, decrements := (s.sendDecrements f t st).decrements } := by
  unfold State.sendDecrements
  dsimp only
  split <;> rw [State.decrementOn_eq]

@[simp] theorem State.sendDecrements_retirements (s : State) (f : Frame) (t : TileRef) (st : Nat) :
    (s.sendDecrements f t st).retirements = s.retirements := by
  unfold State.sendDecrements
  dsimp only
  split <;> exact State.decrementOn_retirements _ _ _ _

theorem State.flushDecrements_eq (s : State) (serial : Nat) : s.flushDecrements serial =
    { s with frames := (s.flushDecrements serial).frames, rings := (s.flushDecrements serial).rings,
             decrements := (s.flushDecrements serial).decrements } := by
  have hrest := foldl_keeps (fun u : State => { u with frames := [], rings := [] }) (s.decrements.filter fun d => d.frame == serial)
    (fun u d => u.decrementOn d.stack d.tref d.frame) s fun u d => by rw [State.decrementOn_eq]
  exact congrArg (fun u : State => { u with frames := (s.flushDecrements serial).frames, rings := (s.flushDecrements serial).rings,
                                            decrements := (s.flushDecrements serial).decrements }) hrest

theorem State.endFrame_eq (s : State) (f : Frame) : s.endFrame f =
    { s with frames := (s.endFrame f).frames, rings := (s.endFrame f).rings, reserved := (s.endFrame f).reserved,
             decrements := (s.endFrame f).decrements } := by
  unfold State.endFrame
  dsimp only
  rw [State.flushDecrements_eq]

/-! ## The completion record (R413) -/

theorem completionRecord_length (f : Frame) (i : Nat) (p : Pass) (now : Nat) (own above byteOver last : Bool) :
    (completionRecord f i p now own above byteOver last).length = 32 := toBytes_length _ _

/-- Bit 0 of byte 0 is set: the record is valid. -/
theorem completionRecord_valid (f : Frame) (i : Nat) (p : Pass) (now : Nat) (own above byteOver last : Bool) :
    ((completionRecord f i p now own above byteOver last).headD 0).getLsbD 0 = true := by
  simp only [completionRecord, toBytes, List.headD_cons, bitAt, BitVec.getLsbD_ofNat, Nat.testBit_zero, Bool.and_eq_true, decide_eq_true_eq]
  omega

/-- What a completed pass leaves once its bytes are measured: its record and its mark, and its frame ends with the last pass (R50, R56, R413). -/
def State.recordPass (s : State) (slot pass : Nat) (f : Frame) (p : Pass) (past : Bool) : State :=
  let last := ((List.range f.passes.length).zip f.passes).all fun ip => ip.1 == pass || ip.2.complete
  let b := completionRecord f pass p s.nstime (s.lapsedSelf f pass) (s.lapsedAbove f pass) past last
  let s2 := { s.updPass slot pass (fun x => { x with complete := true }) with
    reserved := s.reserved.filter (fun r => !(r.frame == f.serial && r.pass == pass && decide (s.nstime / 50000 < r.quantum))),
    ev := { s.ev with waiting := s.ev.waiting ++ [b] } }
  if last then s2.endFrame f else s2

/-- A pass that completes changes frames, rings, reservations and decrements, and leaves a record of 32 bytes for the event ring. -/
def State.Completed (s t : State) : Prop :=
  ∃ b : List Byte, t = { s with frames := t.frames, rings := t.rings, reserved := t.reserved, decrements := t.decrements,
                                ev := { s.ev with waiting := s.ev.waiting ++ [b] } } ∧ b.length = 32 ∧ (b.headD 0).getLsbD 0 = true

theorem State.recordPass_completed (s : State) (slot pass : Nat) (f : Frame) (p : Pass) (past : Bool) :
    s.Completed (s.recordPass slot pass f p past) := by
  refine ⟨_, ?_, completionRecord_length f pass p s.nstime (s.lapsedSelf f pass) (s.lapsedAbove f pass) past
    (((List.range f.passes.length).zip f.passes).all fun ip => ip.1 == pass || ip.2.complete), completionRecord_valid f pass p _ _ _ past _⟩
  unfold State.recordPass
  dsimp only
  split
  · rw [State.endFrame_eq]
    rfl
  · rfl

theorem State.passAt_lapse {s : State} {slot pass : Nat} {p : Pass} (hp : s.passAt slot pass = some p) :
    ∃ q, (s.lapse slot pass).passAt slot pass = some q := by
  have hret := State.retirement_passAt_congr (s.lapse_retirements slot pass) slot pass
  rw [hp, Option.map_some, Option.map_eq_some_iff] at hret
  exact hret.imp fun _ h => h.1

/-- A pass in flight that completes leaves its record (R50, R413). -/
theorem State.completePass_completed {s : State} {slot pass : Nat} {p : Pass} (hp : s.passAt slot pass = some p) :
    s.Completed (s.completePass slot pass) := by
  obtain ⟨f, hf, -⟩ := (s.passAt_eq_some_iff slot pass p).mp hp
  unfold State.completePass
  simp only [hf, hp]
  cases decide (p.rcd.gbytes < Config.passBytes f.serial pass) with
  | false =>
    simp only [Bool.false_eq_true, if_false, hf, hp]
    exact s.recordPass_completed slot pass f p false
  | true =>
    obtain ⟨q, hq⟩ := State.passAt_lapse hp
    obtain ⟨g, hg, -⟩ := (State.passAt_eq_some_iff _ slot pass q).mp hq
    simp only [if_true, hg, hq]
    exact (s.lapse slot pass).recordPass_completed slot pass g q true

/-! ## The retirement of a tile (R27, R31, R410) -/

/-- The state in which a tile that retires late has let its pass's promise lapse (R57). -/
def State.lapseLate (s : State) (t : TileRef) (p : Pass) (x : Tile) : State :=
  if p.rcd.budget < s.tileMeter t && !x.overrun then s.lapse t.slot t.pass else s

theorem State.lapseLate_retirements (s : State) (t : TileRef) (p : Pass) (x : Tile) : (s.lapseLate t p x).retirements = s.retirements := by
  unfold State.lapseLate
  split <;> simp

theorem State.lapseLate_eq (s : State) (t : TileRef) (p : Pass) (x : Tile) :
    s.lapseLate t p x = { s with frames := (s.lapseLate t p x).frames } := by
  unfold State.lapseLate
  split <;> rfl

/-- The state in which the pass counts a tile too. -/
def State.tileCounted (s : State) (t : TileRef) (p : Pass) (x : Tile) : State :=
  (s.lapseLate t p x).updPass t.slot t.pass fun p => p.addTile x (s.tileGroups t) (s.tileMeter t)

/-- The state in which a tile has retired and its groups are gone, before its decrements are sent. -/
def State.tileRetired (s : State) (t : TileRef) (f : Frame) (p : Pass) (x : Tile) : State :=
  { (s.tileCounted t p x).updTile t fun x => { x with state := .retired } with
    groups := s.groups.filter (fun g => g.tref != t),
    recTiles := s.recTiles.filter (fun r => r.tref != t),
    rings := s.rings.map fun (r : Ring) => if r.frame = f.serial && r.prod = t.pass then r.retire t.tile else r }

theorem State.retireTile_eq {s : State} {t : TileRef} {f : Frame} {p : Pass} {x : Tile} (hf : s.frameAt t.slot = some f)
    (hp : s.passAt t.slot t.pass = some p) (hx : s.tileAt t = some x) :
    s.retireTile t =
      let u := (s.tileRetired t f p x).sendDecrements f t (p.rcd.stackOf t.tile)
      if p.retired + 1 = p.rcd.tiles then u.completePass t.slot t.pass else u := by
  have hlate : (if p.rcd.budget < s.tileMeter t && !x.overrun then s.lapse t.slot t.pass else s) = s.lapseLate t p x := rfl
  unfold State.retireTile
  simp only [hf, hp, hx, hlate]
  rw [State.tileRetired, State.tileCounted, State.lapseLate_eq]
  rfl

theorem State.tileRetired_eq (s : State) (t : TileRef) (f : Frame) (p : Pass) (x : Tile) : s.tileRetired t f p x =
    { s with frames := (s.tileRetired t f p x).frames, rings := (s.tileRetired t f p x).rings,
             groups := s.groups.filter (fun g => g.tref != t), recTiles := s.recTiles.filter (fun r => r.tref != t) } := by
  rw [State.tileRetired, State.tileCounted, State.lapseLate_eq]
  rfl

end Sys2Proof.Machine
end

section
/-! SUPPORT. Retirement of a tile, decrements that arrive, and O49 (R27, R28, R31, R348, R409 to R413). -/

namespace Sys2Proof.Machine

theorem ne_of_mem_filter_bne {A B : Type} [BEq B] [LawfulBEq B] {f : A → B} {b : B} {l : List A} {a : A}
    (h : a ∈ l.filter fun x => f x != b) : f a ≠ b :=
  bne_iff_ne.mp (List.mem_filter.mp h).2

/-! ## What the retirement of a tile leaves -/

section
variable {s : State} {t : TileRef} {f : Frame} {p : Pass} {x : Tile}

/-- The pass counts the tile, and the tile has retired. -/
theorem State.tileRetired_counts (hp : s.passAt t.slot t.pass = some p) (hx : s.tileAt t = some x) :
    ((s.tileRetired t f p x).passAt t.slot t.pass).map (fun q => q.retired) = some (p.retired + 1) ∧
      ((s.tileRetired t f p x).tileAt t).map (fun y => y.state) = some .retired := by
  have hpass := State.retirement_passAt_congr (s.lapseLate_retirements t p x) t.slot t.pass
  have htile : ((s.lapseLate t p x).tileAt t).map (fun y => y.state == .retired) = (s.tileAt t).map fun y => y.state == .retired := by
    rw [State.retired_tileAt, hpass, ← State.retired_tileAt]
  rw [hp, Option.map_some, Option.map_eq_some_iff] at hpass
  rw [hx, Option.map_some, Option.map_eq_some_iff] at htile
  obtain ⟨q, hq, hqp⟩ := hpass
  obtain ⟨y, hy, -⟩ := htile
  have hframes : (s.tileRetired t f p x).frames = ((s.tileCounted t p x).updTile t fun x => { x with state := .retired }).frames := rfl
  constructor
  · rw [State.passAt_congr hframes, State.passAt_updTile, State.tileCounted, State.passAt_updPass, hq]
    exact congrArg (fun n => some (n + 1)) (congrArg Prod.fst hqp)
  · have hcounted : (s.tileCounted t p x).tileAt t = (s.lapseLate t p x).tileAt t := State.tileAt_updPass _ t _ fun _ => rfl
    rw [State.tileAt_congr hframes, State.tileAt_updTile, hcounted, hy]
    rfl

/-- Sending decrements keeps both. -/
theorem State.sendDecrements_counts (s : State) (f : Frame) (t : TileRef) (st : Nat) :
    ((s.sendDecrements f t st).passAt t.slot t.pass).map (fun q => q.retired) = (s.passAt t.slot t.pass).map (fun q => q.retired) ∧
      (((s.sendDecrements f t st).tileAt t).map (fun y => y.state) = some .retired ↔ (s.tileAt t).map (fun y => y.state) = some .retired) := by
  have hpass := State.retirement_passAt_congr (s.sendDecrements_retirements f t st) t.slot t.pass
  have hstate : ∀ o : Option Tile, o.map (fun y => y.state) = some .retired ↔ o.map (fun y => y.state == .retired) = some true := by
    intro o
    cases o <;> simp
  constructor
  · simpa [Function.comp_def, Pass.retirement] using congrArg (Option.map Prod.fst) hpass
  · rw [hstate, hstate, State.retired_tileAt, hpass, ← State.retired_tileAt]

/-- A retirement whose pass goes on, and one with which its pass completes. -/
theorem State.retireTile_cases (hf : s.frameAt t.slot = some f) (hp : s.passAt t.slot t.pass = some p) (hx : s.tileAt t = some x) :
    (p.retired + 1 ≠ p.rcd.tiles ∧ s.retireTile t = (s.tileRetired t f p x).sendDecrements f t (p.rcd.stackOf t.tile)) ∨
      (p.retired + 1 = p.rcd.tiles ∧ ((s.tileRetired t f p x).sendDecrements f t (p.rcd.stackOf t.tile)).Completed (s.retireTile t)) := by
  rw [State.retireTile_eq hf hp hx]
  by_cases hlast : p.retired + 1 = p.rcd.tiles
  · refine .inr ⟨hlast, ?_⟩
    obtain ⟨q, hq, -⟩ := Option.map_eq_some_iff.mp
      ((State.sendDecrements_counts _ f t (p.rcd.stackOf t.tile)).1.trans (State.tileRetired_counts (f := f) hp hx).1)
    simp only [hlast, if_true]
    exact State.completePass_completed hq
  · exact .inl ⟨hlast, by simp only [hlast, if_false]⟩

theorem State.retireTile_leaves (hf : s.frameAt t.slot = some f) (hp : s.passAt t.slot t.pass = some p) (hx : s.tileAt t = some x) :
    (s.retireTile t).mem = s.mem ∧ (s.retireTile t).cores = s.cores ∧
      (s.retireTile t).groups = s.groups.filter (fun g => g.tref != t) ∧
      (s.retireTile t).recTiles = s.recTiles.filter (fun r => r.tref != t) := by
  have hsent : ∀ st, let u := (s.tileRetired t f p x).sendDecrements f t st
      u.mem = s.mem ∧ u.cores = s.cores ∧ u.groups = s.groups.filter (fun g => g.tref != t) ∧
        u.recTiles = s.recTiles.filter (fun r => r.tref != t) := by
    intro st
    dsimp only
    rw [State.sendDecrements_eq, State.tileRetired_eq]
    exact ⟨rfl, rfl, rfl, rfl⟩
  obtain ⟨-, heq⟩ | ⟨-, b, heq, -⟩ := State.retireTile_cases hf hp hx
  · rw [heq]
    exact hsent _
  · rw [heq]
    exact hsent _

end

/-- A tile that may retire is a tile in flight. -/
theorem State.tileAt_of_retirable {s : State} {t : TileRef} (h : s.retirable t = true) : ∃ x, s.tileAt t = some x := by
  unfold State.retirable at h
  split at h
  · next x _ hx => exact ⟨x, hx⟩
  · cases h

/-! ## TILE_RETIRE -/

theorem execTileRetire_plain {s : State} {slot pass tile : Nat} (h : s.retirable ⟨slot, pass, tile⟩ = true)
    (hr : s.recTile? ⟨slot, pass, tile⟩ = none) : execTileRetire slot pass tile s = .next (s.retireTile ⟨slot, pass, tile⟩) := by
  simp [execTileRetire, h, hr]

section
variable {s : State} {slot pass tile : Nat} {r : RecTile} {p : Pass} (h : s.retirable ⟨slot, pass, tile⟩ = true)
  (hr : s.recTile? ⟨slot, pass, tile⟩ = some r) (hp : s.passAt slot pass = some p)
include h hr hp

theorem execTileRetire_fault {e : Nat × Nat × Nat × Nat} (he : s.finishRecTile r p = .error e) :
    execTileRetire slot pass tile s = .next (s.unitFault ⟨slot, pass, tile⟩ e) := by
  simp [execTileRetire, h, hr, hp, he]

theorem execTileRetire_written {u : State} (hu : s.finishRecTile r p = .ok u) :
    execTileRetire slot pass tile s = .next (u.retireTile ⟨slot, pass, tile⟩) := by
  simp [execTileRetire, h, hr, hp, hu]

end

theorem State.unitFault_mem (s : State) (t : TileRef) (e : Nat × Nat × Nat × Nat) : (s.unitFault t e).mem = s.mem :=
  s.killRecTile_mem t

theorem State.unitFault_handle (s : State) (t : TileRef) (e : Nat × Nat × Nat × Nat) :
    (s.unitFault t e).handleCount = s.newHandle ∧ ⟨s.newHandle, 1, t, 0, false⟩ ∈ (s.unitFault t e).handles :=
  ⟨rfl, List.mem_append_right _ (List.mem_singleton_self _)⟩

/-! ## Decrements that have arrived -/

/-- The order in which a graph unit applies decrements: by cycle, by pass, by tile (R28). -/
theorem decrementKey_le (d e : Decrement)
    (h : keyLt [e.due / 625, e.tref.pass, e.tref.tile] [d.due / 625, d.tref.pass, d.tref.tile] = false) :
    d.due / 625 ≤ e.due / 625 ∧ (e.due / 625 = d.due / 625 →
      d.tref.pass < e.tref.pass ∨ (d.tref.pass = e.tref.pass ∧ d.tref.tile ≤ e.tref.tile)) := by
  simp only [keyLt_cons_false_iff] at h
  omega

theorem State.nextDecrement_spec {s : State} {st : StackId} {d : Decrement} (h : s.nextDecrement st = some d) :
    d ∈ s.decrements ∧ d.stack = st.val ∧ d.due ≤ s.time ∧ ∀ e ∈ s.decrements, e.stack = st.val → e.due ≤ s.time →
      keyLt [e.due / 625, e.tref.pass, e.tref.tile] [d.due / 625, d.tref.pass, d.tref.tile] = false := by
  unfold State.nextDecrement at h
  split at h
  · cases h
  · obtain ⟨hmem, hmin⟩ := leastBy_spec _ _ _ h
    simp only [List.mem_filter, Bool.and_eq_true, beq_iff_eq, decide_eq_true_eq] at hmem hmin
    exact ⟨hmem.1, hmem.2.1, hmem.2.2, fun e he hst hdue => hmin e ⟨he, hst, hdue⟩⟩

theorem State.nextDecrement_isSome {s : State} {st : StackId} (hl : s.loads 0 (64 * st.val) = false)
    (h : ∃ d ∈ s.decrements, d.stack = st.val ∧ d.due ≤ s.time) : ∃ d, s.nextDecrement st = some d := by
  obtain ⟨d, hd, hst, hdue⟩ := h
  rw [← Option.ne_none_iff_exists', State.nextDecrement, if_neg (by simp [hl]), Ne, leastBy_eq_none_iff]
  exact List.ne_nil_of_mem (List.mem_filter.mpr ⟨hd, by simp [hst, hdue]⟩)

/-! ## The statement -/

theorem tileRetire_plain_results {s : State} {slot pass tile : Nat} {p : Pass} {f : Frame} (h : s.retirable ⟨slot, pass, tile⟩ = true)
    (hf : s.frameAt slot = some f) (hp : s.passAt slot pass = some p) :
    let tr : TileRef := ⟨slot, pass, tile⟩
    let t := s.retireTile tr
    t.mem = s.mem ∧ t.cores = s.cores ∧ (∀ g ∈ t.groups, g.tref ≠ tr) ∧ (∀ g ∈ s.groups, g.tref ≠ tr → g ∈ t.groups) ∧
      (p.retired + 1 ≠ p.rcd.tiles → t.ev = s.ev ∧ (t.passAt slot pass).map (fun q => q.retired) = some (p.retired + 1) ∧
        (t.tileAt tr).map (fun x => x.state) = some .retired) ∧
      (p.retired + 1 = p.rcd.tiles →
        ∃ b, t.ev = { s.ev with waiting := s.ev.waiting ++ [b] } ∧ b.length = 32 ∧ (b.headD 0).getLsbD 0 = true) := by
  intro tr t
  obtain ⟨x, hx⟩ := State.tileAt_of_retirable h
  obtain ⟨hmem, hcores, hgroups, -⟩ := State.retireTile_leaves (t := tr) hf hp hx
  have hev : ∀ st, ((s.tileRetired tr f p x).sendDecrements f tr st).ev = s.ev := fun st => by
    rw [State.sendDecrements_eq, State.tileRetired_eq]
  refine ⟨hmem, hcores, fun g hg => ?_, fun g hg hne => ?_, fun hmore => ?_, fun hlast => ?_⟩
  · exact ne_of_mem_filter_bne (hgroups ▸ hg)
  · exact hgroups ▸ List.mem_filter.mpr ⟨hg, bne_iff_ne.mpr hne⟩
  · obtain ⟨-, heq⟩ | ⟨hlast, -⟩ := State.retireTile_cases (t := tr) hf hp hx
    · obtain ⟨hcount, hretired⟩ := State.tileRetired_counts (t := tr) (f := f) hp hx
      obtain ⟨hpass, htile⟩ := State.sendDecrements_counts (s.tileRetired tr f p x) f tr (p.rcd.stackOf tile)
      have heq' : t = (s.tileRetired tr f p x).sendDecrements f tr (p.rcd.stackOf tile) := heq
      exact heq' ▸ ⟨hev _, hpass.trans hcount, htile.mpr hretired⟩
    · exact absurd hlast hmore
  · obtain ⟨hmore, -⟩ | ⟨-, b, heq, hlen, hvalid⟩ := State.retireTile_cases (t := tr) hf hp hx
    · exact absurd hlast hmore
    · refine ⟨b, ?_, hlen, hvalid⟩
      have := congrArg State.ev heq
      rwa [hev] at this

theorem tileRetire_record_results {s u : State} {slot pass tile : Nat} {r : RecTile} {p : Pass} (h : s.retirable ⟨slot, pass, tile⟩ = true)
    (hp : s.passAt slot pass = some p) (hu : s.finishRecTile r p = .ok u) :
    let tr : TileRef := ⟨slot, pass, tile⟩
    (u.retireTile tr).mem = u.mem ∧ (∀ g ∈ (u.retireTile tr).groups, g.tref ≠ tr) ∧ ∀ x ∈ (u.retireTile tr).recTiles, x.tref ≠ tr := by
  intro tr
  obtain ⟨x, hx⟩ := State.tileAt_of_retirable h
  obtain ⟨f, hf, -⟩ := (s.passAt_eq_some_iff slot pass p).mp hp
  have hframes := State.finishRecTile_frames hu
  rw [← State.tileAt_congr hframes] at hx
  rw [← State.passAt_congr hframes] at hp
  rw [← State.frameAt_congr hframes] at hf
  obtain ⟨hmem, -, hgroups, hrecs⟩ := State.retireTile_leaves (t := tr) hf hp hx
  refine ⟨hmem, fun g hg => ?_, fun y hy => ?_⟩
  · exact ne_of_mem_filter_bne (hgroups ▸ hg)
  · exact ne_of_mem_filter_bne (hrecs ▸ hy)

/-- Settles O49: a plain tile, a record-pass tile, the decrements that arrive, and a lowered counter. -/
theorem retirementResults : Obligations.RetirementResults := by
  unfold Obligations.RetirementResults
  refine ⟨fun s slot pass tile p f => ?_, fun s slot pass tile r p => ?_, fun s st hl hd => ?_,
    fun x => ⟨x.lower_counter, fun hc hs => ?_, fun hn => ?_⟩⟩
  · intro tr h hf hp hr
    exact ⟨_, execTileRetire_plain h hr, tileRetire_plain_results h hf hp⟩
  · intro tr h hr hp
    refine ⟨fun e he => ?_, fun u hu => ⟨_, execTileRetire_written h hr hp hu, tileRetire_record_results h hp hu⟩⟩
    obtain ⟨hcount, hhandle⟩ := s.unitFault_handle tr e
    exact ⟨_, execTileRetire_fault h hr hp he, hcount, hhandle, s.unitFault_mem tr e⟩
  · obtain ⟨d, hnext⟩ := State.nextDecrement_isSome hl hd
    obtain ⟨hmem, hst, hdue, hmin⟩ := State.nextDecrement_spec hnext
    refine ⟨d, hmem, hst, hdue, fun e he hest hedue => decrementKey_le d e (hmin e he hest hedue), ?_⟩
    show execDecrementArrival st s = _
    rw [execDecrementArrival, hnext, ← hst]
  · rw [x.lower_state, if_pos ⟨hc, hs⟩]
  · rw [x.lower_state, if_neg fun hboth => hn.elim (fun h => absurd hboth.1 (by omega)) fun h => h hboth.2]

end Sys2Proof.Machine
end

section
/-! SUPPORT. What the owner's writes to GXREL and GRESUME do, by what the handle names, and O37 (R31, R37, R46, R348, R393, R404, R441). -/

namespace Sys2Proof.Machine

/-- A write by the owner takes effect (R41). -/
theorem ownerWrite_of_commands {s : State} {m : Master} (h : s.Commands m) (k : State → Out) : ownerWrite m s k = k s := by
  obtain ⟨howner, hsends⟩ := h
  have hroot : (decide (m = 1) && s.cfg.rootComplex) = false := by
    by_cases hm : m = 1
    · simp [hsends hm]
    · simp [hm]
  simp [ownerWrite, asMaster, hroot, howner]

/-! ## GXREL (R37) -/

/-- A ring of an exported transient in the 64 KiB window that a GXREL names (R37). -/
abbrev Ring.ExportedAt (r : Ring) (win : Nat) : Prop := r.exported = true ∧ r.winva.toNat / 65536 = win

/-- A slot without its extra reader (R37). -/
def RingSlot.unexport (sl : RingSlot) : RingSlot := if sl.extra then { sl with readers := sl.readers - 1, extra := false } else sl

/-- A ring whose slots have lost their extra readers, those with no reader left freed (R31, R37). -/
def Ring.unexport (r : Ring) : Ring := { r with held := (r.held.map RingSlot.unexport).filter fun sl => sl.readers != 0 }

theorem RingSlot.unexport_extra (sl : RingSlot) : sl.unexport.extra = false := by
  unfold RingSlot.unexport
  split
  · rfl
  · next h => exact Bool.eq_false_iff.mpr h

theorem Ring.mem_held_unexport {r : Ring} {sl : RingSlot} (h : sl ∈ r.unexport.held) : sl.extra = false ∧ sl.readers ≠ 0 := by
  obtain ⟨hmap, hread⟩ := List.mem_filter.mp h
  obtain ⟨sl0, -, rfl⟩ := List.mem_map.mp hmap
  exact ⟨sl0.unexport_extra, by simpa using hread⟩

theorem State.releaseExport_miss {s : State} {win : Nat} (h : ∀ r ∈ s.rings, ¬ r.ExportedAt win) :
    s.releaseExport win = { s with gu := { s.gu with xmiss := true } } := by
  unfold State.releaseExport
  refine if_neg ?_
  simpa [Ring.ExportedAt] using h

theorem State.releaseExport_hit {s : State} {win : Nat} (h : ∃ r ∈ s.rings, r.ExportedAt win) :
    s.releaseExport win = { s with rings := (s.rings.map fun r => if r.ExportedAt win then r.unexport else r).filter fun r =>
      !(r.held.isEmpty && !(s.frames.any fun f => f.serial == r.frame)) } := by
  have hany : (s.rings.any fun r => r.exported && r.winva.toNat / 65536 == win) = true := by simpa [Ring.ExportedAt] using h
  unfold State.releaseExport
  simp only [hany, if_true]
  simp only [Bool.and_eq_true, beq_iff_eq]
  rfl

theorem execGxrelWrite_of_commands {s : State} {m : Master} {val : Word} (h : s.Commands m) :
    execGxrelWrite m val s = .next (s.releaseExport (Bits.field 55 16 val.toNat)) :=
  ownerWrite_of_commands h _

/-- What GXREL leaves of the rings: no slot of a ring it names has its extra reader or no reader, and the other rings stay (R37). -/
theorem State.releaseExport_rings {s : State} {win : Nat} (h : ∃ r ∈ s.rings, r.ExportedAt win) :
    (∀ r ∈ (s.releaseExport win).rings, r.ExportedAt win → ∀ sl ∈ r.held, sl.extra = false ∧ sl.readers ≠ 0) ∧
      ∀ r ∈ s.rings, ¬ r.ExportedAt win → (r.held ≠ [] ∨ ∃ f ∈ s.frames, f.serial = r.frame) → r ∈ (s.releaseExport win).rings := by
  rw [State.releaseExport_hit h]
  refine ⟨fun r hr hhit sl hsl => ?_, fun r hr hmiss hkept => ?_⟩
  · obtain ⟨r0, -, rfl⟩ := List.mem_map.mp (List.mem_filter.mp hr).1
    split at hhit
    · next hhit0 =>
      rw [if_pos hhit0] at hsl
      exact Ring.mem_held_unexport hsl
    · next hmiss => exact absurd hhit hmiss
  · refine List.mem_filter.mpr ⟨List.mem_map.mpr ⟨r, hr, if_neg hmiss⟩, ?_⟩
    obtain hheld | ⟨f, hf, hserial⟩ := hkept
    · simp only [List.isEmpty_eq_false_iff.mpr hheld, Bool.false_and, Bool.not_false]
    · have hany : (s.frames.any fun f => f.serial == r.frame) = true := List.any_eq_true.mpr ⟨f, hf, beq_iff_eq.mpr hserial⟩
      simp only [hany, Bool.not_true, Bool.and_false, Bool.not_false]

/-! ## GRESUME: the handle is consumed, and memory stays (R393) -/

/-- The state in which a handle has been consumed. -/
def State.consume (s : State) (x : Handle) : State := { s with handles := s.handles.filter fun y => y.gh != x.gh }

theorem State.consume_spent (s : State) (x : Handle) : ∀ y ∈ (s.consume x).handles, y.gh ≠ x.gh := fun _ hy => ne_of_mem_filter_bne hy

/-- A state with the memory of another, and no handle beyond its own. -/
def State.NoNewHandle (s t : State) : Prop := t.mem = s.mem ∧ ∀ y ∈ t.handles, y ∈ s.handles

theorem State.historyUpdate_eq (s : State) (g : Group) : s.historyUpdate g = { s with history := (s.historyUpdate g).history } := by
  unfold State.historyUpdate
  dsimp only
  split <;> rfl

theorem State.killSaved_noNewHandle (s : State) (g : Group) : s.NoNewHandle (s.killSaved g) := by
  rw [State.NoNewHandle, State.killSaved, State.historyUpdate_eq]
  exact ⟨rfl, fun _ hy => hy⟩

theorem State.resumeGroup_cases (s : State) (g : Group) (a : Act) : s.resumeGroup g a = s.killSaved g ∨
    ∃ g', s.resumeGroup g a = s.setGroup g' := by
  cases a with
  | kill => exact .inl rfl
  | retry =>
    simp only [State.resumeGroup]
    split
    · exact .inl rfl
    · exact .inr ⟨_, rfl⟩
  | deliver =>
    simp only [State.resumeGroup]
    split
    · exact .inl rfl
    · exact .inr ⟨_, rfl⟩

theorem State.endTile_noNewHandle (s : State) (t : TileRef) : s.NoNewHandle (s.endTile t) := ⟨rfl, fun _ hy => (List.mem_filter.mp hy).1⟩

/-- GRESUME stores nothing, and consumes the handle (R393). -/
theorem State.resume_consumes (s : State) (x : Handle) (a : Act) : (s.consume x).NoNewHandle (s.resume x a) := by
  have hself : ∀ u : State, u.NoNewHandle u := fun u => ⟨rfl, fun _ hy => hy⟩
  unfold State.resume
  dsimp only
  split
  · split
    · next g _ =>
      obtain heq | ⟨g', heq⟩ := (s.consume x).resumeGroup_cases g a
      · exact heq ▸ (s.consume x).killSaved_noNewHandle g
      · exact heq ▸ hself _
    · exact hself _
  · split
    · exact hself _
    · exact (s.consume x).endTile_noNewHandle x.tref
  · split
    · split <;> exact hself _
    · exact State.endTile_noNewHandle { s.consume x with copies := (s.consume x).copies.filter fun c => c.id != x.copy } x.tref
  · split <;> exact hself _

section
variable {s : State} {m : Master} {gh : BitVec 32} (h : s.Commands m)
include h

theorem gresume_miss (hmiss : ∀ x ∈ s.handles, x.gh ≠ gh.toNat) (a : Act) :
    gresume m gh a s = .next { s with fq := { s.fq with rmiss := true } } := by
  have hfind : s.handles.find? (fun x => x.gh == gh.toNat) = none := List.find?_eq_none.mpr (by simpa using hmiss)
  rw [gresume, ownerWrite_of_commands h, hfind]

theorem gresume_hit {x : Handle} (hx : s.handles.find? (fun x => x.gh == gh.toNat) = some x) (a : Act) :
    gresume m gh a s = .next (s.resume x a) := by
  rw [gresume, ownerWrite_of_commands h, hx]

end

/-! ## A saved group (R393, R404) -/

/-- A gang of the group has an error of the control state, after which only kill is accepted (R393, R404). -/
def Group.Broken (g : Group) : Prop := ∃ h ∈ g.gangs, h.ctlErr = true ∨ h.trapped = true ∧ h.trapcause.cause = 0x2C

theorem Group.any_broken_iff (g : Group) :
    (g.gangs.any fun h => h.ctlErr || (h.trapped && h.trapcause.cause == 0x2C)) = true ↔ g.Broken := by
  simp [Group.Broken]

/-- The group when it is ready for restore, at its handler or not (R393). -/
def Group.readied (g : Group) (slot : Nat) (deliver : Bool) : Group :=
  { g with place := .saved slot true, handle := none, deliver := deliver }

section
variable {s : State} {g : Group} {slot : Nat} {r : Bool} (hpl : g.place = .saved slot r)
include hpl

theorem State.resumeGroup_retry (hb : ¬ g.Broken) : s.resumeGroup g .retry = s.setGroup (g.readied slot false) := by
  rw [← Group.any_broken_iff] at hb
  simp only [State.resumeGroup, hpl]
  exact if_neg hb

theorem State.resumeGroup_deliver (hb : ¬ g.Broken) (hh : g.kernel.hndlr ≠ 0) :
    s.resumeGroup g .deliver = s.setGroup (g.readied slot true) := by
  rw [← Group.any_broken_iff] at hb
  simp only [State.resumeGroup, hpl]
  exact if_neg (by simp only [Bool.or_eq_true, beq_iff_eq]; exact not_or.mpr ⟨hb, hh⟩)

end

theorem State.resumeGroup_retry_broken {s : State} {g : Group} (hb : g.Broken) : s.resumeGroup g .retry = s.killSaved g :=
  if_pos (g.any_broken_iff.mpr hb)

theorem State.resumeGroup_deliver_kills {s : State} {g : Group} (h : g.Broken ∨ g.kernel.hndlr = 0) :
    s.resumeGroup g .deliver = s.killSaved g := by
  rw [← Group.any_broken_iff] at h
  exact if_pos (by simpa only [Bool.or_eq_true, beq_iff_eq] using h)

/-- A saved group that is killed has exited, no lane or operation of it is left, nor a copy but those that outlive their gang (R393). -/
theorem State.killSaved_spec {s : State} {g g0 : Group} (hg : s.group? g.gid = some g0) :
    ∃ g', (s.killSaved g).group? g.gid = some g' ∧ g'.place = .exited ∧ g'.macros = [] ∧
      (∀ h ∈ g'.gangs, h.lmask = 0 ∧ h.frags = [] ∧ h.ops = []) ∧
      ∀ c ∈ (s.killSaved g).copies, c.gid = g.gid → c.orphan = true ∨ c.tpl.isSome := by
  rw [State.killSaved, State.historyUpdate_eq]
  refine ⟨_, State.group?_setGroup_same s { g with
    place := .exited, spare := 0, handle := none, macros := [], chunks := [], gangs := g.gangs.map fun h => { h with
      lmask := 0, frags := [], tokens := [], joins := [], ops := [], claim := none, handler := none, stop := none,
      trapped := false, wantsBaton := false } } g0 hg, rfl, rfl, fun h hh => ?_, fun c hc hgid => ?_⟩
  · obtain ⟨h0, -, rfl⟩ := List.mem_map.mp hh
    exact ⟨rfl, rfl, rfl⟩
  · simpa [hgid] using (List.mem_filter.mp hc).2

theorem State.resume_group {s : State} {x : Handle} {g : Group} (hu : x.unit = 0)
    (hg : s.groups.find? (fun g => g.handle == some x.gh) = some g) (a : Act) : s.resume x a = (s.consume x).resumeGroup g a := by
  simp only [State.resume, hu, hg]
  rfl

/-- A group that a handle names is found by its identity. -/
theorem State.group?_of_handle {s : State} {x : Handle} {g : Group} (hg : s.groups.find? (fun g => g.handle == some x.gh) = some g) :
    ∃ g0, s.group? g.gid = some g0 := by
  rw [← Option.isSome_iff_exists, State.group?, List.find?_isSome]
  exact ⟨g, List.mem_of_find?_eq_some hg, by simp⟩

/-! ## A tile (R348, R393, R404) -/

theorem State.resume_tile {s : State} {x : Handle} (hu : x.unit = 1) (a : Act) :
    s.resume x a = if a = .retry ∧ x.killOnly = false then (s.consume x).restartTile x.tref else (s.consume x).endTile x.tref := by
  simp only [State.resume, hu, Bool.and_eq_true, decide_eq_true_eq, Bool.not_eq_true']
  rfl

theorem State.restartTile_spec {s : State} {t : TileRef} {a : Tile} (ha : s.tileAt t = some a) :
    ∃ b, (s.restartTile t).tileAt t = some b ∧ b.state = .released ∧ b.placed = 0 ∧ ∀ r ∈ (s.restartTile t).recTiles, r.tref ≠ t := by
  refine ⟨_, (State.tileAt_updTile _ t _).trans (congrArg _ ha), rfl, rfl, fun _ hr => ne_of_mem_filter_bne hr⟩

theorem State.endTile_spec {s : State} {t : TileRef} {a : Tile} (ha : s.tileAt t = some a) :
    ∃ b, (s.endTile t).tileAt t = some b ∧ b.state = .started ∧ b.retiredAsKilled = true ∧ ∀ r ∈ (s.endTile t).recTiles, r.tref ≠ t := by
  refine ⟨_, (State.tileAt_updTile _ t _).trans (congrArg _ ha), rfl, rfl, fun _ hr => ne_of_mem_filter_bne hr⟩

/-! ## A failed copy (R290, R441) -/

theorem State.rerunCopy_queued {s : State} {c : Copy} (hc : c ∈ s.copies) (engine ch : Nat) :
    ∃ d ∈ (s.rerunCopy c.id engine ch).copies, d.id = c.id ∧ d.state = .queued ∧ d.word = c.word :=
  ⟨{ c with state := .queued, engine := engine, ch := ch, handle := none },
    List.mem_append_right _ (List.mem_map_of_mem (List.mem_filter.mpr ⟨hc, by simp⟩)), rfl, rfl, rfl⟩

section
variable {s : State} {x : Handle} {c : Copy} (hu : x.unit = 2 ∨ x.unit = 3) (hc : s.copies.find? (fun c => c.id == x.copy) = some c)
include hu hc

/-- Retry runs the copy again whole. -/
theorem State.resume_copy_retry : ∃ d ∈ (s.resume x .retry).copies, d.id = c.id ∧ d.state = .queued ∧ d.word = c.word := by
  have hid : c.id = x.copy := by simpa using List.find?_some hc
  have hmem : c ∈ (s.consume x).copies := List.mem_of_find?_eq_some hc
  rcases hu with hu | hu
  · have heq : (s.resume x .retry).copies = ((s.consume x).rerunCopy c.id c.engine c.ch).copies := by
      simp only [State.resume, hu, hc, hid]
      rfl
    exact heq ▸ State.rerunCopy_queued hmem _ _
  · have heq : (s.resume x .retry).copies = ((s.consume x).rerunCopy c.id ((s.consume x).leastLoaded ((s.consume x).tileStack x.tref)).1
        ((s.consume x).leastLoaded ((s.consume x).tileStack x.tref)).2).copies := by
      simp only [State.resume, hu, hid]
      rfl
    exact heq ▸ State.rerunCopy_queued hmem _ _

/-- Kill ends it. -/
theorem State.resume_copy_kill : ∀ d ∈ (s.resume x .kill).copies, d.id ≠ c.id := by
  have hid : c.id = x.copy := by simpa using List.find?_some hc
  have heq : (s.resume x .kill).copies = s.copies.filter fun c => c.id != x.copy := by
    rcases hu with hu | hu
    · simp only [State.resume, hu]
      rfl
    · simp only [State.resume, hu]
      rfl
  intro d hd
  rw [hid]
  exact ne_of_mem_filter_bne (heq ▸ hd)

end

/-! ## The statement -/

/-- Settles O37: GXREL, then GRESUME on an unknown handle, a saved group's, a killed tile's and a failed copy's. -/
theorem resumeResults : Obligations.ResumeResults := by
  unfold Obligations.ResumeResults
  refine ⟨fun s m val h => ?_, fun s m gh h => ?_⟩
  · intro win hit
    refine ⟨fun hmiss => (execGxrelWrite_of_commands h).trans (by rw [State.releaseExport_miss hmiss]), fun hhit => ?_⟩
    exact ⟨_, execGxrelWrite_of_commands h, by rw [State.releaseExport_hit hhit], State.releaseExport_rings hhit⟩
  · intro three
    refine ⟨fun hmiss => ⟨gresume_miss h hmiss .retry, gresume_miss h hmiss .deliver, gresume_miss h hmiss .kill⟩, fun x hx => ?_⟩
    have hgh : x.gh = gh.toNat := by simpa using List.find?_some hx
    have hout := gresume_hit h hx
    have hspent : ∀ a, ∃ t, gresume m gh a s = .next t ∧ t.mem = s.mem ∧ ∀ y ∈ t.handles, y.gh ≠ gh.toNat := fun a => by
      obtain ⟨hmem, hold⟩ := s.resume_consumes x a
      exact ⟨_, hout a, hmem, fun y hy => hgh ▸ s.consume_spent x y (hold y hy)⟩
    refine ⟨⟨hspent .retry, hspent .deliver, hspent .kill⟩, fun g slot r hu hg hpl => ?_, fun a p hu hp ha => ?_, fun c hu hc => ?_⟩
    · intro broken ready killed
      obtain ⟨g0, hg0⟩ := State.group?_of_handle hg
      have hready : ∀ (a : Act) (d : Bool), (s.consume x).resumeGroup g a = (s.consume x).setGroup (g.readied slot d) →
          ready d (gresume m gh a s) := fun a d ha =>
        ⟨_, hout a, by rw [State.resume_group hu hg, ha]; exact State.group?_setGroup_same (s.consume x) (g.readied slot d) g0 hg0⟩
      have hkilled : ∀ a : Act, (s.consume x).resumeGroup g a = (s.consume x).killSaved g → killed (gresume m gh a s) := fun a ha => by
        obtain ⟨g', hspec⟩ := State.killSaved_spec (s := s.consume x) hg0
        exact ⟨_, g', (hout a).trans (by rw [State.resume_group hu hg, ha]), hspec⟩
      exact ⟨fun hb => hready .retry false (State.resumeGroup_retry hpl hb),
        fun hb hh => hready .deliver true (State.resumeGroup_deliver hpl hb hh),
        fun hb => hkilled .deliver (State.resumeGroup_deliver_kills hb), fun hb => hkilled .retry (State.resumeGroup_retry_broken hb),
        hkilled .kill rfl⟩
    · intro tile
      have htile : (s.consume x).tileAt x.tref = some a := (s.tileAt_eq_some_iff x.tref a).mpr ⟨p, hp, ha⟩
      have hends : ∀ b : Act, ¬ (b = .retry ∧ x.killOnly = false) → tile (gresume m gh b s) .started true := fun b hb => by
        obtain ⟨y, hy, hst, hkill, hrec⟩ := State.endTile_spec htile
        exact ⟨_, y, (hout b).trans (by rw [State.resume_tile hu, if_neg hb]), hy, hst, fun _ => hkill, nofun, hrec⟩
      refine ⟨fun hk => ?_, fun hk => hends .retry (by simp [hk]), hends .deliver nofun, hends .kill nofun⟩
      obtain ⟨y, hy, hst, hplaced, hrec⟩ := State.restartTile_spec htile
      exact ⟨_, y, (hout .retry).trans (by rw [State.resume_tile hu, if_pos ⟨rfl, hk⟩]), hy, hst, nofun, fun _ => hplaced, hrec⟩
    · obtain ⟨d, hd, hspec⟩ := State.resume_copy_retry hu hc
      exact ⟨⟨_, d, hout .retry, hd, hspec⟩, _, hout .kill, State.resume_copy_kill hu hc⟩

end Sys2Proof.Machine
end

section
/-! SUPPORT. Placement: what placing a group, starting a tile and freeing launch entries change, and O39 (R30, R61, R62, R69, R74, R342, R347). -/

namespace Sys2Proof.Machine

/-! ## A core after a change -/

theorem State.core_updCore_same {s : State} (h : Table.wf Core.fresh s.cores = true) (i : Nat) (f : Core → Core) :
    (s.updCore i f).core i = f (s.core i) := Table.get_set_same Core.fresh s.cores i _ 0 h

theorem State.core_updCore_other {s : State} (h : Table.wf Core.fresh s.cores = true) (i : Nat) (f : Core → Core) (k : Nat) (hk : k ≠ i) :
    (s.updCore i f).core k = s.core k := Table.get_set_other Core.fresh s.cores i k _ 0 h hk.symm

/-! ## Placing a group (R72 to R79) -/

/-- One group more is placed, none of whose fragments waits; beside groups and their count cores alone change. -/
def State.OnePlaced (s t : State) : Prop :=
  ∃ (g : Group) (cs : Table Core), t = { s with cores := cs, groups := s.groups ++ [g], gidCount := s.gidCount + 1 } ∧
    ∀ h ∈ g.gangs, ∀ f ∈ h.frags, f.wait = .none

theorem Spec.makeGangs_wait (p : Spec) (w cyc : Nat) (others : List Gang) (entries : List Nat) (n : Nat) :
    ∀ h ∈ p.makeGangs w cyc others entries n, ∀ f ∈ h.frags, f.wait = .none := by
  induction n with
  | zero => intro h hh; cases hh
  | succ n ih =>
    intro h hh f hf
    obtain hh | hh := List.mem_append.mp hh
    · exact ih h hh f hf
    · obtain rfl := List.mem_singleton.mp hh
      obtain ⟨f0, hf0, rfl⟩ := List.mem_map.mp hf
      obtain rfl := List.mem_singleton.mp hf0
      rfl

theorem State.clocked_eq (s : State) (core : Nat) : s.clocked core = { s with cores := (s.clocked core).cores } := by
  unfold State.clocked
  split <;> rfl

theorem State.placeGroup_onePlaced (s : State) (core w : Nat) (p : Spec) : s.OnePlaced (s.placeGroup core w p) := by
  unfold State.placeGroup
  dsimp only
  rw [State.clocked_eq]
  exact ⟨_, _, rfl, p.makeGangs_wait _ _ _ _ _⟩

theorem State.tryPlace_eq_some {s t : State} {st : Nat} {p : Spec} (h : s.tryPlace st p = some t) :
    ∃ c, s.chooseCore st (p.need (s.gangWidth st p.kernel)) = some c ∧ t = s.placeGroup c (s.gangWidth st p.kernel) p := by
  obtain ⟨c, hc, heq⟩ := Option.map_eq_some_iff.mp h
  exact ⟨c, hc, heq.symm⟩

theorem State.tryPlace_onePlaced {s t : State} {st : Nat} {p : Spec} (h : s.tryPlace st p = some t) : s.OnePlaced t := by
  obtain ⟨c, -, rfl⟩ := State.tryPlace_eq_some h
  exact s.placeGroup_onePlaced c _ p

/-! ## Starting a tile (R30, R342, R347) -/

/-- What starting a tile does: rings take it, its pass binds its nets, and the tile has started. -/
theorem State.startTile_cases {s t : State} {r : TileRef} (h : s.startTile r = some t) :
    ∃ (rs : List Ring) (bind : Pass → Pass) (start : Tile → Tile) (x : Tile), s.tileAt r = some x ∧
      (∀ p, (bind p).tiles = p.tiles) ∧ (∀ x, (start x).state = .started) ∧
      t = (({ s with rings := rs } : State).updPass r.slot r.pass bind).updTile r start := by
  unfold State.startTile at h
  split at h
  · cases h
  · next f hf =>
    split at h
    · cases h
    · next p hp =>
      split at h
      · cases h
      · next x hx =>
        split at h
        · cases h
        · obtain ⟨rs, -, rfl⟩ := Option.map_eq_some_iff.mp h
          refine ⟨rs, _, _, x, ?_, ?_, ?_, rfl⟩
          · exact (s.tileAt_eq_some_iff r x).mpr ⟨p, (s.passAt_eq_some_iff _ _ p).mpr ⟨f, hf, hp⟩, hx⟩
          · exact fun _ => rfl
          · exact fun _ => rfl

theorem State.startTile_eq {s t : State} {r : TileRef} (h : s.startTile r = some t) : t = { s with rings := t.rings, frames := t.frames } := by
  obtain ⟨rs, bind, start, x, -, -, -, rfl⟩ := State.startTile_cases h
  rfl

theorem State.startTile_started {s t : State} {r : TileRef} (h : s.startTile r = some t) : ∃ x, t.tileAt r = some x ∧ x.state = .started := by
  obtain ⟨rs, bind, start, x, hx, hbind, hstart, rfl⟩ := State.startTile_cases h
  refine ⟨start x, ?_, hstart x⟩
  rw [State.tileAt_updTile, State.tileAt_updPass _ _ _ hbind]
  exact congrArg (Option.map start) hx

section
variable {s t : State} {st : Nat} {r : TileRef} {p : Pass} (h : s.beginTile st r = some t) (hp : s.passAt r.slot r.pass = some p)
include h hp

/-- A tile of a commit starts, and the commit is done (R342). -/
theorem State.beginTile_commit (hk : p.rcd.kind = 5) :
    t.mem = s.mem ∧ t.gidCount = s.gidCount ∧ (∃ x, t.tileAt r = some x ∧ x.state = .started ∧ x.engineDone = true) ∧
      t.nets = s.nets.modify (p.rcd.kparam % 4) fun x => if x.neww then { x with cur := !x.cur, neww := false } else x := by
  simp only [State.beginTile, hp, hk, if_true] at h
  obtain ⟨s1, hs1, rfl⟩ := Option.map_eq_some_iff.mp h
  obtain ⟨x, hx, hstarted⟩ := State.startTile_started hs1
  have heq := State.startTile_eq hs1
  have hmem : s1.mem = s.mem := by rw [heq]
  have hgid : s1.gidCount = s.gidCount := by rw [heq]
  have hnets : s1.nets = s.nets := by rw [heq]
  refine ⟨hmem, hgid, ⟨x.finish s.nstime, ?_, hstarted, rfl⟩, ?_⟩
  · rw [State.tileAt_updTile]
    exact congrArg (Option.map _) hx
  · simp only [State.updTile_nets, hnets]

/-- A tile of another pass starts with one group placed (R30, R347). -/
theorem State.beginTile_places (hk : p.rcd.kind ≠ 5) :
    t.mem = s.mem ∧ t.gidCount = s.gidCount + 1 ∧ ∃ x, t.tileAt r = some x ∧ x.state = .started ∧ x.placed = 1 := by
  simp only [State.beginTile, hp, hk, if_false] at h
  split at h
  · cases h
  · next sp _ =>
    split at h
    · cases h
    · next s1 hs1 =>
      obtain ⟨s2, hs2, heq⟩ := Option.map_eq_some_iff.mp h
      obtain ⟨x, hx, hstarted⟩ := State.startTile_started hs1
      have heq1 := State.startTile_eq hs1
      obtain ⟨g, cs, heq2, -⟩ := State.tryPlace_onePlaced hs2
      have hframes : t.frames = (s2.updTile r fun x => { x with placed := 1 }).frames := by
        rw [← heq]
        split <;> rfl
      have hrest : t.mem = s2.mem ∧ t.gidCount = s2.gidCount := by
        rw [← heq]
        split <;> exact ⟨rfl, rfl⟩
      refine ⟨hrest.1.trans ?_, hrest.2.trans ?_, { x with placed := 1 }, ?_, hstarted, rfl⟩
      · rw [heq2, heq1]
      · rw [heq2, heq1]
      · have hframes2 : s2.frames = s1.frames := by rw [heq2]
        rw [State.tileAt_congr hframes, State.tileAt_updTile, State.tileAt_congr hframes2, hx]
        rfl

end

theorem execTileStart_of_next {s : State} {st : StackId} {r : TileRef} (h : s.nextStart st.val = some r) :
    ∃ t, s.beginTile st.val r = some t ∧ execTileStart st s = .next t := by
  obtain ⟨t, ht⟩ := Option.isSome_iff_exists.mp (List.find?_some (p := fun t => (s.beginTile st.val t).isSome) h)
  exact ⟨t, ht, by simp [execTileStart, h, ht]⟩

theorem State.passAt_of_beginTile {s t : State} {st : Nat} {r : TileRef} (h : s.beginTile st r = some t) : ∃ p, s.passAt r.slot r.pass = some p := by
  cases hp : s.passAt r.slot r.pass with
  | none => simp [State.beginTile, hp] at h
  | some p => exact ⟨p, rfl⟩

/-! ## Launch entries that are freed (R62) -/

/-- No fragment waits for an entry of a launch store. -/
def State.NoLauncher (s : State) : Prop := ∀ g ∈ s.groups, ∀ h ∈ g.gangs, ∀ f ∈ h.frags, ∀ va b y k, f.wait ≠ .launch va b y k

theorem State.wakeLauncher_of_noLauncher {s : State} (h : s.NoLauncher) (st : Nat) : s.wakeLauncher st = s := by
  unfold State.wakeLauncher
  dsimp only
  split
  · rfl
  · next g k f va bits y b hleast =>
    obtain ⟨hmem, -⟩ := leastBy_spec _ _ _ hleast
    simp only [List.mem_flatMap, List.mem_filter, List.mem_filterMap] at hmem
    obtain ⟨g', ⟨hg, -⟩, k', ⟨hk, -⟩, f', hf, hsome⟩ := hmem
    split at hsome
    · next hwait => exact absurd hwait (h g' hg k' hk f' hf _ _ _ _)
    · cases hsome

/-- A freed entry is taken by no launcher, or by one, which has placed nothing from it yet. -/
theorem State.wakeLauncher_launches (s : State) (st : Nat) :
    ∃ more : List LaunchEntry, (s.wakeLauncher st).launches = s.launches ++ more ∧ ∀ x ∈ more, x.placed = 0 := by
  unfold State.wakeLauncher
  dsimp only
  split
  · exact ⟨[], (List.append_nil _).symm, nofun⟩
  · split
    · exact ⟨[], (List.append_nil _).symm, nofun⟩
    · exact ⟨_, rfl, fun x hx => by rw [List.mem_singleton.mp hx]⟩

@[simp] theorem State.freeLaunches_gidCount (s : State) (gone : LaunchEntry → Bool) : (s.freeLaunches gone).gidCount = s.gidCount :=
  foldl_keeps State.gidCount _ _ _ fun u e => by rw [State.wakeLauncher_eq]

theorem State.freeLaunches_launches (s : State) (gone : LaunchEntry → Bool) :
    ∃ more : List LaunchEntry, (s.freeLaunches gone).launches = s.launches.filter (fun x => !gone x) ++ more ∧ (∀ x ∈ more, x.placed = 0) ∧
      (s.NoLauncher → more = []) := by
  have hfold : ∀ (l : List LaunchEntry) (u : State), ∃ more : List LaunchEntry,
      (l.foldl (fun t e => t.wakeLauncher e.stack) u).launches = u.launches ++ more ∧ (∀ x ∈ more, x.placed = 0) ∧ (u.NoLauncher → more = []) := by
    intro l
    induction l with
    | nil => exact fun u => ⟨[], (List.append_nil _).symm, nofun, fun _ => rfl⟩
    | cons e l ih =>
      intro u
      obtain ⟨first, hfirst, hfirst0⟩ := u.wakeLauncher_launches e.stack
      obtain ⟨rest, hrest, hrest0, hnone⟩ := ih (u.wakeLauncher e.stack)
      refine ⟨first ++ rest, by rw [List.foldl_cons, hrest, hfirst, List.append_assoc], fun x hx => ?_, fun hno => ?_⟩
      · exact (List.mem_append.mp hx).elim (hfirst0 x) (hrest0 x)
      · have hsame := State.wakeLauncher_of_noLauncher hno e.stack
        rw [hsame] at hfirst hnone
        rw [hnone hno, List.self_eq_append_right.mp hfirst, List.nil_append]
  exact hfold _ _

/-! ## Placing a waiting group (R61, R74) -/

theorem execGroupPlace_of_next {s : State} {st : StackId} {w : Waiting} (h : s.nextPlace st.val = some w) :
    ∃ t, s.placeWaiting st.val w = some t ∧ execGroupPlace st s = .next t := by
  obtain ⟨t, ht⟩ := Option.isSome_iff_exists.mp (List.find?_some (p := fun w => (s.placeWaiting st.val w).isSome) h)
  exact ⟨t, ht, by simp [execGroupPlace, h, ht]⟩

/-- An entry from which a group is placed next is in a launch store, and no open window holds it back (R61, R63). -/
theorem State.nextPlace_entry {s : State} {st : Nat} {e : LaunchEntry} (h : s.nextPlace st = some (.ofEntry e)) :
    e ∈ s.launches ∧ e.tentative = none := by
  have hmem := List.mem_of_find?_eq_some h
  rw [State.waitingGroups, mem_sortBy] at hmem
  obtain hmem | hmem := List.mem_append.mp hmem
  · obtain ⟨_, -, heq⟩ := List.mem_map.mp hmem
    cases heq
  · split at hmem
    · next e' es hstore =>
      have hstore' : e' ∈ s.launchesOf st := hstore ▸ List.mem_cons_self
      split at hmem
      · next hno =>
        cases List.mem_singleton.mp hmem
        exact ⟨(List.mem_filter.mp hstore').1, Option.isNone_iff_eq_none.mp hno⟩
      · cases hmem
    · cases hmem

theorem State.placeWaiting_entry {s t : State} {st : Nat} {e : LaunchEntry} (h : s.placeWaiting st (.ofEntry e) = some t) :
    ∃ u, s.OnePlaced u ∧ t = if e.placed + 1 = e.groups then u.freeLaunches fun x => x.id == e.id
      else { u with launches := u.launches.map fun x => if x.id = e.id then { x with placed := x.placed + 1 } else x } := by
  obtain ⟨u, hu, heq⟩ := Option.map_eq_some_iff.mp h
  exact ⟨u, State.tryPlace_onePlaced hu, heq.symm⟩

theorem State.OnePlaced.noLauncher {s t : State} (h : s.OnePlaced t) (hno : s.NoLauncher) : t.NoLauncher := by
  obtain ⟨g, cs, rfl, hwait⟩ := h
  intro x hx k hk f hf va b y c
  obtain hx | hx := List.mem_append.mp hx
  · exact hno x hx k hk f hf va b y c
  · rw [List.mem_singleton.mp hx] at hk
    rw [hwait k hk f hf]
    nofun

theorem State.OnePlaced.kept {s t : State} (h : s.OnePlaced t) :
    t.mem = s.mem ∧ t.gidCount = s.gidCount + 1 ∧ t.launches = s.launches ∧ t.frames = s.frames ∧ t.recTiles = s.recTiles := by
  obtain ⟨g, cs, rfl, -⟩ := h
  exact ⟨rfl, rfl, rfl, rfl, rfl⟩

theorem placeEntry_results {s t : State} {st : Nat} {e : LaunchEntry} (h : s.placeWaiting st (.ofEntry e) = some t) :
    t.mem = s.mem ∧ t.gidCount = s.gidCount + 1 ∧
      (e.placed + 1 = e.groups → ∃ more, t.launches = s.launches.filter (fun x => x.id != e.id) ++ more ∧ (∀ x ∈ more, x.placed = 0) ∧
        (s.NoLauncher → more = [])) ∧
      (e.placed + 1 ≠ e.groups →
        t.launches = s.launches.map (fun (x : LaunchEntry) => if x.id = e.id then { x with placed := x.placed + 1 } else x)) := by
  obtain ⟨u, hu, rfl⟩ := State.placeWaiting_entry h
  obtain ⟨hmem, hgid, hlaunches, -, -⟩ := hu.kept
  by_cases hlast : e.placed + 1 = e.groups
  · rw [if_pos hlast]
    obtain ⟨more, hmore, hplaced, hnone⟩ := u.freeLaunches_launches fun x => x.id == e.id
    refine ⟨(u.freeLaunches_mem _).trans hmem, (u.freeLaunches_gidCount _).trans hgid, fun _ => ?_, fun hn => absurd hlast hn⟩
    exact ⟨more, hlaunches ▸ hmore, hplaced, fun hno => hnone (hu.noLauncher hno)⟩
  · rw [if_neg hlast]
    exact ⟨hmem, hgid, fun hl => absurd hl hlast, fun _ => congrArg (List.map _) hlaunches⟩

/-! ## A group of a record-pass node (R280, R347) -/

theorem State.recTile?_updRecTile (s : State) (t : TileRef) (f : RecTile → RecTile) (hf : ∀ r, r.tref = t → (f r).tref = t) :
    (s.updRecTile t f).recTile? t = (s.recTile? t).map f := by
  have hkey : (fun r : RecTile => r.tref == t) ∘ (fun r => if r.tref = t then f r else r) = fun r => r.tref == t := by
    funext r
    by_cases hr : r.tref = t
    · simp [hr, hf r hr]
    · simp [hr]
  simp only [State.recTile?, State.updRecTile, List.find?_map, hkey]
  refine Option.map_congr fun r hr => if_pos ?_
  simpa using List.find?_some hr

/-- Where no emit waits, draining a tile leaves it as it is. -/
theorem State.drain_of_no_emits {s : State} {t : TileRef} {r : RecTile} (hr : s.recTile? t = some r) (he : r.emits = []) :
    s.drain t = { s with recTiles := (s.drain t).recTiles } ∧ (s.drain t).recTile? t = some r := by
  unfold State.drain
  rw [hr]
  split
  · next r' p hr' _ =>
    obtain rfl := Option.some.inj hr'
    rw [he]
    refine ⟨rfl, ?_⟩
    have htref : r.tref = t := by simpa using List.find?_some hr
    have hsame : ({ r with emits := [] } : RecTile) = r := by rw [← he]
    have hput := s.recTile?_updRecTile t (fun _ => { r with emits := [] }) fun _ _ => htref
    rw [hr, Option.map_some] at hput
    exact hput.trans (congrArg some hsame)
  · exact ⟨rfl, hr⟩

theorem RecTile.queue_setQueue_same {r : RecTile} (h : Table.wf [] r.queues = true) (n : Nat) (q : List NodeRec) :
    (r.setQueue n q).queue n = q := Table.get_set_same [] r.queues n q 0 h

theorem RecTile.queue_setQueue_other {r : RecTile} (h : Table.wf [] r.queues = true) (n : Nat) (q : List NodeRec) (k : Nat) (hk : k ≠ n) :
    (r.setQueue n q).queue k = r.queue k := Table.get_set_other [] r.queues n k q 0 h hk.symm

/-- A tile from whose node a group has taken the first records of the queue (R347, R358). -/
def RecTile.launch (r : RecTile) (node n : Nat) (covered : Option Nat) : RecTile :=
  let r1 := { r.setQueue node ((r.queue node).drop n) with launched := Table.set 0 r.launched node (Table.get 0 r.launched node + 1) }
  match covered with
  | some k => r1.count 3 k
  | none => r1

theorem RecTile.launch_queue (r : RecTile) (node n : Nat) (covered : Option Nat) :
    (r.launch node n covered).queue = (r.setQueue node ((r.queue node).drop n)).queue := by
  cases covered <;> rfl

theorem RecTile.launch_tref (r : RecTile) (node n : Nat) (covered : Option Nat) : (r.launch node n covered).tref = r.tref := by
  cases covered <;> rfl

theorem RecTile.launch_emits (r : RecTile) (node n : Nat) (covered : Option Nat) : (r.launch node n covered).emits = r.emits := by
  cases covered <;> rfl

/-- A launch from a tile where no emit waits leaves the tile without the records it took. -/
theorem State.launch_drained {u : State} {t : TileRef} {r : RecTile} (hr : u.recTile? t = some r) (he : r.emits = []) (node n : Nat)
    (covered : Option Nat) :
    let v := (u.updRecTile t fun r => r.launch node n covered).drain t
    v.mem = u.mem ∧ v.gidCount = u.gidCount ∧ v.recTile? t = some (r.launch node n covered) := by
  have htaken := u.recTile?_updRecTile t (fun r => r.launch node n covered) fun r hr => (r.launch_tref node n covered).trans hr
  rw [hr, Option.map_some] at htaken
  obtain ⟨hdrain, hfound⟩ := State.drain_of_no_emits htaken ((r.launch_emits node n covered).trans he)
  exact ⟨by rw [hdrain]; rfl, by rw [hdrain]; rfl, hfound⟩

section
variable {s : State} {t : TileRef} {node c : Nat} {r : RecTile} {p : Pass} {recs : List NodeRec} {sp : Spec}
  (hr : s.recTile? t = some r) (hp : s.passAt t.slot t.pass = some p) (hrecs : s.groupRecords r p node = some recs)
  (hsp : s.nodeSpec t node (Table.get 0 r.launched node)
    (recs.map fun x => (x.bytes ++ List.replicate (16 * (nodeSize (p.node node) + 1) - x.bytes.length) 0))
    (if (p.nodeKernels.getD node none).any (fun k => k.pix) then helperMask recs else 0) = some sp)
  (hc : s.chooseCore (p.rcd.stackOf t.tile) (sp.need (s.gangWidth (p.rcd.stackOf t.tile) sp.kernel)) = some c)
include hr hp hrecs hsp hc

theorem State.launchNode_eq : ∃ covered, s.launchNode t node =
    some (((s.placeGroup c (s.gangWidth (p.rcd.stackOf t.tile) sp.kernel) sp).updRecTile t fun r => r.launch node recs.length covered).drain t) := by
  have hplace : s.tryPlace (p.rcd.stackOf t.tile) sp = some (s.placeGroup c (s.gangWidth (p.rcd.stackOf t.tile) sp.kernel) sp) := by
    rw [State.tryPlace]
    exact congrArg (Option.map _) hc
  by_cases hpix : (p.nodeKernels.getD node none).any (fun k => k.pix) = true
  · refine ⟨some (recs.foldl (fun a x => a + Bits.popcount 4 (Bits.field 99 96 (Bits.ofBytes x.bytes))) 0), ?_⟩
    rw [if_pos hpix] at hsp
    simp only [State.launchNode, hr, hp, hrecs, hpix, if_true, hsp, hplace]
    rfl
  · refine ⟨none, ?_⟩
    rw [if_neg hpix] at hsp
    simp only [State.launchNode, hr, hp, hrecs, hpix, Bool.false_eq_true, if_false, hsp, hplace]
    rfl

/-- A node's group takes the first records of its queue, and leaves the other queues (R347). -/
theorem nodeGroupLaunch_results (he : r.emits = []) (hq : Table.wf [] r.queues = true) :
    ∃ u r', s.launchNode t node = some u ∧ u.mem = s.mem ∧ u.gidCount = s.gidCount + 1 ∧ u.recTile? t = some r' ∧
      r'.queue node = (r.queue node).drop recs.length ∧ ∀ n, n ≠ node → r'.queue n = r.queue n := by
  obtain ⟨covered, heq⟩ := State.launchNode_eq hr hp hrecs hsp hc
  obtain ⟨hmem, hgid, -, -, hrec⟩ := (s.placeGroup_onePlaced c (s.gangWidth (p.rcd.stackOf t.tile) sp.kernel) sp).kept
  have hplaced : (s.placeGroup c (s.gangWidth (p.rcd.stackOf t.tile) sp.kernel) sp).recTile? t = some r := by
    rw [State.recTile?, hrec]
    exact hr
  obtain ⟨hmem', hgid', hfound⟩ := State.launch_drained hplaced he node recs.length covered
  refine ⟨_, _, heq, hmem'.trans hmem, hgid'.trans hgid, hfound, ?_, fun n hn => ?_⟩
  · rw [RecTile.launch_queue, RecTile.queue_setQueue_same hq]
  · rw [RecTile.launch_queue, RecTile.queue_setQueue_other hq _ _ n hn]

end

theorem execNodeGroupLaunch_of_launchNode {s u : State} {slot pass tile node : Nat} (h : s.launchNode ⟨slot, pass, tile⟩ node = some u) :
    execNodeGroupLaunch slot pass tile node s = .next u := by
  rw [execNodeGroupLaunch, h]

/-! ## Recarving (R69) -/

/-- The recarve that comes next is of the lowest empty core of another carve. -/
theorem State.recarvable_of_recarveFor {s : State} {st c scr : Nat} {ns : List Need} {taken : List Nat}
    (h : s.recarveFor st taken ns = some (c, scr)) : s.recarvable st scr = some c := by
  induction ns generalizing taken with
  | nil => cases h
  | cons n ns ih =>
    rw [State.recarveFor] at h
    split at h
    · exact ih h
    · split at h
      · exact ih h
      · split at h
        · next hc =>
          cases h
          exact hc
        · exact ih h

theorem mem_coresOf_div {st c : Nat} (h : c ∈ coresOf st) : c / 96 = st := by
  obtain ⟨i, hi, rfl⟩ := List.mem_map.mp h
  have : i < 96 := List.mem_range.mp hi
  omega

theorem State.recarvable_spec {s : State} {st c scr : Nat} (h : s.recarvable st scr = some c) :
    s.residents c = [] ∧ (s.core c).scr ≠ scr ∧ c / 96 = st := by
  have hmem := List.mem_of_find?_eq_some h
  have hsome := List.find?_some h
  simp only [State.coreEmpty, Bool.and_eq_true, List.isEmpty_iff, bne_iff_ne] at hsome
  obtain ⟨⟨⟨⟨hres, -⟩, -⟩, -⟩, hscr⟩ := hsome
  exact ⟨hres, hscr, mem_coresOf_div hmem⟩

/-- The recarve's end is a free value, within 12 µs. -/
theorem State.beginRecarve_spec {s : State} (h : Table.wf Core.fresh s.cores = true) (c scr : Nat) :
    ∃ due, let t := s.beginRecarve c scr
      t = { s with cores := t.cores, free := t.free, caches := t.caches } ∧
      (∀ x ∈ t.caches.l1, x.core ≠ c) ∧ (∀ k, k ≠ c → t.core k = s.core k) ∧
      t.core c = { s.core c with recarve := some (due, scr), scratch := [], scratchErr := [], scratchHolder := [] } ∧
      s.time ≤ due ∧ due ≤ s.time + 12000000 := by
  have hcore : (s.beginRecarve c scr).core = (s.updCore c fun k => { k with
    recarve := some (s.time + Config.latency s.free % 12000001, scr), scratch := [], scratchErr := [], scratchHolder := [] }).core := rfl
  refine ⟨s.time + Config.latency s.free % 12000001, rfl, fun x hx => ?_, ?_, ?_, ?_, ?_⟩
  · simpa using (List.mem_filter.mp hx).2
  · rw [hcore]
    exact State.core_updCore_other h c _
  · rw [hcore]
    exact State.core_updCore_same h c _
  · omega
  · omega

theorem execRecarveDone_spec {s : State} {core due scr : Nat} (h : Table.wf Core.fresh s.cores = true)
    (hr : (s.core core).recarve = some (due, scr)) (hdue : due ≤ s.time) :
    ∃ t, execRecarveDone core s = .next t ∧ t = { s with cores := t.cores } ∧ (∀ k, k ≠ core → t.core k = s.core k) ∧
      t.core core = { s.core core with scr := scr, recarve := none } :=
  ⟨s.updCore core fun k => { k with scr := scr, recarve := none }, by simp [execRecarveDone, hr, hdue], rfl,
    State.core_updCore_other h core _, State.core_updCore_same h core _⟩

/-! ## The statement -/

/-- Settles O39: a tile starts, a group of a tile, of a launch entry and of a node is placed, and a core is recarved. -/
theorem placementResults : Obligations.PlacementResults := by
  unfold Obligations.PlacementResults
  refine ⟨fun s st r h => ?_, fun s st r i c p h hp hc => ?_, fun s st e h => ?_, fun s slot pass tile node c r p recs sp => ?_,
    fun s st c scr hwf h => ?_, fun s core due scr hwf hr hdue => execRecarveDone_spec hwf hr hdue⟩
  · obtain ⟨t, ht, hexec⟩ := execTileStart_of_next h
    obtain ⟨p, hp⟩ := State.passAt_of_beginTile ht
    by_cases hk : p.rcd.kind = 5
    · obtain ⟨hmem, hgid, ⟨x, hx, hstarted, hdone⟩, hnets⟩ := State.beginTile_commit ht hp hk
      refine ⟨t, x, hexec, hmem, hx, hstarted, fun q hq hne => ?_, fun q hq _ => ⟨hgid, hdone, fun n hn => ?_⟩⟩
      · cases hp.symm.trans hq
        exact absurd hk hne
      · cases hp.symm.trans hq
        rw [hnets, List.getElem?_modify_eq, hn]
        rfl
    · obtain ⟨hmem, hgid, x, hx, hstarted, hplaced⟩ := State.beginTile_places ht hp hk
      refine ⟨t, x, hexec, hmem, hx, hstarted, fun _ _ _ => ⟨hgid, hplaced⟩, fun q hq h5 => ?_⟩
      cases hp.symm.trans hq
      exact absurd h5 hk
  · obtain ⟨t, ht, hexec⟩ := execGroupPlace_of_next h
    refine hexec.trans (congrArg _ ?_)
    simpa [State.placeWaiting, State.waitSpec, hp, State.tryPlace, hc] using ht.symm
  · obtain ⟨t, ht, hexec⟩ := execGroupPlace_of_next h
    obtain ⟨hmem, hgid, hlast, hmore⟩ := placeEntry_results ht
    obtain ⟨hin, hfree⟩ := State.nextPlace_entry h
    exact ⟨t, hexec, hmem, hgid, hin, hfree, hlast, hmore⟩
  · intro tr pix hr hp hrecs hsp hc he hq
    obtain ⟨u, r', hu, hspec⟩ := nodeGroupLaunch_results (t := tr) hr hp hrecs hsp hc he hq
    exact ⟨u, r', execNodeGroupLaunch_of_launchNode hu, hspec⟩
  · obtain ⟨hempty, hscr, hst⟩ := State.recarvable_spec (State.recarvable_of_recarveFor h)
    obtain ⟨due, hspec⟩ := State.beginRecarve_spec hwf c scr
    refine ⟨hempty, hscr, hst, _, due, ?_, hspec⟩
    show execRecarve st s = _
    rw [execRecarve, h]

end Sys2Proof.Machine
end

section
/-! SUPPORT. Gated arrays and their wake-ups, recalibration, the thermal trip, and O52 (R130, R262, R263, R432, R438, R439). -/

namespace Sys2Proof.Machine

/-! ## A table that keeps some of its keys -/

theorem Table.get_filter_of_pos {V : Type} [DecidableEq V] (d : V) (p : Nat → Bool) (t : Table V) (k lo : Nat)
    (h : Table.wfFrom d lo t = true) (hk : p k = true) : Table.get d (t.filter fun e => p e.1) k = Table.get d t k := by
  induction t generalizing lo with
  | nil => rfl
  | cons e t ih =>
    obtain ⟨q, v⟩ := e
    simp only [Table.wfFrom, Bool.and_eq_true] at h
    by_cases hp : p q = true
    · rw [List.filter_cons, if_pos hp, Table.get, Table.get, ih _ h.2]
    · have hne : q ≠ k := fun hq => hp (hq ▸ hk)
      rw [List.filter_cons, if_neg hp, ih _ h.2, Table.get, if_neg hne]
      split
      · rfl
      · exact Table.get_below d t _ k h.2 (by omega)

theorem Table.get_filter_of_neg {V : Type} (d : V) (p : Nat → Bool) (t : Table V) (k : Nat) (hk : p k = false) :
    Table.get d (t.filter fun e => p e.1) k = d := by
  induction t with
  | nil => rfl
  | cons e t ih =>
    obtain ⟨q, v⟩ := e
    by_cases hp : p q = true
    · have hne : q ≠ k := fun hq => by simp [← hq, hp] at hk
      rw [List.filter_cons, if_pos hp, Table.get, if_neg hne, ih, ite_self]
    · rw [List.filter_cons, if_neg hp, ih]

/-! ## Gating (R262) -/

theorem State.vat_setVat (s : State) (st : StackId) (v : Vat) : (s.setVat st v).vat st = v := by
  by_cases hst : st = 0 <;> simp [State.vat, State.setVat, hst]

theorem State.setVat_frame (s : State) (st : StackId) (v : Vat) :
    (s.setVat st v).cores = s.cores ∧ (s.setVat st v).mem = s.mem ∧ (s.setVat st v).waking = s.waking := by
  unfold State.setVat
  split <;> exact ⟨rfl, rfl, rfl⟩

theorem execArrayGate_of_gateable {s : State} {arr : GatedArray} (hn : s.isGated arr = false) (hg : s.gateable arr = true) :
    execArrayGate arr s = .next (s.gate arr) := by
  simp [execArrayGate, hn, hg]

theorem State.core_gate_l1Way {s : State} (h : Table.wf Core.fresh s.cores = true) (core way : Nat) :
    (s.gate (.l1Way core way)).core core = { s.core core with gatedWays := (s.core core).gatedWays ++ [way] } :=
  State.core_updCore_same h core fun k => { k with gatedWays := k.gatedWays ++ [way] }

theorem State.core_gate_scratch {s : State} (h : Table.wf Core.fresh s.cores = true) (core range : Nat) :
    (s.gate (.scratch core range)).core core = { s.core core with
      gated := (s.core core).gated ++ [range], scratch := (s.core core).scratch.filter fun e => e.1 / 4096 != range,
      scratchErr := (s.core core).scratchErr.filter fun w => w / 512 != range } :=
  State.core_updCore_same h core _

theorem State.isGated_gate {s : State} (h : Table.wf Core.fresh s.cores = true) (arr : GatedArray) : (s.gate arr).isGated arr = true := by
  cases arr with
  | vatBank st slice bank =>
    show ((s.setVat st _).vat st).gatedBanks.contains (bankNumber slice bank) = true
    rw [State.vat_setVat]
    simp
  | l1Way core way =>
    rw [State.isGated, State.core_gate_l1Way h]
    simp
  | scratch core range =>
    rw [State.isGated, State.core_gate_scratch h]
    simp

/-- A gated bank's bytes are zero, and every other byte stays. -/
theorem State.read_gate_vatBank {s : State} (h : s.mem.wf = true) (st : StackId) (slice : Fin 64) (bank : Fin 16) (q : Nat) :
    (s.gate (.vatBank st slice bank)).mem.read q = if inBank st slice bank q then 0 else s.mem.read q := by
  show Table.get Memory.fill (s.mem.filter fun c => !inBank st slice bank c.1) q = _
  split
  · next hin => exact Table.get_filter_of_neg _ (fun a => !inBank st slice bank a) _ q (by simp [hin])
  · next hout => exact Table.get_filter_of_pos _ (fun a => !inBank st slice bank a) _ q 0 h (by simp [hout])

/-- A gated range's scratchpad bytes are zero, and every other byte of the core's scratchpad stays. -/
theorem State.scratch_gate_scratch {s : State} (h : Table.wf Core.fresh s.cores = true) (core range : Nat)
    (hs : Table.wf 0 (s.core core).scratch = true) (a : Nat) :
    Table.get 0 ((s.gate (.scratch core range)).core core).scratch a = if a / 4096 = range then 0 else Table.get 0 (s.core core).scratch a := by
  rw [State.core_gate_scratch h]
  split
  · next hin => exact Table.get_filter_of_neg _ (fun a => a / 4096 != range) _ a (by simp [hin])
  · next hout => exact Table.get_filter_of_pos _ (fun a => a / 4096 != range) _ a 0 hs (by simp [hout])

/-! ## Waking (R263) -/

theorem execArrayWake_of_gated {s : State} {arr : GatedArray} (hg : s.isGated arr = true) (hw : ∀ x ∈ s.waking, x.1 ≠ arr) :
    execArrayWake arr s =
      .next { s with waking := s.waking ++ [(arr, s.time + Config.latency s.free % 1500001)], free := s.free + 1 } := by
  have hany : (s.waking.any fun x => x.1 == arr) = false := by simpa using hw
  simp [execArrayWake, State.wakeArray, hg, hany]

/-- No wake-up of an array is on its way any more. -/
def State.awoken (s : State) (arr : GatedArray) : State := { s with waking := s.waking.filter fun x => x.1 != arr }

theorem execArrayWakeEnd_of_due {s : State} {arr : GatedArray} (h : ∃ x ∈ s.waking, x.1 = arr ∧ x.2 ≤ s.time) :
    execArrayWakeEnd arr s = .next ((s.awoken arr).ungate arr) := by
  refine if_pos ?_
  simpa [List.any_eq_true] using h

theorem State.ungate_frame (s : State) (arr : GatedArray) : (s.ungate arr).mem = s.mem ∧ (s.ungate arr).waking = s.waking := by
  cases arr with
  | vatBank st slice bank => exact (s.setVat_frame st _).2
  | l1Way core way => exact ⟨rfl, rfl⟩
  | scratch core range => exact ⟨rfl, rfl⟩

theorem State.isGated_ungate {s : State} (h : Table.wf Core.fresh s.cores = true) (arr : GatedArray) : (s.ungate arr).isGated arr = false := by
  cases arr with
  | vatBank st slice bank =>
    show ((s.setVat st _).vat st).gatedBanks.contains (bankNumber slice bank) = false
    rw [State.vat_setVat]
    exact contains_filter_ne_self _ _
  | l1Way core way =>
    rw [State.isGated, State.ungate, State.core_updCore_same h]
    exact contains_filter_ne_self _ _
  | scratch core range =>
    rw [State.isGated, State.ungate, State.core_updCore_same h]
    exact contains_filter_ne_self _ _

/-! ## Recalibration (R130, R432, R438) -/

theorem le_foldl_max {A : Type} (f : A → Nat) (l : List A) (b : Nat) :
    b ≤ l.foldl (fun m x => max m (f x)) b ∧ ∀ x ∈ l, f x ≤ l.foldl (fun m x => max m (f x)) b := by
  induction l generalizing b with
  | nil => exact ⟨Nat.le_refl b, nofun⟩
  | cons a l ih =>
    obtain ⟨hstart, hmem⟩ := ih (max b (f a))
    refine ⟨Nat.le_trans (Nat.le_max_left _ _) hstart, fun x hx => ?_⟩
    obtain rfl | hx := List.mem_cons.mp hx
    · exact Nat.le_trans (Nat.le_max_right _ _) hstart
    · exact hmem x hx

theorem State.longest_congr {s t : State} (h : t.cores = s.cores) : t.longest = s.longest := by
  funext k
  simp only [State.longest, State.core, h]

theorem State.le_longest (s : State) (k c : Nat) (hc : c < 192) : ((s.core c).recal.getD (s.core c).periods).getD k 0 ≤ s.longest k :=
  (le_foldl_max (fun c => ((s.core c).recal.getD (s.core c).periods).getD k 0) _ 0).2 c (List.mem_range.mpr hc)

theorem State.wf_clocked {s : State} (h : Table.wf Core.fresh s.cores = true) (core : Nat) :
    Table.wf Core.fresh (s.clocked core).cores = true := by
  unfold State.clocked
  split
  · exact Table.wf_set _ _ _ _ h
  · exact h

theorem State.core_clocked_other {s : State} (h : Table.wf Core.fresh s.cores = true) (core k : Nat) (hk : k ≠ core) :
    (s.clocked core).core k = s.core k := by
  unfold State.clocked
  split
  · exact State.core_updCore_other h core _ k hk
  · rfl

/-- A core whose clock is brought to the present, and which runs at new periods from its next cycle on (R438). -/
def State.withPeriods (s : State) (core : Nat) (ps : List Nat) : State := (s.clocked core).updCore core fun k => { k with recal := some ps }

/-- What a recalibration leaves: the core's new periods, the longest period of each class, and the count (R432, R438). -/
def State.recalibrated (s : State) (core : Nat) (ps : List Nat) : State :=
  let s1 := s.withPeriods core ps
  { s1 with dev := { s1.dev with clscal := (List.range 4).map s1.longest }, recalCount := s1.recalCount + 1 }

/-- A period from the nominal one up to a bound within 5% of it is one that a recalibration may find (R130). -/
theorem periodOk_of_bounds {k : Fin 4} {p most : Nat} (hlo : Config.nominalPeriod k ≤ p) (hhi : p ≤ most)
    (hmost : 100 * most ≤ 105 * Config.nominalPeriod k) : periodOk k p = true := by
  simp only [periodOk, Bool.and_eq_true, decide_eq_true_eq]
  exact ⟨hlo, by omega⟩

theorem execRecalibration_of_due {s : State} {p0 p1 p2 p3 : Nat} (hdue : s.recalDue ≤ s.time) (h0 : periodOk 0 p0 = true)
    (h1 : periodOk 1 p1 = true) (h2 : periodOk 2 p2 = true) (h3 : periodOk 3 p3 = true) :
    execRecalibration (s.recalCount % 192) p0 p1 p2 p3 s = .next (s.recalibrated (s.recalCount % 192) [p0, p1, p2, p3]) :=
  if_pos (by simp [hdue, h0, h1, h2, h3])

section
variable (s : State) (core : Nat) (ps : List Nat)

theorem State.core_recalibrated (k : Nat) : (s.recalibrated core ps).core k = (s.withPeriods core ps).core k := rfl

theorem State.recal_recalibrated_same (h : Table.wf Core.fresh s.cores = true) : ((s.recalibrated core ps).core core).recal = some ps := by
  rw [State.core_recalibrated, State.withPeriods, State.core_updCore_same (State.wf_clocked h core)]

theorem State.core_recalibrated_other (h : Table.wf Core.fresh s.cores = true) (k : Nat) (hk : k ≠ core) :
    (s.recalibrated core ps).core k = s.core k := by
  rw [State.core_recalibrated, State.withPeriods, State.core_updCore_other (State.wf_clocked h core) core _ k hk,
    State.core_clocked_other h core k hk]

theorem State.recalibrated_frame : (s.recalibrated core ps).mem = s.mem ∧ (s.recalibrated core ps).recalCount = s.recalCount + 1 := by
  unfold State.recalibrated State.withPeriods
  rw [State.clocked_eq]
  exact ⟨rfl, rfl⟩

theorem State.recalibrated_clscal : (s.recalibrated core ps).dev.clscal = (List.range 4).map (s.recalibrated core ps).longest := by
  have hsame : (s.recalibrated core ps).longest = (s.withPeriods core ps).longest := State.longest_congr rfl
  rw [hsame]
  rfl

/-- CLSCAL reports no period shorter than one at which a core runs (R432). -/
theorem State.le_clscal_recalibrated (k c : Nat) (hk : k < 4) (hc : c < 192) :
    (((s.recalibrated core ps).core c).recal.getD ((s.recalibrated core ps).core c).periods).getD k 0 ≤
      (s.recalibrated core ps).dev.clscal.getD k 0 := by
  have hget : (s.recalibrated core ps).dev.clscal.getD k 0 = (s.recalibrated core ps).longest k := by
    rw [State.recalibrated_clscal, List.getD_eq_getElem?_getD, List.getElem?_map, List.getElem?_range hk, Option.map_some, Option.getD_some]
  rw [hget]
  exact State.le_longest _ k c hc

end

/-! ## The thermal trip (R439) -/

theorem step_of_tripped {s : State} (h : s.dev.tripped = true) (hin : ∀ f rest, s.inputs ≠ .command (.deviceReset f) :: rest) :
    step s = .fault .heldInReset := by
  unfold step
  rw [h]
  split
  · next hreset => exact absurd hreset (hin _ _)
  · rfl
  all_goals contradiction

/-! ## The statement -/

/-- Settles O52: gating, waking, recalibration, the end of a cycle and the trip, each by what its step leaves. -/
theorem powerResults : Obligations.PowerResults := by
  unfold Obligations.PowerResults
  intro s arr hwf hmem
  refine ⟨fun hn hg => ?_, fun hg hw => ?_, fun hdue => ?_, fun p0 p1 p2 p3 => ?_, fun k a b => ⟨rfl, rfl, rfl⟩,
    fun tj => rfl, step_of_tripped⟩
  · refine ⟨_, execArrayGate_of_gateable hn hg, State.isGated_gate hwf arr, ?_, ?_, ?_⟩
    · rintro st slice bank rfl
      exact ⟨(s.setVat_frame st _).1, State.read_gate_vatBank hmem st slice bank⟩
    · rintro core way rfl
      exact ⟨rfl, by rw [State.core_gate_l1Way hwf]⟩
    · rintro core range rfl
      exact ⟨rfl, State.scratch_gate_scratch hwf core range⟩
  · exact ⟨_, _, execArrayWake_of_gated hg hw, rfl, by omega, by omega⟩
  · obtain ⟨hm, hwaking⟩ := (s.awoken arr).ungate_frame arr
    refine ⟨_, execArrayWakeEnd_of_due hdue, State.isGated_ungate (s := s.awoken arr) hwf arr, fun x hx => ?_, hm⟩
    rw [hwaking] at hx
    exact ne_of_mem_filter_bne hx
  · intro core hdue l0 u0 l1 u1 l2 u2 l3 u3
    obtain ⟨hm, hcount⟩ := s.recalibrated_frame core [p0, p1, p2, p3]
    exact ⟨_, execRecalibration_of_due hdue (periodOk_of_bounds l0 u0 (by decide)) (periodOk_of_bounds l1 u1 (by decide))
      (periodOk_of_bounds l2 u2 (by decide)) (periodOk_of_bounds l3 u3 (by decide)), s.recal_recalibrated_same core _ hwf, hm, hcount,
      s.core_recalibrated_other core _ hwf, rfl, s.le_clscal_recalibrated core _⟩

end Sys2Proof.Machine
end

section
/-! SUPPORT. Integers as patterns of `w` bits, and the counts and the reversal of bits (R178, R206, R209). -/

namespace Sys2Proof.Bits

/-! ## Integers modulo 2^w (R178, R206) -/

theorem cast_two_pow (w : Nat) : ((2 ^ w : Nat) : Int) = 2 ^ w :=
  Int.natCast_pow 2 w

theorem cast_wrap (w : Nat) (z : Int) : (wrap w z : Int) = z % 2 ^ w := by
  have hpos := Nat.two_pow_pos w
  rw [wrap, Int.toNat_of_nonneg (Int.emod_nonneg z (by omega)), cast_two_pow]

theorem wrap_lt (w : Nat) (z : Int) : wrap w z < 2 ^ w := by
  have hlt : (wrap w z : Int) < 2 ^ w := by
    rw [cast_wrap]
    exact Int.emod_lt_of_pos z (Int.pow_pos (by decide))
  exact Int.ofNat_lt.1 (cast_two_pow w ▸ hlt)

theorem cast_wrap_of_nonneg {w : Nat} {z : Int} (hz : 0 ≤ z) (hlt : z < 2 ^ w) : (wrap w z : Int) = z :=
  (cast_wrap w z).trans (Int.emod_eq_of_lt hz hlt)

theorem cast_wrap_of_neg {w : Nat} {z : Int} (hz : z < 0) (hle : -(2 ^ w) ≤ z) : (wrap w z : Int) = z + 2 ^ w := by
  rw [cast_wrap, ← Int.add_emod_right, Int.emod_eq_of_lt (by omega) (by omega)]

theorem toSigned_wrap {w : Nat} {z : Int} (hw : 0 < w) (hlo : -(2 ^ (w - 1)) ≤ z) (hhi : z < 2 ^ (w - 1)) :
    toSigned w (wrap w z) = z := by
  have htwice : 2 ^ (w - 1) * 2 = 2 ^ w := Nat.two_pow_pred_mul_two hw
  have hcast := cast_two_pow w
  have hhalf := cast_two_pow (w - 1)
  simp only [toSigned, if_neg (Nat.ne_of_gt hw), Nat.mod_eq_of_lt (wrap_lt w z)]
  rcases Int.lt_or_le z 0 with hz | hz
  · have hv : (wrap w z : Int) = z + 2 ^ w := cast_wrap_of_neg hz (by omega)
    rw [if_neg (by omega)]
    omega
  · have hv : (wrap w z : Int) = z := cast_wrap_of_nonneg hz (by omega)
    rw [if_pos (by omega), hv]

/-! ## Counting and reversing bits (R209) -/

theorem popcount_eq_length_filter (w x : Nat) : popcount w x = ((List.range w).filter fun k => x.testBit k).length := by
  induction w generalizing x with
  | zero => rfl
  | succ w ih =>
    have htail : (fun k => x.testBit k) ∘ Nat.succ = fun k => (x / 2).testBit k := funext fun k => Nat.testBit_succ x k
    have hcons : ((List.range (w + 1)).filter fun k => x.testBit k).length =
        (if x.testBit 0 then 1 else 0) + ((List.range w).filter fun k => (x / 2).testBit k).length := by
      rw [List.range_succ_eq_map, List.filter_cons, List.filter_map, htail]
      split <;> simp [Nat.add_comm]
    rw [popcount, ih, hcons, Nat.testBit_zero]
    rcases Nat.mod_two_eq_zero_or_one x with h | h <;> simp [h]

theorem testBit_reverse {w j : Nat} (x : Nat) (hj : j < w) : (reverse w x).testBit j = x.testBit (w - 1 - j) := by
  simp [reverse, testBit_maskOf, hj]

theorem clz_of_zero {w x : Nat} (h : x % 2 ^ w = 0) : clz w x = w := by
  simp [clz, h]

theorem clz_of_ne_zero {w x : Nat} (h : x % 2 ^ w ≠ 0) : clz w x = w - 1 - (x % 2 ^ w).log2 := by
  simp [clz, h]

theorem log2_mod_lt {w x : Nat} (h : x % 2 ^ w ≠ 0) : (x % 2 ^ w).log2 < w :=
  (Nat.log2_lt h).2 (Nat.mod_lt x (Nat.two_pow_pos w))

theorem mod_lt_two_pow_sub_clz (w x : Nat) : x % 2 ^ w < 2 ^ (w - clz w x) := by
  by_cases h : x % 2 ^ w = 0
  · rw [h]
    exact Nat.two_pow_pos _
  · have hlog := log2_mod_lt h
    have htop : w - clz w x = (x % 2 ^ w).log2 + 1 := by rw [clz_of_ne_zero h]; omega
    rw [htop]
    exact Nat.lt_log2_self

theorem testBit_of_sub_clz_le {w x j : Nat} (hj : j < w) (h : w - clz w x ≤ j) : x.testBit j = false := by
  have hlow : (x % 2 ^ w).testBit j = false :=
    Nat.testBit_lt_two_pow (Nat.lt_of_lt_of_le (mod_lt_two_pow_sub_clz w x) (Nat.pow_le_pow_right (by decide) h))
  simpa [Nat.testBit_mod_two_pow, hj] using hlow

theorem testBit_sub_clz {w x : Nat} (h : clz w x < w) : x.testBit (w - 1 - clz w x) = true := by
  have hne : x % 2 ^ w ≠ 0 := fun hzero => Nat.ne_of_lt h (clz_of_zero hzero)
  have hlog := log2_mod_lt hne
  have htop : w - 1 - clz w x = (x % 2 ^ w).log2 := by rw [clz_of_ne_zero hne]; omega
  have hbit := Nat.testBit_log2 hne
  rw [Nat.testBit_mod_two_pow, Bool.and_eq_true] at hbit
  rw [htop]
  exact hbit.2

theorem ctz_eq_or (w x : Nat) :
    ctz w x = w ∧ (∀ j < w, x.testBit j = false) ∨ ctz w x < w ∧ x.testBit (ctz w x) = true ∧ ∀ j < ctz w x, x.testBit j = false := by
  cases hfind : (List.range w).find? (fun i => x.testBit i) with
  | none =>
    have hw : ctz w x = w := by rw [ctz, hfind, Option.getD_none]
    exact .inl ⟨hw, fun j hj => by simpa using List.find?_range_eq_none.1 hfind j hj⟩
  | some i =>
    have hi : ctz w x = i := by rw [ctz, hfind, Option.getD_some]
    obtain ⟨hbit, hmem, hbelow⟩ := List.find?_range_eq_some.1 hfind
    exact .inr (hi ▸ ⟨List.mem_range.1 hmem, hbit, fun j hj => by simpa using hbelow j hj⟩)

theorem testBit_of_lt_ctz {w x j : Nat} (h : j < ctz w x) : x.testBit j = false := by
  obtain ⟨hw, hnone⟩ | ⟨-, -, hbelow⟩ := ctz_eq_or w x
  · exact hnone j (hw ▸ h)
  · exact hbelow j h

theorem testBit_ctz {w x : Nat} (h : ctz w x < w) : x.testBit (ctz w x) = true := by
  obtain ⟨hw, -⟩ | ⟨-, hbit, -⟩ := ctz_eq_or w x
  · exact absurd hw (Nat.ne_of_lt h)
  · exact hbit

end Sys2Proof.Bits
end

section
/-! SUPPORT. Elements of a register, the values of integer results, and O19 (R179, R206, R209). -/

namespace Sys2Proof.Machine

open Sys2Proof.Bits
open Sys2Proof.Types (width isSigned isInt)

/-! ## Elements of a register (R179) -/

theorem getElem?_elems {w k : Nat} (x : Nat) (hk : k < 64 / w) : (elems w x)[k]? = some (x / 2 ^ (w * k) % 2 ^ w) := by
  rw [elems, List.getElem?_map, List.getElem?_range hk, Option.map_some, elem]

theorem elem_succ (w x k : Nat) : elem w x (k + 1) = elem w (x / 2 ^ w) k := by
  rw [elem, elem, Nat.div_div_eq_div_mul, ← Nat.pow_add, Nat.mul_succ, Nat.add_comm w]

theorem fromElems_map_elem (w n x : Nat) : fromElems w ((List.range n).map (elem w x)) = x % 2 ^ (w * n) := by
  induction n generalizing x with
  | zero => simp [fromElems, Nat.mod_one]
  | succ n ih =>
    have htail : elem w x ∘ Nat.succ = elem w (x / 2 ^ w) := funext fun k => elem_succ w x k
    have hhead : elem w x 0 % 2 ^ w = x % 2 ^ w := by simp [elem]
    rw [List.range_succ_eq_map, List.map_cons, List.map_map, htail, fromElems, ih, hhead, Nat.mul_succ,
      Nat.add_comm (w * n), Nat.pow_add, Nat.mod_mul]

theorem fromElems_elems {w x : Nat} (hw : w ∣ 64) (hx : x < 2 ^ 64) : fromElems w (elems w x) = x := by
  rw [elems, fromElems_map_elem, Nat.mul_div_cancel' hw, Nat.mod_eq_of_lt hx]

/-! ## Integer results (R206) -/

theorem width_pos (t : TyCode) : 0 < width t := by
  cases t <;> simp [width]

theorem intMin_le_intMax (t : TyCode) : Num.intMin t ≤ Num.intMax t := by
  have hhalf := Nat.two_pow_pos (width t - 1)
  have hfull := Nat.two_pow_pos (width t)
  unfold Num.intMin Num.intMax
  split <;> omega

/-- A value of the type is what its pattern reads as. -/
theorem intOf_wrap {t : TyCode} {z : Int} (hlo : Num.intMin t ≤ z) (hhi : z ≤ Num.intMax t) : intOf t (wrap (width t) z) = z := by
  unfold Num.intMin at hlo
  unfold Num.intMax at hhi
  unfold intOf
  split
  next hs =>
    rw [if_pos hs] at hlo hhi
    rw [cast_two_pow] at hlo hhi
    exact toSigned_wrap (width_pos t) hlo (by omega)
  next hs =>
    rw [if_neg hs] at hlo hhi
    rw [cast_two_pow] at hhi
    exact cast_wrap_of_nonneg hlo (by omega)

/-- What a clamp can do: the least value, the greatest, or the value itself. -/
theorem clampInt_cases (t : TyCode) (z : Int) :
    (z < Num.intMin t ∧ Num.clampInt t z = (wrap (width t) (Num.intMin t), 1)) ∨
    (Num.intMax t < z ∧ Num.clampInt t z = (wrap (width t) (Num.intMax t), 1)) ∨
    (Num.intMin t ≤ z ∧ z ≤ Num.intMax t ∧ Num.clampInt t z = (wrap (width t) z, 0)) := by
  unfold Num.clampInt
  split
  next hlt => exact .inl ⟨hlt, rfl⟩
  next hle =>
    split
    next hgt => exact .inr (.inl ⟨hgt, rfl⟩)
    next hge => exact .inr (.inr ⟨by omega, by omega, rfl⟩)

theorem clampInt_fst_lt (t : TyCode) (z : Int) : (Num.clampInt t z).1 < 2 ^ width t := by
  obtain ⟨-, h⟩ | ⟨-, h⟩ | ⟨-, -, h⟩ := clampInt_cases t z <;> rw [h] <;> exact wrap_lt _ _

theorem intOf_clampInt (t : TyCode) (z : Int) :
    intOf t (Num.clampInt t z).1 = max (Num.intMin t) (min (Num.intMax t) z) := by
  have hle := intMin_le_intMax t
  obtain ⟨hlt, h⟩ | ⟨hgt, h⟩ | ⟨hlo, hhi, h⟩ := clampInt_cases t z
  · rw [h, intOf_wrap (Int.le_refl _) hle]; omega
  · rw [h, intOf_wrap hle (Int.le_refl _)]; omega
  · rw [h, intOf_wrap hlo hhi]; omega

theorem clampInt_snd (t : TyCode) (z : Int) :
    (Num.clampInt t z).2 = if Num.intMin t ≤ z ∧ z ≤ Num.intMax t then 0 else 1 := by
  obtain ⟨hlt, h⟩ | ⟨hgt, h⟩ | ⟨hlo, hhi, h⟩ := clampInt_cases t z
  · rw [h, if_neg (by omega)]
  · rw [h, if_neg (by omega)]
  · rw [h, if_pos ⟨hlo, hhi⟩]

theorem intResult_lt (t : TyCode) (sat : Bool) (z : Int) : (intResult t sat z).1 < 2 ^ width t := by
  cases sat with
  | false => exact wrap_lt _ _
  | true => exact clampInt_fst_lt t z

theorem intMin_eq (t : TyCode) : Num.intMin t = if isSigned t then -(2 ^ (width t - 1)) else 0 := by
  rw [Num.intMin, cast_two_pow]

theorem intMax_eq (t : TyCode) : Num.intMax t = if isSigned t then 2 ^ (width t - 1) - 1 else 2 ^ width t - 1 := by
  rw [Num.intMax, cast_two_pow, cast_two_pow]

/-! ## The statement -/

/-- Settles O19: a register is its elements below 2^64, a clamp keeps what the type holds, and each count is the place of the bit it names. -/
theorem elementLaws : Obligations.ElementLaws := by
  unfold Obligations.ElementLaws
  refine ⟨fun w x k hw hx => ?_, fun t sat z _ => ?_, fun w x j hj => ?_⟩
  · have hdvd : w ∣ 64 := by
      simp only [List.mem_cons, List.not_mem_nil, or_false] at hw
      rcases hw with rfl | rfl | rfl | rfl <;> decide
    exact ⟨fromElems_elems hdvd hx, getElem?_elems x⟩
  · dsimp only
    rw [← intMin_eq, ← intMax_eq]
    refine ⟨intResult_lt t sat z, ?_, ?_⟩
    · rintro rfl
      exact ⟨cast_wrap (width t) z, rfl⟩
    · rintro rfl
      exact ⟨intOf_clampInt t z, clampInt_snd t z⟩
  · exact ⟨popcount_eq_length_filter w x, testBit_reverse x hj, testBit_of_sub_clz_le hj, testBit_sub_clz, testBit_of_lt_ctz, testBit_ctz⟩

end Sys2Proof.Machine
end

section
/-! SUPPORT. The shapes of a fixed-latency lane instruction: for each, the rule that gives the result of an instruction of that shape
(R105, R198, R206, R209, R211, R230). -/

namespace Sys2Proof.Machine

open Sys2Proof.Types (width)

section Shapes

variable {ins : Instr} {op : LOp} {f : Lane} {far : Remote}

/-! ## Any body -/

theorem laneResult_fixedWord {body : Issue → Writes × BitVec 9} (hexec : ∀ s, exec ins s = fixedWord op f s far body) :
    LaneResult ins op f far body :=
  laneResult_of_fixed ins op f far body body hexec fun _ _ => rfl

theorem laneResult_fixedLane {body' body : Issue → Writes × BitVec 9} (hexec : ∀ s, exec ins s = fixedLane op f s body')
    (hbody : ∀ i, i.ln = f → body' i = body i) : LaneResult ins op f ownLane body :=
  laneResult_of_fixed ins op f ownLane body body' hexec hbody

/-! ## One register in each active lane -/

theorem laneResult_laneValue {z' : Issue → Nat → Option (Nat × Nat)} {z : Issue → Nat → Nat}
    (hexec : ∀ s, exec ins s = fixedLane op f s fun i => (i.toV (z' i), 0)) (hz : ∀ i, i.ln = f → ∀ l, z' i l = some (z i l, 0)) :
    LaneResult ins op f ownLane fun i => laneValue i (z i) :=
  laneResult_fixedLane hexec fun i hi => by rw [laneValue, funext (hz i hi)]

theorem laneResult_bitwise2 {z' : Nat → Nat → Nat} {z : Issue → Nat → Nat} (hexec : ∀ s, exec ins s = bitwise2 op f s z')
    (hz : ∀ i l, z' (i.read i.t f.a l) (i.read i.t f.b l) = z i l) : LaneResult ins op f ownLane fun i => laneValue i (z i) :=
  laneResult_laneValue (fun s => (hexec s).trans (by rw [bitwise2])) fun i _ l => by rw [hz]

/-! ## Element by element -/

theorem laneResult_elementwise1 {z' z : Issue → Nat → Nat × Nat} (hexec : ∀ s, exec ins s = elementwise1 op f s z')
    (hz : ∀ i, i.ln = f → z' i = z i) : LaneResult ins op f ownLane fun i => each1 i (z i) :=
  laneResult_fixedLane (fun s => (hexec s).trans (by rw [elementwise1])) fun i hi => by rw [each1, hi, hz i hi]

theorem laneResult_elementwise2 {z' z : Issue → Nat → Nat → Nat × Nat} (hexec : ∀ s, exec ins s = elementwise2 op f s z')
    (hz : ∀ i, i.ln = f → z' i = z i) : LaneResult ins op f ownLane fun i => each2 i (z i) :=
  laneResult_fixedLane (fun s => (hexec s).trans (by rw [elementwise2])) fun i hi => by rw [each2, hi, hz i hi]

theorem laneResult_elementwise3 {z' z : Issue → Nat → Nat → Nat → Nat × Nat} (hexec : ∀ s, exec ins s = elementwise3 op f s z')
    (hz : ∀ i, i.ln = f → z' i = z i) : LaneResult ins op f ownLane fun i => each3 i (z i) :=
  laneResult_fixedLane (fun s => (hexec s).trans (by rw [elementwise3])) fun i hi => by rw [each3, hi, hz i hi]

theorem laneResult_intOp2 {sat : Issue → Bool} {z' : Int → Int → Int} {z : Issue → Nat → Nat → Nat × Nat}
    (hexec : ∀ s, exec ins s = intOp2 op f s sat z')
    (hz : ∀ i, i.ln = f → (fun x y => intResult i.t (sat i) (z' (intOf i.t x) (intOf i.t y))) = z i) :
    LaneResult ins op f ownLane fun i => each2 i (z i) :=
  laneResult_elementwise2 (fun s => (hexec s).trans (by rw [intOp2])) hz

theorem laneResult_shiftWord {z' : Nat → Nat → Nat → Nat} {z : Issue → Nat → Nat → Nat × Nat}
    (hexec : ∀ s, exec ins s = shiftWord op f s z') (hz : ∀ i, (fun x y => (z' (width i.t) x (y % width i.t), 0)) = z i) :
    LaneResult ins op f ownLane fun i => each2 i (z i) :=
  laneResult_elementwise2 (fun s => (hexec s).trans (by rw [shiftWord])) fun i _ => hz i

theorem laneResult_compareWord {z : Issue → Nat → Nat → Bool} (hexec : ∀ s, exec ins s = compareWord op f s z) :
    LaneResult ins op f ownLane fun i => eachCompare i (z i) :=
  laneResult_fixedLane (fun s => (hexec s).trans (by rw [compareWord])) fun i hi => by
    rw [eachCompare, hi]
    cases f.d <;> rfl

/-! ## The columns and the rows of a quad -/

theorem laneResult_quadDiff {rows : Bool} (hexec : ∀ s, exec ins s = quadDiff op rows f s) :
    LaneResult ins op f (diffFar f rows) fun i => quadDifference i rows := by
  refine laneResult_of_fixed ins op f (diffFar f rows) _ _ (fun s => (hexec s).trans (quadDiff.eq_def op rows f s)) fun i hi => ?_
  rw [quadDifference, hi]
  cases rows <;> rfl

end Shapes

/-! ## The fields that an issue takes from its word -/

theorem Issue.sat_of_ln {i : Issue} {f : Lane} (hi : i.ln = f) : i.sat = f.mod.getLsbD 0 := by
  rw [Issue.sat, hi]

theorem Issue.wide_of_ln {i : Issue} {f : Lane} (hi : i.ln = f) : i.wide = Types.resolve i.fmt (Types.ofCode f.x24.toNat) := by
  rw [Issue.wide, hi]

theorem Issue.allElems_of_ln {i : Issue} {f : Lane} (hi : i.ln = f) : i.allElems = i.lanes.flatMap fun l => i.elems f.a l := by
  rw [Issue.allElems, hi]

end Sys2Proof.Machine
end

section
/-! SUPPORT. O20, O21 and O22: each instruction by the rule of its shape, from the equation that gives its meaning (R203 to R235). -/

namespace Sys2Proof.Machine

/-- Settles O20, instruction by instruction; VSEL splits by its operand c, VMOV by its .SUB. -/
theorem laneIntegerResults : Obligations.LaneIntegerResults := by
  unfold Obligations.LaneIntegerResults
  refine ⟨fun f => ⟨?_, ?_, ?_, ?_, ?_, ?_, ?_, ?_, ?_, ?_, ?_, ?_⟩,
    fun f => ⟨?_, ?_, ?_, ?_, ?_, ?_, ?_, ?_, ?_, ?_, ?_, ?_, ?_, ?_, ?_, ?_, ?_, ?_, ?_, ?_⟩⟩
  -- arithmetic (R206 to R208)
  · exact laneResult_intOp2 (execVadd.eq_def f) fun i hi => by rw [Issue.sat_of_ln hi]
  · exact laneResult_intOp2 (execVsub.eq_def f) fun i hi => by rw [Issue.sat_of_ln hi]
  · exact laneResult_intOp2 (execVmul.eq_def f) fun i hi => by rw [Issue.sat_of_ln hi]
  · exact laneResult_intOp2 (execVmin.eq_def f) fun _ _ => rfl
  · exact laneResult_intOp2 (execVmax.eq_def f) fun _ _ => rfl
  · exact laneResult_elementwise2 (execVmulh.eq_def f) fun _ _ => rfl
  · exact laneResult_elementwise3 (execVmad.eq_def f) fun i hi => by rw [Issue.sat_of_ln hi]
  · exact laneResult_fixedWord (execVmadw.eq_def f)
  · exact laneResult_elementwise1 (execVabs.eq_def f) fun i hi => by rw [Issue.sat_of_ln hi]
  · exact laneResult_elementwise1 (execVneg.eq_def f) fun i hi => by rw [Issue.sat_of_ln hi]
  · exact laneResult_elementwise2 (execVabsd.eq_def f) fun _ _ => rfl
  · exact laneResult_fixedWord (execVsad.eq_def f)
  -- bits, shifts and fields (R209, R210)
  · exact laneResult_bitwise2 (execVand.eq_def f) fun _ _ => rfl
  · exact laneResult_bitwise2 (execVor.eq_def f) fun _ _ => rfl
  · exact laneResult_bitwise2 (execVxor.eq_def f) fun _ _ => rfl
  · exact laneResult_laneValue (execVnot.eq_def f) fun _ _ _ => rfl
  · exact laneResult_shiftWord (execVshl.eq_def f) fun _ => rfl
  · exact laneResult_shiftWord (execVshr.eq_def f) fun _ => rfl
  · exact laneResult_shiftWord (execVsra.eq_def f) fun _ => rfl
  · exact laneResult_shiftWord (execVrot.eq_def f) fun _ => rfl
  · exact laneResult_elementwise3 (execVbfe.eq_def f) fun _ _ => rfl
  · exact laneResult_fixedWord (execVbfi.eq_def f)
  · exact laneResult_elementwise1 (execVpopc.eq_def f) fun _ _ => rfl
  · exact laneResult_elementwise1 (execVclz.eq_def f) fun _ _ => rfl
  · exact laneResult_elementwise1 (execVctz.eq_def f) fun _ _ => rfl
  · exact laneResult_elementwise1 (execVbrev.eq_def f) fun _ _ => rfl
  · exact laneResult_elementwise1 (execVbswp.eq_def f) fun _ _ => rfl
  -- comparing, choosing and moving (R211 to R214)
  · exact laneResult_compareWord (execVcmp.eq_def f)
  · refine laneResult_laneValue (execVsel.eq_def f) fun i _ l => ?_
    cases f.c <;> rfl
  · refine laneResult_laneValue (execVmov.eq_def f) fun i _ l => ?_
    by_cases hsub : f.mod.getLsbD 0
    · rw [if_pos hsub, if_pos hsub]
    · rw [if_neg hsub, if_neg hsub]
  · exact laneResult_laneValue (execVpack.eq_def f) fun _ _ _ => rfl
  · exact laneResult_laneValue (execVunpk.eq_def f) fun _ _ _ => rfl

/-- Settles O21, instruction by instruction; VSCALE reads its wide type from its word. -/
theorem laneFloatResults : Obligations.LaneFloatResults := by
  unfold Obligations.LaneFloatResults
  refine ⟨fun f => ⟨?_, ?_, ?_, ?_, ?_, ?_, ?_, ?_, ?_, ?_, ?_, ?_, ?_, ?_, ?_, ?_, ?_⟩, fun f => ⟨?_, ?_, ?_, ?_⟩⟩
  -- arithmetic, comparing and classing (R215 to R218)
  · exact laneResult_elementwise2 (execVfadd.eq_def f) fun _ _ => rfl
  · exact laneResult_elementwise2 (execVfsub.eq_def f) fun _ _ => rfl
  · exact laneResult_elementwise2 (execVfmul.eq_def f) fun _ _ => rfl
  · exact laneResult_elementwise2 (execVfdiv.eq_def f) fun _ _ => rfl
  · exact laneResult_elementwise3 (execVfma.eq_def f) fun _ _ => rfl
  · exact laneResult_elementwise2 (execVfmin.eq_def f) fun _ _ => rfl
  · exact laneResult_elementwise2 (execVfmax.eq_def f) fun _ _ => rfl
  · exact laneResult_compareWord (execVfcmp.eq_def f)
  · exact laneResult_elementwise1 (execVfclass.eq_def f) fun _ _ => rfl
  -- functions of one operand (R219 to R221)
  · exact laneResult_elementwise1 (execVfrnd.eq_def f) fun _ _ => rfl
  · exact laneResult_elementwise1 (execVfrcp.eq_def f) fun _ _ => rfl
  · exact laneResult_elementwise1 (execVfrsq.eq_def f) fun _ _ => rfl
  · exact laneResult_elementwise1 (execVfsqrt.eq_def f) fun _ _ => rfl
  · exact laneResult_elementwise1 (execVfexp2.eq_def f) fun _ _ => rfl
  · exact laneResult_elementwise1 (execVflog2.eq_def f) fun _ _ => rfl
  · exact laneResult_elementwise1 (execVfsin.eq_def f) fun _ _ => rfl
  · exact laneResult_elementwise1 (execVfcos.eq_def f) fun _ _ => rfl
  -- dot products, conversions and block scales (R222 to R227)
  · exact laneResult_fixedWord (execVdot.eq_def f)
  · exact laneResult_fixedWord (execVcvt.eq_def f)
  · exact laneResult_fixedWord (execVcvtx.eq_def f)
  · exact laneResult_laneValue (execVscale.eq_def f) fun i hi _ => by rw [Issue.wide_of_ln hi, scaleIndex]

/-- Settles O22, instruction by instruction; VBALLOT and VRED split by their destination. -/
theorem crossLaneResults : Obligations.CrossLaneResults := by
  unfold Obligations.CrossLaneResults
  refine fun f => ⟨?_, ?_, ?_, ?_, ?_, ?_, ?_, ?_, ?_, ?_⟩
  -- reading other lanes (R228 to R230)
  · exact laneResult_fixedWord (execVxln.eq_def f)
  · exact laneResult_fixedWord (execVqswz.eq_def f)
  · exact laneResult_quadDiff (execVqdx.eq_def f)
  · exact laneResult_quadDiff (execVqdy.eq_def f)
  -- matches, ballots and votes (R231 to R233)
  · exact laneResult_laneValue (execVmatch.eq_def f) fun _ _ _ => rfl
  · refine laneResult_fixedLane (execVballot.eq_def f) fun i _ => ?_
    cases f.d <;> rfl
  · exact laneResult_fixedWord (execVvote.eq_def f)
  -- folds and the broadcast (R234, R235)
  · refine laneResult_fixedLane (execVscan.eq_def f) fun i hi => ?_
    rw [Issue.allElems_of_ln hi]
    rfl
  · refine laneResult_fixedLane (execVred.eq_def f) fun i hi => ?_
    rw [Issue.allElems_of_ln hi]
    cases f.d <;> rfl
  · exact laneResult_fixedWord (execVbcast.eq_def f)

end Sys2Proof.Machine
end
